-- ==== Sys2Proof/Word.lean ====
section
/-! DEFINITION. Sys2Proof/Word.lean: the word types of the Shelan F96 (R4, R85) and their plainest helpers.
Everything a test could show wrong (bit fields, sign extension, byte order) is in Sys2Proof/Machine/Bits.lean. -/

namespace Sys2Proof

/-- An x register, an address, a CSR (R85, R101). -/
abbrev Word := BitVec 64

/-- The smallest addressable unit of memory (R4). -/
abbrev Byte := BitVec 8

/-- A 32-bit grid cell (R114). -/
abbrev Cell := BitVec 32

/-- A 128-bit mask register (R133). -/
abbrev Mask := BitVec 128

/-- The number of an x register in an encoding: value n names xn (R35). -/
abbrev Reg := BitVec 5

/-- The number of a window register, w0 to w7 (R116). -/
abbrev Win := BitVec 3

/-- A kmask field: 0 to 23 name k0 to k23 and 31 means unmasked (R44). -/
abbrev KField := BitVec 5

end Sys2Proof
end

