-- ==== Sys2Proof/Machine/Bits.lean ====
section
/-! DEFINITION. Sys2Proof/Machine/Bits.lean: bit fields, sign extension and the little-endian byte order (R4). -/

namespace Sys2Proof.Machine

/-- The `n` bits of `w` from bit `lo` up (R4: bit 0 is the least significant). -/
def bits {k : Nat} (w : BitVec k) (lo n : Nat) : BitVec n := w.extractLsb' lo n

/-- The same field as a number. -/
def fieldNat {k : Nat} (w : BitVec k) (lo n : Nat) : Nat := (w.toNat >>> lo) % 2 ^ n

/-- Bit `i` of a number. -/
def bitNat (w i : Nat) : Bool := (w >>> i) % 2 == 1

/-- Two's complement sign extension to a word. -/
def sext {k : Nat} (w : BitVec k) : Word := w.signExtend 64

/-- Zero extension to a word. -/
def zext {k : Nat} (w : BitVec k) : Word := w.setWidth 64

/-- The low `n` bytes of a number, the byte at the lowest address first (R4). -/
def leBytes : Nat → Nat → List Byte
  | 0, _ => []
  | n + 1, v => BitVec.ofNat 8 v :: leBytes n (v / 256)

/-- The little-endian value of a byte list (R4). -/
def fromLE : List Byte → Nat
  | [] => 0
  | b :: bs => b.toNat + 256 * fromLE bs

/-- 1 for true and 0 for false, as a word. -/
def ofBool (b : Bool) : Word := if b then 1 else 0

/-- 1 for true and 0 for false, as a number. -/
def natOfBool (b : Bool) : Nat := if b then 1 else 0

/-- The value of a two's-complement field of `n` bits given as a number. -/
def signedNat (n v : Nat) : Int := if v < 2 ^ (n - 1) then (v : Int) else (v : Int) - 2 ^ n

/-- An integer modulo 2 to the n, as a number. -/
def wrapInt (n : Nat) (v : Int) : Nat := (v % (2 ^ n : Nat)).toNat

/-- Set field `n` bits at `lo` of a word to `v` (modulo its width). -/
def setField (w : Word) (lo n v : Nat) : Word :=
  let m := (2 ^ n - 1) <<< lo
  BitVec.ofNat 64 ((w.toNat &&& (2 ^ 64 - 1 - m)) ||| ((v % 2 ^ n) <<< lo))

/-- The bits of `new` where `mask` has ones, and of `old` elsewhere. -/
def blend (mask old new : Word) : Word := (old &&& ~~~mask) ||| (new &&& mask)

/-- One bit step of CRC-32C with the reflected polynomial 0x82F63B78 (R271). -/
def crcBit (c : Nat) : Nat := if c % 2 == 1 then (c / 2) ^^^ 0x82F63B78 else c / 2

/-- One byte of CRC-32C. -/
def crcByte (c b : Nat) : Nat :=
  crcBit (crcBit (crcBit (crcBit (crcBit (crcBit (crcBit (crcBit (c ^^^ b))))))))

/-- CRC-32C of a byte string (R271). -/
def crc32c (bs : List Byte) : Nat := (bs.foldl (fun c b => crcByte c b.toNat) 0xFFFFFFFF) ^^^ 0xFFFFFFFF

end Sys2Proof.Machine
end

