-- ==== Sys2Proof/Syntax.lean ====
section
/-! DEFINITION. Sys2Proof/Syntax.lean: the instructions of Druob and the machine events of the opcode table.
`Instr` has one constructor per row of spec/opcode_table.json. The operands of an instruction are the fields of its
encoding (R34 to R51), raw; Sys2Proof/WellFormed.lean says which of their values are legal. The rows of the table that
have no encoding are events of the machine; their operands are the model's own and say at which unit the event
happens and, where the outside world supplies data, which data. -/

namespace Sys2Proof

/-- The six fields of a two-operand V-format instruction (R35, R44). -/
structure VBin where
  ws2  : Win
  ws1  : Win
  wd   : Win
  km   : KField
  form : BitVec 2
  ty   : BitVec 4
deriving DecidableEq, Repr

/-- A V-format instruction with one source window (form and ws2 zero, R46). -/
structure VUn where
  ws1 : Win
  wd  : Win
  km  : KField
  ty  : BitVec 4
deriving DecidableEq, Repr

/-- A V-format instruction whose ws2 field is a second window, a format or a mode (form zero, R46). -/
structure VTri where
  ws2 : BitVec 3
  ws1 : Win
  wd  : Win
  km  : KField
  ty  : BitVec 4
deriving DecidableEq, Repr

/-- vmov of forms 01 and 10: no ws1 (R46). -/
structure VImm where
  ws2  : BitVec 3
  wd   : Win
  km   : KField
  form : BitVec 2
  ty   : BitVec 4
deriving DecidableEq, Repr

/-- A V-format instruction with no source: viota, vrowi (R46). -/
structure VGen where
  wd : Win
  km : KField
  ty : BitVec 4
deriving DecidableEq, Repr

/-- VCMP: fn5 holds kd and wd holds the predicate (R46). -/
structure VCmp where
  ws2  : Win
  ws1  : Win
  kd   : BitVec 5
  km   : KField
  form : BitVec 2
  ty   : BitVec 4
deriving DecidableEq, Repr

/-- The fields of a scalar floating-point instruction (R38): `p` the precision, `m` the rounding mode. -/
structure FpsF where
  p : BitVec 1
  m : BitVec 3
  b : Reg
  a : Reg
  d : Reg
deriving DecidableEq, Repr

/-- The fields of an atomic (R41): scope, width, order, operand, address, destination. -/
structure AmoF where
  scope : BitVec 3
  width : BitVec 1
  order : BitVec 2
  b : Reg
  a : Reg
  d : Reg
deriving DecidableEq, Repr

/-- The fields of a grid load or store with a stride (R47): mask, window, element size, stride and base registers. -/
structure GlsS where
  sz : BitVec 2
  w  : Win
  b  : Reg
  a  : Reg
  km : KField
deriving DecidableEq, Repr

/-- The fields of an indexed grid load or store (R47): `wi` the index window. -/
structure GlsX where
  sz : BitVec 2
  w  : Win
  wi : Win
  a  : Reg
  km : KField
deriving DecidableEq, Repr

/-- The fields of oacc (R49), in the order of the two words from the highest bit of word 0. -/
structure OaccF where
  aIdx  : BitVec 7
  bSrc  : BitVec 2
  aSrc  : BitVec 2
  bFmt  : BitVec 5
  aFmt  : BitVec 5
  half  : BitVec 1
  clear : BitVec 1
  bIdx  : BitVec 7
  cols  : BitVec 4
  corg  : BitVec 4
  rows  : BitVec 4
  rorg  : BitVec 4
  steps : BitVec 8
deriving DecidableEq, Repr

/-- The fields of gcopy and gtrans (R51). Origins and sizes are in units of 8 cells; sizes are less one. -/
structure CopyF where
  dh   : BitVec 1
  sh   : BitVec 1
  cols : BitVec 4
  rows : BitVec 4
  dc   : BitVec 4
  dr   : BitVec 4
  sc   : BitVec 4
  sr   : BitVec 4
deriving DecidableEq, Repr

/-- The fields of wset (R50). -/
structure WsetF where
  stride : BitVec 4
  cntm1  : BitVec 7
  origin : BitVec 7
  mode   : BitVec 2
  half   : BitVec 1
  w      : Win
  xo     : Reg
deriving DecidableEq, Repr

/-- The fields of gsave and grest (R51). -/
structure GimF where
  a     : Reg
  cntm1 : BitVec 7
  first : BitVec 7
  half  : BitVec 1
deriving DecidableEq, Repr

/-- The outcome of the residue check of one row, step or block (R326, R327): it passes; it fails once and passes when
replayed; or it fails again, a machine check at the given grid lane and row (of a window instruction the row follows from its
window). `alt` says that the check of the recomputed element failed (R326), not the residue check. -/
inductive Check where
  | pass
  | replay
  | fail (alt : Bool) (lane : Nat) (row : Nat)
deriving DecidableEq, Repr

/-- The units of a cluster that work commands: the four transfer engines, the four decompressors and the table loader (R257). -/
inductive EngKind where
  | transfer
  | decomp
  | loader
deriving DecidableEq, Repr

/-- What a host access to the CXL memory window does (R394). -/
inductive HostAcc where
  | read  (n : Nat)
  | write (bytes : List Byte)
deriving DecidableEq, Repr

/-- What may arrive over a link about barrier objects (R284 to R287): an operation of another device on an object here, or
the answer to the one with a number that this device sent: cause 0 and the phase, or the cause of its fault. -/
inductive BarOp where
  | init (n : Nat)
  | arrive
  | wait (phase : Word)
  | answer (id : Nat) (cause : Nat) (value : Word)
deriving DecidableEq, Repr

/-- Who asks for a barrier operation of another device: the PARTID and TENANT that its control flits carry (R383), and its number. -/
structure BarFrom where
  part   : BitVec 4
  tenant : BitVec 32
  id     : Nat
deriving DecidableEq, Repr

/-- What a flit that arrives carries (R335, R336, R347): nothing; a control flit with the acknowledgement of the flits up to a
sequence number, or with that of the recv paired with a send here in its `round`-th pair, which has written `n` blocks or raw flits;
or the payload of a recv here: its `nblk` blocks (or one raw flit) from block `blk` on. -/
inductive FlitKind where
  | idle
  | ack     (seq : Nat)
  | written (cmd round n : Nat)
  | payload (cmd round blk nblk : Nat)
deriving DecidableEq, Repr

/-- A flit that arrives on a link, after FEC (R335, R336): the sequence number, kind, command and offset that its header holds, the
eight header bytes themselves, in which R335 gives these fields no places, the payload bytes and the CRC. -/
structure FlitIn where
  link  : Nat
  seq   : Nat
  kind  : FlitKind
  head  : BitVec 64
  bytes : List Byte
  crc   : BitVec 32
deriving DecidableEq, Repr

/-- A unit that Jorhin fences together with a domain fault (R329). -/
inductive FencedUnit where
  | core (n : Nat)
  | engine (cluster : Nat) (kind : EngKind)
  | quantiser (link : Nat)
deriving DecidableEq, Repr

/-- One constructor per row of spec/opcode_table.json. -/
inductive Instr where
  -- ALU (R37, R91)
  | add (d a b : Reg) | sub (d a b : Reg) | and (d a b : Reg) | or (d a b : Reg) | xor (d a b : Reg)
  | andn (d a b : Reg) | orn (d a b : Reg) | shl (d a b : Reg) | shr (d a b : Reg) | sra (d a b : Reg)
  | rotl (d a b : Reg) | rotr (d a b : Reg) | slt (d a b : Reg) | sltn (d a b : Reg)
  | min (d a b : Reg) | max (d a b : Reg) | minn (d a b : Reg) | maxn (d a b : Reg)
  | clz (d a : Reg) | ctz (d a : Reg) | popc (d a : Reg)
  | clmul (d a b : Reg) | clmulh (d a b : Reg)
  -- MULDIV (R37, R93)
  | mul (d a b : Reg) | mulh (d a b : Reg) | mulhn (d a b : Reg) | mulhsn (d a b : Reg)
  | div (d a b : Reg) | divn (d a b : Reg) | rem (d a b : Reg) | remn (d a b : Reg)
  -- FPS (R38, R100)
  | fadd (f : FpsF) | fsub (f : FpsF) | fmul (f : FpsF) | fdiv (f : FpsF) | fsqrt (f : FpsF)
  | fmin (f : FpsF) | fmax (f : FpsF) | fma (f : FpsF) | fneg (f : FpsF) | fabs (f : FpsF)
  | feq (f : FpsF) | flt (f : FpsF) | fle (f : FpsF) | fclass (f : FpsF)
  | fcvti (f : FpsF) | fcvtn (f : FpsF) | fcvtfi (f : FpsF) | fcvtfn (f : FpsF) | fcvtp (f : FpsF)
  -- Immediate operands (R39, R92)
  | addi (d a : Reg) (imm : BitVec 15)
  | andi (d a : Reg) (imm : BitVec 12) | ori (d a : Reg) (imm : BitVec 12) | xori (d a : Reg) (imm : BitVec 12)
  | shli (d a : Reg) (n : BitVec 6) | shri (d a : Reg) (n : BitVec 6) | srai (d a : Reg) (n : BitVec 6)
  | slti (d a : Reg) (imm : BitVec 12) | sltni (d a : Reg) (imm : BitVec 12)
  | lhi (d : Reg) (imm : BitVec 20) | pcrel (d : Reg) (imm : BitVec 20)
  -- Control (R39, R94, R95)
  | jal (d : Reg) (imm : BitVec 20) | jalr (d a : Reg) (imm : BitVec 15)
  | beq (a b : Reg) (imm : BitVec 12) | bne (a b : Reg) (imm : BitVec 12) | blt (a b : Reg) (imm : BitVec 12)
  | bge (a b : Reg) (imm : BitVec 12) | bltn (a b : Reg) (imm : BitVec 12) | bgen (a b : Reg) (imm : BitVec 12)
  -- Loads and stores (R40, R97)
  | ldb (d a : Reg) (imm : BitVec 12) | ldh (d a : Reg) (imm : BitVec 12) | ldw (d a : Reg) (imm : BitVec 12)
  | ldd (d a : Reg) (imm : BitVec 12) | ldbn (d a : Reg) (imm : BitVec 12) | ldhn (d a : Reg) (imm : BitVec 12)
  | ldwn (d a : Reg) (imm : BitVec 12)
  | stb (b a : Reg) (imm : BitVec 12) | sth (b a : Reg) (imm : BitVec 12) | stw (b a : Reg) (imm : BitVec 12)
  | std (b a : Reg) (imm : BitVec 12)
  -- Atomics (R41)
  | amoadd (f : AmoF) | amoand (f : AmoF) | amoor (f : AmoF) | amoxor (f : AmoF) | amomin (f : AmoF)
  | amomax (f : AmoF) | amominn (f : AmoF) | amomaxn (f : AmoF) | amoswap (f : AmoF) | cas (f : AmoF)
  | lr (f : AmoF) | sc (f : AmoF)
  -- Fences (R42, R241)
  | fenceSv (scope : BitVec 3) | fenceVs (scope : BitVec 3) | fenceVv (scope : BitVec 3) | fenceAll (scope : BitVec 3)
  | fenceRetire
  -- System (R42)
  | trap (n : BitVec 10) | trapRollback | trapKill | eret | wfi
  | csrr (d : Reg) (csr : BitVec 10) | csrw (d a : Reg) (csr : BitVec 10)
  | csrs (d a : Reg) (csr : BitVec 10) | csrc (d a : Reg) (csr : BitVec 10)
  | timecmpWrite (v : Word) | giqsaveWrite (v : Word)
  | seal (a : Reg) | sealRetire | sealq (d : Reg) | irrev | irrevRetire
  | enq (d a : Reg) (q : BitVec 3) | halt | haltRetire | gridResetEntry
  -- Masks (R43, R135)
  | kbound (kd a b : Reg) | kand (kd ka kb : Reg) | kor (kd ka kb : Reg) | kxor (kd ka kb : Reg)
  | kandn (kd ka kb : Reg) | knot (kd ka : Reg) | kmov (kd ka : Reg) | kpop (d ka : Reg) | kfirst (d ka : Reg)
  | kset (kd a b : Reg) | kgetl (d ka : Reg) | kgeth (d ka : Reg) | kzero (kd : Reg) | kone (kd : Reg)
  -- Window arithmetic (R46)
  | vadd (f : VBin) | vsub (f : VBin) | vmul (f : VBin) | vfma (f : VBin) | vfms (f : VBin)
  | vmin (f : VBin) | vmax (f : VBin) | vabs (f : VUn) | vneg (f : VUn)
  | vand (f : VBin) | vor (f : VBin) | vxor (f : VBin) | vshl (f : VBin) | vshr (f : VBin) | vsra (f : VBin)
  | vsel (f : VBin) | vclamp (f : VBin) | vscale2 (f : VBin) | vclmul (f : VBin) | vclmulh (f : VBin)
  | vcpsgn (f : VBin)
  | vcmpEq (f : VCmp) | vcmpNe (f : VCmp) | vcmpLt (f : VCmp) | vcmpLe (f : VCmp) | vcmpGt (f : VCmp)
  | vcmpGe (f : VCmp) | vcmpUnord (f : VCmp) | vcmpOrd (f : VCmp)
  | vrsum (f : VUn) | vrmax (f : VUn) | vrmin (f : VUn) | vrsumsq (f : VUn)
  | vcsum (f : VUn) | vcmax (f : VUn) | vcmin (f : VUn)
  | vcvt (f : VUn) (src : BitVec 5)
  | vquant (f : VTri) | vdequant (f : VTri) | vround (f : VTri)
  | vmov (f : VUn) | vmovOp2 (f : VImm) | vperm (f : VTri) | vslide (f : VBin) | vext (f : VBin)
  | viota (f : VGen) | vcompress (f : VUn) | vrowi (f : VGen)
  | vrcp (f : VUn) | vsqrt (f : VUn) | vrsqrt (f : VUn) | vexp2 (f : VUn) | vlog2 (f : VUn)
  -- Streams (R47)
  | qld (c a b : Reg) | qldt (c a b : Reg) | qldff (d c a b : Reg) | qldx (xi c a b : Reg) | qldz (c a b : Reg)
  -- Grid loads and stores (R47)
  | gld (f : GlsS) | gst (f : GlsS) | gldff (f : GlsS) | gldx (f : GlsX) | gstx (f : GlsX) | gstxo (f : GlsX)
  -- Engines (R47)
  | xfer (c x3 a b : Reg) | xferb (c kd : Reg) (w : Win) (km : KField) | xdz (c x3 a b : Reg)
  | dztab (c : Reg) (n : BitVec 5) (a : Reg)
  | sendRaw (c a : Reg) | sendQ8 (c a : Reg) (ef : BitVec 1) | sendQ8w (c a : Reg) (ef : BitVec 1)
  | sendQ4 (c a : Reg) (ef : BitVec 1) | recv (c a : Reg) | recvAdd (c a : Reg)
  -- Counters, synchronisation, accumulation windows, tag table (R47)
  | cinc (c a : Reg) | cwait (c a : Reg) | cset (c a : Reg) | crd (d c : Reg)
  | ipost (c a : Reg) | iwait (c a : Reg)
  | barInit (a b : Reg) | barArrive (d a : Reg) | barArriveRlx (d a : Reg) | barWait (a b : Reg)
  | awin (op : BitVec 2) (aw : BitVec 2) (a b : Reg)
  | ascat (aw : BitVec 2) (wv wi : Win) (km : KField) | amerge (aw : BitVec 2) | arel (aw : BitVec 2)
  | slook (d a : Reg) | sins (d a b : Reg) | sinv (a : Reg)
  -- 16-bit forms (R34)
  | hAddi (d : Reg) (imm : BitVec 7) | hMv (d a : Reg) | hLdd (d : Reg) (imm : BitVec 7)
  | hStd (b : Reg) (imm : BitVec 7) | hBz (a : Reg) (imm : BitVec 7) | hBnz (a : Reg) (imm : BitVec 7)
  | hJ (imm : BitVec 12) | hCwait (c : Reg) (t : BitVec 7)
  -- Tile forms (R48 to R51)
  | wset (f : WsetF) | wrd (w : Win) (d : Reg) | ofill (w : Win) (km : KField) (ty : BitVec 4) (v : BitVec 32)
  | gcopy (f : CopyF) | gtrans (f : CopyF) | gsave (f : GimF) | grest (f : GimF) | oacc (f : OaccF)
  -- Events of the grid side and the engines
  | giqDeparture | windowPipeVector (chk : Check) | scalarLoadReturn
  | oaccStep (chk : Check) | streamStep (q : BitVec 3) (chk : Check)
  | engineAccept (kind : EngKind) | engineComplete (id : Nat) | engineRuntimeFault (id : Nat) (chk : Check)
  | cwaitSatisfied | ipostApply | iwaitSatisfied | barWaitSatisfied
  | barrierRemoteOp (op : BarOp) (vaddr : Word) (asker : BarFrom)
  | giqFaultTrap | asyncTrap | timerExpiry | absentRowFetch (half : BitVec 1) (row : BitVec 7)
  -- Events of translation and of the host's answers
  | pageWalk (va : Word) | hostAnswer (part : Nat) (tag value : Word)
  | invalidation (part : Nat) (ctl : Word) | invalidationComplete (part : Nat)
  -- Events of the launch unit
  | queueEnable (part q : Nat) (ctl : Word) | queueDestroy (part q : Nat) (ctl : Word)
  | tailWrite (part q : Nat) (v : Word)
  | recordFetch (part q : Nat) | waitPoll (part q : Nat) | reserveAttempt (die : Nat)
  | reserveAgeExpiry (part q : Nat) | taskDispatch (part q : Nat)
  | preemptDrain | preemptSave | preemptGone | taskResume (task : BitVec 32) | kill (task : BitVec 32)
  -- Events of recovery
  | sealAgentArrive (die : Nat) (n : Word) | arrive (dev : Nat) (n : Word) (sealed : Bool) | commit (n : Word)
  | logStallTimeout | holdStallTimeout | domainFault (cause : Nat) (unit : Option FencedUnit)
  | rollback (d : Word) | rollbackRestore (die : Nat) | rollbackClean | rollbackReport | resume
  | laneSparing (lane : BitVec 7) | poison (unit : Nat) | dieFence (die : Nat)
  | domainFaultReport (dev cause : Nat) | rollbackDone (dev : Nat)
  -- Events of the links
  | flitTransmit (id : Nat) | flitReceive (f : FlitIn) | replayRequest (link seq : Nat)
  | linkRetrain (link : Nat) | linkLost (link : Nat) | linkUp (link peer : Nat)
  | credit (id : Nat) (peer : List Byte) | cancelNotice (id : Nat) | retrainStart (link : Nat)
  -- Events of partitions, the host and boot
  | msgbell (part : Nat) (v : Word) | msgack (v : Word) | outbell (v : Word) | mreset (part : Nat) (v : Word)
  | partitionReset (part : Nat) | partitionTeardown (part : Nat) | resetDrain (part : Nat) | resetFlush (part : Nat)
  | resetScrub (part : Nat) | resetFree (part : Nat)
  | energyApportion (die : Nat) (mj : Nat)
  | hostMemAccess (pa : Word) (acc : HostAcc) | registerWrite (pa v : Word)
  | packageReset (image : List Byte)
  | getVersion | getCapabilities | negotiateAlgorithms (offered : Bool) | getDigests | getCertificate (slot : Nat)
  | challenge (nonce : List Byte) | getMeasurements (nonce : List Byte) | keyExchange (nonce : List Byte)
  | finish (session : Nat) (mac : List Byte) | heartbeat (session : Nat) | keyUpdate (session : Nat)
  | endSession (session : Nat)
deriving DecidableEq, Repr

end Sys2Proof
end

