-- ==== Sys2Proof/WellFormed.lean ====
section
/-! DEFINITION. Sys2Proof/WellFormed.lean: which field values are an instruction (R33, R34, R38 to R51).
`Instr.wf` is true exactly of the terms that some bit pattern encodes, and of every event. A term that is not well
formed has a field value that the spec calls illegal or reserved: no bit pattern decodes to it. -/

namespace Sys2Proof

/-- A field that names a mask register holds 0 to 23 (R43). -/
def isMask (k : Reg) : Bool := k.toNat < 24

/-- A kmask field names k0 to k23 or is 31 (R44). -/
def isKField (k : KField) : Bool := k.toNat < 24 || k.toNat == 31

/-- An element type code is 0 to 11 (R44, R58). -/
def isType (t : BitVec 4) : Bool := t.toNat < 12

/-- The legal forms of a two-operand V instruction: window, x register or constant (R44). -/
def VBin.wf (f : VBin) : Bool := isType f.ty && isKField f.km && f.form.toNat != 3

/-- vslide and vext take no window as their second operand (R46). -/
def VBin.wfNoWindow (f : VBin) : Bool := f.wf && f.form.toNat != 0

def VUn.wf (f : VUn) : Bool := isType f.ty && isKField f.km

def VTri.wf (f : VTri) : Bool := isType f.ty && isKField f.km

def VGen.wf (f : VGen) : Bool := isType f.ty && isKField f.km

/-- vmov of form 01 or 10 (R46). -/
def VImm.wf (f : VImm) : Bool := isType f.ty && isKField f.km && (f.form.toNat == 1 || f.form.toNat == 2)

def VCmp.wf (f : VCmp) : Bool := isType f.ty && isKField f.km && isMask f.kd && f.form.toNat != 3

/-- An FPS operation that rounds takes modes 0 to 5 (R38). -/
def FpsF.rounds (f : FpsF) : Bool := f.m.toNat < 6

/-- An FPS operation that does not round has mode 0 (R38). -/
def FpsF.exact (f : FpsF) : Bool := f.m.toNat == 0

/-- A unary FPS operation has rs2 = 0 (R38). -/
def FpsF.unary (f : FpsF) : Bool := f.b.toNat == 0

/-- Scopes 0 to 4 (R41, R42). -/
def isScope (s : BitVec 3) : Bool := s.toNat < 5

def AmoF.wf (f : AmoF) : Bool := isScope f.scope

/-- The CSR numbers that name a register in the map of R101. -/
def isCsr (n : BitVec 10) : Bool :=
  let n := n.toNat
  n ≤ 0x00A || (0x010 ≤ n && n ≤ 0x016) || (0x020 ≤ n && n ≤ 0x024) || (0x030 ≤ n && n ≤ 0x032)
    || (0x040 ≤ n && n ≤ 0x045) || (0x050 ≤ n && n ≤ 0x053) || (0x060 ≤ n && n ≤ 0x06F)

/-- QLD: the queue is 0 to 7 and the pair's first register is even and not x0 (R47). -/
def isQld (c b : Reg) : Bool := c.toNat < 8 && b.toNat % 2 == 0 && b.toNat != 0

def GlsS.wf (f : GlsS) : Bool := f.sz.toNat != 3 && isKField f.km

def GlsX.wf (f : GlsX) : Bool := f.sz.toNat != 3 && isKField f.km

/-- oacc: the sources are 0b00 or 0b01, the formats 0 to 27, and a queue index is 0 to 3 (R49). -/
def OaccF.wf (f : OaccF) : Bool :=
  f.aSrc.toNat < 2 && f.bSrc.toNat < 2 && f.aFmt.toNat < 28 && f.bFmt.toNat < 28
    && (f.aSrc.toNat == 1 || f.aIdx.toNat < 4) && (f.bSrc.toNat == 1 || f.bIdx.toNat < 4)

/-- wset: the stride is not 0 and the mode is not 0b11 (R50). -/
def WsetF.wf (f : WsetF) : Bool := f.stride.toNat != 0 && f.mode.toNat != 3

/-- Word 1 of an ofill is the cell image of an element of the type: its upper bits extend the element as the cell rule
of R115 writes it, and an f19 image has bits 12 to 0 clear (R126). -/
def ofillImage (ty : BitVec 4) (v : BitVec 32) : Bool :=
  match ty.toNat with
  | 0 | 4 | 5 => true
  | 3 => v.extractLsb' 0 13 == 0
  | 1 | 2 | 7 => v == (v.extractLsb' 0 16).setWidth 32
  | 6 => v == (v.extractLsb' 0 16).signExtend 32
  | 8 => v == (v.extractLsb' 0 8).signExtend 32
  | 9 | 10 | 11 => v == (v.extractLsb' 0 8).setWidth 32
  | _ => false

/-- The legal field values of every instruction; events have no encoding and are always well formed. -/
def Instr.wf : Instr → Bool
  | .add _ _ _ | .sub _ _ _ | .and _ _ _ | .or _ _ _ | .xor _ _ _ | .andn _ _ _ | .orn _ _ _ | .shl _ _ _
  | .shr _ _ _ | .sra _ _ _ | .rotl _ _ _ | .rotr _ _ _ | .slt _ _ _ | .sltn _ _ _ | .min _ _ _ | .max _ _ _
  | .minn _ _ _ | .maxn _ _ _ | .clz _ _ | .ctz _ _ | .popc _ _ | .clmul _ _ _ | .clmulh _ _ _
  | .mul _ _ _ | .mulh _ _ _ | .mulhn _ _ _ | .mulhsn _ _ _ | .div _ _ _ | .divn _ _ _ | .rem _ _ _
  | .remn _ _ _ => true
  | .fadd f | .fsub f | .fmul f | .fdiv f | .fma f => f.rounds
  | .fsqrt f | .fcvti f | .fcvtn f | .fcvtfi f | .fcvtfn f | .fcvtp f => f.rounds && f.unary
  | .fmin f | .fmax f | .feq f | .flt f | .fle f => f.exact
  | .fneg f | .fabs f | .fclass f => f.exact && f.unary
  | .addi _ _ _ | .andi _ _ _ | .ori _ _ _ | .xori _ _ _ | .shli _ _ _ | .shri _ _ _ | .srai _ _ _
  | .slti _ _ _ | .sltni _ _ _ | .lhi _ _ | .pcrel _ _ | .jal _ _ | .jalr _ _ _
  | .beq _ _ _ | .bne _ _ _ | .blt _ _ _ | .bge _ _ _ | .bltn _ _ _ | .bgen _ _ _
  | .ldb _ _ _ | .ldh _ _ _ | .ldw _ _ _ | .ldd _ _ _ | .ldbn _ _ _ | .ldhn _ _ _ | .ldwn _ _ _
  | .stb _ _ _ | .sth _ _ _ | .stw _ _ _ | .std _ _ _ => true
  | .amoadd f | .amoand f | .amoor f | .amoxor f | .amomin f | .amomax f | .amominn f | .amomaxn f
  | .amoswap f | .cas f => f.wf
  | .lr f => f.wf && f.b.toNat == 0 && f.order.toNat < 2
  | .sc f => f.wf && (f.order.toNat == 0 || f.order.toNat == 2)
  | .fenceSv x | .fenceVs x | .fenceVv x | .fenceAll x => isScope x
  | .trap n => n.toNat != 0x300 && n.toNat != 0x301
  | .trapRollback | .trapKill | .eret | .wfi => true
  | .csrr _ c | .csrw _ _ c | .csrs _ _ c | .csrc _ _ c => isCsr c
  | .seal _ | .sealq _ | .irrev | .enq _ _ _ | .halt => true
  | .kbound k _ _ | .kset k _ _ | .kzero k | .kone k => isMask k
  | .kand k a b | .kor k a b | .kxor k a b | .kandn k a b => isMask k && isMask a && isMask b
  | .knot k a | .kmov k a => isMask k && isMask a
  | .kpop _ a | .kfirst _ a | .kgetl _ a | .kgeth _ a => isMask a
  | .vadd f | .vsub f | .vmul f | .vfma f | .vfms f | .vmin f | .vmax f | .vand f | .vor f | .vxor f
  | .vshl f | .vshr f | .vsra f | .vclamp f | .vscale2 f | .vclmul f | .vclmulh f | .vcpsgn f => f.wf
  | .vsel f => f.wf && f.km.toNat != 31
  | .vabs f | .vneg f | .vrsum f | .vrmax f | .vrmin f | .vrsumsq f | .vcsum f | .vcmax f | .vcmin f
  | .vmov f | .vcompress f | .vrcp f | .vsqrt f | .vrsqrt f | .vexp2 f | .vlog2 f => f.wf
  | .vcmpEq f | .vcmpNe f | .vcmpLt f | .vcmpLe f | .vcmpGt f | .vcmpGe f | .vcmpUnord f | .vcmpOrd f => f.wf
  | .vcvt f src => f.wf && src.toNat < 12
  | .vquant f | .vdequant f | .vperm f => f.wf
  | .vround f => f.wf && f.ws2.toNat < 6
  | .vmovOp2 f => f.wf
  | .vslide f | .vext f => f.wfNoWindow
  | .viota f | .vrowi f => f.wf
  | .qld c _ b | .qldt c _ b | .qldff _ c _ b | .qldx _ c _ b | .qldz c _ b => isQld c b
  | .gld f | .gst f | .gldff f => f.wf
  | .gldx f | .gstx f | .gstxo f => f.wf
  | .xfer _ _ _ _ | .xdz _ _ _ _ => true
  | .xferb _ kd _ km => isMask kd && isKField km
  | .dztab _ n _ => n.toNat < 4
  | .sendRaw _ _ | .sendQ8 _ _ _ | .sendQ8w _ _ _ | .sendQ4 _ _ _ | .recv _ _ | .recvAdd _ _ => true
  | .cinc _ _ | .cwait _ _ | .cset _ _ | .crd _ _ => true
  | .ipost c _ | .iwait c _ => c.toNat < 8
  | .barInit _ _ | .barArrive _ _ | .barArriveRlx _ _ | .barWait _ _ => true
  | .awin _ _ _ _ | .amerge _ | .arel _ => true
  | .ascat _ _ _ km => isKField km
  | .slook _ _ | .sins _ _ _ | .sinv _ => true
  | .hAddi d _ | .hLdd d _ => d.toNat != 0
  | .hMv d a => d.toNat != 0 || a.toNat == 0
  | .hStd _ _ | .hBz _ _ | .hBnz _ _ | .hJ _ | .hCwait _ _ => true
  | .wset f => f.wf
  | .wrd _ _ => true
  | .ofill _ km ty v => isKField km && isType ty && ofillImage ty v
  | .gcopy _ | .gtrans _ | .gsave _ | .grest _ => true
  | .oacc f => f.wf
  | .fenceRetire | .timecmpWrite _ | .giqsaveWrite _ | .sealRetire | .irrevRetire | .haltRetire | .gridResetEntry
  | .giqDeparture | .windowPipeVector _ | .scalarLoadReturn | .oaccStep _ | .streamStep _ _ | .engineAccept _
  | .engineComplete _ | .engineRuntimeFault _ _ | .cwaitSatisfied | .ipostApply | .iwaitSatisfied
  | .barWaitSatisfied | .barrierRemoteOp _ _ _ | .giqFaultTrap | .asyncTrap | .timerExpiry | .absentRowFetch _ _
  | .pageWalk _ | .hostAnswer _ _ _ | .invalidation _ _ | .invalidationComplete _
  | .queueEnable _ _ _ | .queueDestroy _ _ _ | .tailWrite _ _ _ | .recordFetch _ _ | .waitPoll _ _
  | .reserveAttempt _ | .reserveAgeExpiry _ _ | .taskDispatch _ _ | .preemptDrain | .preemptSave | .preemptGone
  | .taskResume _ | .kill _ | .sealAgentArrive _ _ | .arrive _ _ _ | .commit _ | .logStallTimeout
  | .holdStallTimeout | .domainFault _ _ | .rollback _ | .rollbackRestore _ | .rollbackClean | .rollbackReport
  | .resume | .laneSparing _ | .poison _ | .dieFence _ | .domainFaultReport _ _ | .rollbackDone _
  | .flitTransmit _ | .flitReceive _ | .replayRequest _ _ | .linkRetrain _ | .linkLost _ | .linkUp _ _
  | .credit _ _ | .cancelNotice _ | .retrainStart _ | .msgbell _ _ | .msgack _ | .outbell _ | .mreset _ _
  | .partitionReset _ | .partitionTeardown _ | .resetDrain _ | .resetFlush _ | .resetScrub _ | .resetFree _
  | .energyApportion _ _ | .hostMemAccess _ _ | .registerWrite _ _ | .packageReset _
  | .getVersion | .getCapabilities | .negotiateAlgorithms _ | .getDigests | .getCertificate _ | .challenge _
  | .getMeasurements _ | .keyExchange _ | .finish _ _ | .heartbeat _ | .keyUpdate _ | .endSession _ => true

end Sys2Proof
end

