-- ==== Sys2Proof/Decode.lean ====
section
/-! DEFINITION. Sys2Proof/Decode.lean: instruction bits to instructions and back (R31 to R51).
The decoder is total: it reads a code (16, 32 or 64 bits, by the length rule of R31), picks the row by the opcode
fields, takes the operand fields, and accepts the result exactly when its field values are legal (`Instr.wf`) and every
bit that the row fixes holds what the row says (the encoder gives the same code back). Everything else is an illegal
encoding (R33). -/

namespace Sys2Proof

open Sys2Proof.Machine (bits leBytes fromLE)

/-- The bits of one instruction, by length (R31). A tile form has word 1 in the upper half. -/
inductive Code where
  | h (w : BitVec 16)
  | w (w : BitVec 32)
  | t (w : BitVec 64)
deriving DecidableEq, Repr

/-- Length in bytes (R31). -/
def Code.len : Code → Nat
  | .h _ => 2
  | .w _ => 4
  | .t _ => 8

/-- The instruction's bits zero-extended to 64 bits, as TVAL records them (R33). -/
def Code.raw : Code → Word
  | .h x => x.setWidth 64
  | .w x => x.setWidth 64
  | .t x => x

/-- The bytes of a code in ascending address (R31). -/
def Code.bytes : Code → List Byte
  | .h x => leBytes 2 x.toNat
  | .w x => leBytes 4 x.toNat
  | .t x => leBytes 8 x.toNat

/-- The length, in bytes, that bits 1 and 0 of the first halfword give (R31). -/
def lengthOf (b0 : Byte) : Nat :=
  if !b0.getLsbD 0 then 2 else if !b0.getLsbD 1 then 4 else 8

/-- The code that a byte string starts with, and the rest (R31); none when the string is too short for it. -/
def codeOfBytes (bs : List Byte) : Option (Code × List Byte) :=
  match bs with
  | [] => none
  | b0 :: _ =>
    let n := lengthOf b0
    let v := fromLE (bs.take n)
    if bs.length < n then none
    else if n == 2 then some (.h (BitVec.ofNat 16 v), bs.drop n)
    else if n == 4 then some (.w (BitVec.ofNat 32 v), bs.drop n)
    else some (.t (BitVec.ofNat 64 v), bs.drop n)

/-! ### The encoder, one function per layout of R35, R49, R50 and R51 -/

/-- S-R: fn10, rs2, rs1, rd, major, 0b01. -/
def encR (fn : BitVec 10) (b a d maj : BitVec 5) : BitVec 32 := fn ++ b ++ a ++ d ++ maj ++ 1#2

/-- S-I: imm15, rs1, rd. -/
def encI (imm : BitVec 15) (a d maj : BitVec 5) : BitVec 32 := imm ++ a ++ d ++ maj ++ 1#2

/-- S-I of LOGI and LD, and S-S: sub, imm12, rs1, rd or rs2. -/
def encI3 (sub : BitVec 3) (imm : BitVec 12) (a d maj : BitVec 5) : BitVec 32 := sub ++ imm ++ a ++ d ++ maj ++ 1#2

/-- S-I of SYS: fn5, csrn, rs1, rd. -/
def encSys (fn : BitVec 5) (csr : BitVec 10) (a d : BitVec 5) : BitVec 32 := fn ++ csr ++ a ++ d ++ 0x0F#5 ++ 1#2

/-- S-B: imm12, rs2, rs1, cond. -/
def encB (imm : BitVec 12) (b a : BitVec 5) (cond : BitVec 3) : BitVec 32 := imm ++ b ++ a ++ cond ++ 0x0A#5 ++ 1#2

/-- S-U and S-J: imm20, rd. -/
def encU (imm : BitVec 20) (d maj : BitVec 5) : BitVec 32 := imm ++ d ++ maj ++ 1#2

/-- E: fn5, c, xs2, xs1, xd. -/
def encE (fn c b a d maj : BitVec 5) : BitVec 32 := fn ++ c ++ b ++ a ++ d ++ maj ++ 1#2

/-- V: ws2, ws1, wd, kmask, form, type, fn5. -/
def encV (ws2 ws1 wd : BitVec 3) (km : BitVec 5) (form : BitVec 2) (ty : BitVec 4) (fn maj : BitVec 5) : BitVec 32 :=
  ws2 ++ ws1 ++ wd ++ km ++ form ++ ty ++ fn ++ maj ++ 1#2

def VBin.enc (f : VBin) (fn maj : BitVec 5) : BitVec 32 := encV f.ws2 f.ws1 f.wd f.km f.form f.ty fn maj
def VUn.enc (f : VUn) (fn maj : BitVec 5) : BitVec 32 := encV 0 f.ws1 f.wd f.km 0 f.ty fn maj
def VTri.enc (f : VTri) (fn maj : BitVec 5) : BitVec 32 := encV f.ws2 f.ws1 f.wd f.km 0 f.ty fn maj
def VImm.enc (f : VImm) (fn maj : BitVec 5) : BitVec 32 := encV f.ws2 0 f.wd f.km f.form f.ty fn maj
def VGen.enc (f : VGen) (fn maj : BitVec 5) : BitVec 32 := encV 0 0 f.wd f.km 0 f.ty fn maj
def VCmp.enc (f : VCmp) (p : BitVec 3) : BitVec 32 := encV f.ws2 f.ws1 p f.km f.form f.ty f.kd 0x12

/-- FPS: precision, mode and operation share fn10 (R38). -/
def FpsF.enc (f : FpsF) (op : BitVec 6) : BitVec 32 := encR (f.p ++ f.m ++ op) f.b f.a f.d 0x03

/-- AMO: scope, width, order and operation share fn10 (R41). -/
def AmoF.enc (f : AmoF) (op : BitVec 4) : BitVec 32 := encR (f.scope ++ f.width ++ f.order ++ op) f.b f.a f.d 0x0D

def GlsS.enc (f : GlsS) (fn : BitVec 5) : BitVec 32 := encE fn (f.sz ++ f.w) f.b f.a f.km 0x18
def GlsX.enc (f : GlsX) (fn : BitVec 5) : BitVec 32 := encE fn (f.sz ++ f.w) (0#2 ++ f.wi) f.a f.km 0x18

/-- 16-bit form with a 5-bit field at 8 to 4 and a 7-bit field at 15 to 9 (R34). -/
def encH (imm : BitVec 7) (r : BitVec 5) (op : BitVec 3) : BitVec 16 := imm ++ r ++ op ++ 0#1

/-- h.j (R34). -/
def encHJ (imm : BitVec 12) : BitVec 16 := imm ++ 6#3 ++ 0#1

/-- OACC (R49): word 1 above word 0. -/
def OaccF.enc (f : OaccF) : BitVec 64 :=
  f.clear ++ f.bIdx ++ f.cols ++ f.corg ++ f.rows ++ f.rorg ++ f.steps
    ++ f.aIdx ++ 0#3 ++ f.bSrc ++ f.aSrc ++ f.bFmt ++ f.aFmt ++ f.half ++ 0x01#5 ++ 3#2

/-- WSET with word 0 bit 7 clear (R50). -/
def WsetF.enc (f : WsetF) : BitVec 64 :=
  0#27 ++ f.xo ++ f.stride ++ f.cntm1 ++ f.origin ++ f.mode ++ f.half ++ f.w ++ 0#1 ++ 0x03#5 ++ 3#2

/-- WSET with word 0 bit 7 set: wrd (R50). -/
def encWrd (w : Win) (d : Reg) : BitVec 64 := 0#27 ++ d ++ 0#21 ++ w ++ 1#1 ++ 0x03#5 ++ 3#2

/-- OFILL (R51). -/
def encOfill (w : Win) (km : KField) (ty : BitVec 4) (v : BitVec 32) : BitVec 64 :=
  v ++ 0#12 ++ ty ++ km ++ w ++ 0#1 ++ 0x02#5 ++ 3#2

/-- GTRANS: gtrans with bit 7 clear, gcopy with bit 7 set (R48, R51). -/
def CopyF.enc (f : CopyF) (sel : BitVec 1) : BitVec 64 :=
  0#8 ++ f.cols ++ f.rows ++ f.dc ++ f.dr ++ f.sc ++ f.sr ++ 0#22 ++ f.sh ++ f.dh ++ sel ++ 0x04#5 ++ 3#2

/-- GSAVE: gsave with bit 7 clear, grest with bit 7 set (R48, R51). -/
def GimF.enc (f : GimF) (sel : BitVec 1) : BitVec 64 :=
  0#32 ++ 0#3 ++ f.a ++ 0#1 ++ f.cntm1 ++ f.first ++ f.half ++ sel ++ 0x05#5 ++ 3#2

/-- The code of an instruction; none for an event. -/
def Instr.encode : Instr → Option Code
  | .add d a b => some (.w (encR 0 b a d 0x01))
  | .sub d a b => some (.w (encR 1 b a d 0x01))
  | .and d a b => some (.w (encR 2 b a d 0x01))
  | .or d a b => some (.w (encR 3 b a d 0x01))
  | .xor d a b => some (.w (encR 4 b a d 0x01))
  | .andn d a b => some (.w (encR 5 b a d 0x01))
  | .orn d a b => some (.w (encR 6 b a d 0x01))
  | .shl d a b => some (.w (encR 7 b a d 0x01))
  | .shr d a b => some (.w (encR 8 b a d 0x01))
  | .sra d a b => some (.w (encR 9 b a d 0x01))
  | .rotl d a b => some (.w (encR 10 b a d 0x01))
  | .rotr d a b => some (.w (encR 11 b a d 0x01))
  | .slt d a b => some (.w (encR 12 b a d 0x01))
  | .sltn d a b => some (.w (encR 13 b a d 0x01))
  | .min d a b => some (.w (encR 14 b a d 0x01))
  | .max d a b => some (.w (encR 15 b a d 0x01))
  | .minn d a b => some (.w (encR 16 b a d 0x01))
  | .maxn d a b => some (.w (encR 17 b a d 0x01))
  | .clz d a => some (.w (encR 18 0 a d 0x01))
  | .ctz d a => some (.w (encR 19 0 a d 0x01))
  | .popc d a => some (.w (encR 20 0 a d 0x01))
  | .clmul d a b => some (.w (encR 21 b a d 0x01))
  | .clmulh d a b => some (.w (encR 22 b a d 0x01))
  | .mul d a b => some (.w (encR 0 b a d 0x02))
  | .mulh d a b => some (.w (encR 1 b a d 0x02))
  | .mulhn d a b => some (.w (encR 2 b a d 0x02))
  | .mulhsn d a b => some (.w (encR 3 b a d 0x02))
  | .div d a b => some (.w (encR 4 b a d 0x02))
  | .divn d a b => some (.w (encR 5 b a d 0x02))
  | .rem d a b => some (.w (encR 6 b a d 0x02))
  | .remn d a b => some (.w (encR 7 b a d 0x02))
  | .fadd f => some (.w (f.enc 0))
  | .fsub f => some (.w (f.enc 1))
  | .fmul f => some (.w (f.enc 2))
  | .fdiv f => some (.w (f.enc 3))
  | .fsqrt f => some (.w (f.enc 4))
  | .fmin f => some (.w (f.enc 5))
  | .fmax f => some (.w (f.enc 6))
  | .fma f => some (.w (f.enc 7))
  | .fneg f => some (.w (f.enc 8))
  | .fabs f => some (.w (f.enc 9))
  | .feq f => some (.w (f.enc 10))
  | .flt f => some (.w (f.enc 11))
  | .fle f => some (.w (f.enc 12))
  | .fclass f => some (.w (f.enc 13))
  | .fcvti f => some (.w (f.enc 14))
  | .fcvtn f => some (.w (f.enc 15))
  | .fcvtfi f => some (.w (f.enc 16))
  | .fcvtfn f => some (.w (f.enc 17))
  | .fcvtp f => some (.w (f.enc 18))
  | .addi d a imm => some (.w (encI imm a d 0x04))
  | .andi d a imm => some (.w (encI3 0 imm a d 0x05))
  | .ori d a imm => some (.w (encI3 1 imm a d 0x05))
  | .xori d a imm => some (.w (encI3 2 imm a d 0x05))
  | .shli d a n => some (.w (encI3 3 (0#6 ++ n) a d 0x05))
  | .shri d a n => some (.w (encI3 4 (0#6 ++ n) a d 0x05))
  | .srai d a n => some (.w (encI3 5 (0#6 ++ n) a d 0x05))
  | .slti d a imm => some (.w (encI3 6 imm a d 0x05))
  | .sltni d a imm => some (.w (encI3 7 imm a d 0x05))
  | .lhi d imm => some (.w (encU imm d 0x06))
  | .pcrel d imm => some (.w (encU imm d 0x07))
  | .jal d imm => some (.w (encU imm d 0x08))
  | .jalr d a imm => some (.w (encI imm a d 0x09))
  | .beq a b imm => some (.w (encB imm b a 0))
  | .bne a b imm => some (.w (encB imm b a 1))
  | .blt a b imm => some (.w (encB imm b a 2))
  | .bge a b imm => some (.w (encB imm b a 3))
  | .bltn a b imm => some (.w (encB imm b a 4))
  | .bgen a b imm => some (.w (encB imm b a 5))
  | .ldb d a imm => some (.w (encI3 0 imm a d 0x0B))
  | .ldh d a imm => some (.w (encI3 1 imm a d 0x0B))
  | .ldw d a imm => some (.w (encI3 2 imm a d 0x0B))
  | .ldd d a imm => some (.w (encI3 3 imm a d 0x0B))
  | .ldbn d a imm => some (.w (encI3 4 imm a d 0x0B))
  | .ldhn d a imm => some (.w (encI3 5 imm a d 0x0B))
  | .ldwn d a imm => some (.w (encI3 6 imm a d 0x0B))
  | .stb b a imm => some (.w (encI3 0 imm a b 0x0C))
  | .sth b a imm => some (.w (encI3 1 imm a b 0x0C))
  | .stw b a imm => some (.w (encI3 2 imm a b 0x0C))
  | .std b a imm => some (.w (encI3 3 imm a b 0x0C))
  | .amoadd f => some (.w (f.enc 0))
  | .amoand f => some (.w (f.enc 1))
  | .amoor f => some (.w (f.enc 2))
  | .amoxor f => some (.w (f.enc 3))
  | .amomin f => some (.w (f.enc 4))
  | .amomax f => some (.w (f.enc 5))
  | .amominn f => some (.w (f.enc 6))
  | .amomaxn f => some (.w (f.enc 7))
  | .amoswap f => some (.w (f.enc 8))
  | .cas f => some (.w (f.enc 9))
  | .lr f => some (.w (f.enc 10))
  | .sc f => some (.w (f.enc 11))
  | .fenceSv x => some (.w (encI3 0 (x ++ 0#9) 0 0 0x0E))
  | .fenceVs x => some (.w (encI3 1 (x ++ 0#9) 0 0 0x0E))
  | .fenceVv x => some (.w (encI3 2 (x ++ 0#9) 0 0 0x0E))
  | .fenceAll x => some (.w (encI3 3 (x ++ 0#9) 0 0 0x0E))
  | .trap n => some (.w (encSys 0 n 0 0))
  | .trapRollback => some (.w (encSys 0 0x300 0 0))
  | .trapKill => some (.w (encSys 0 0x301 0 0))
  | .eret => some (.w (encSys 1 0 0 0))
  | .wfi => some (.w (encSys 2 0 0 0))
  | .csrr d c => some (.w (encSys 3 c 0 d))
  | .csrw d a c => some (.w (encSys 4 c a d))
  | .csrs d a c => some (.w (encSys 5 c a d))
  | .csrc d a c => some (.w (encSys 6 c a d))
  | .seal a => some (.w (encSys 7 0 a 0))
  | .sealq d => some (.w (encSys 8 0 0 d))
  | .irrev => some (.w (encSys 9 0 0 0))
  | .enq d a q => some (.w (encSys 10 (0#7 ++ q) a d))
  | .halt => some (.w (encSys 11 0 0 0))
  | .kbound k a b => some (.w (encR 0 b a k 0x10))
  | .kand k a b => some (.w (encR 1 b a k 0x10))
  | .kor k a b => some (.w (encR 2 b a k 0x10))
  | .kxor k a b => some (.w (encR 3 b a k 0x10))
  | .kandn k a b => some (.w (encR 4 b a k 0x10))
  | .knot k a => some (.w (encR 5 0 a k 0x10))
  | .kmov k a => some (.w (encR 6 0 a k 0x10))
  | .kpop d a => some (.w (encR 7 0 a d 0x10))
  | .kfirst d a => some (.w (encR 8 0 a d 0x10))
  | .kset k a b => some (.w (encR 9 b a k 0x10))
  | .kgetl d a => some (.w (encR 10 0 a d 0x10))
  | .kgeth d a => some (.w (encR 11 0 a d 0x10))
  | .kzero k => some (.w (encR 12 0 0 k 0x10))
  | .kone k => some (.w (encR 13 0 0 k 0x10))
  | .vadd f => some (.w (f.enc 0 0x11))
  | .vsub f => some (.w (f.enc 1 0x11))
  | .vmul f => some (.w (f.enc 2 0x11))
  | .vfma f => some (.w (f.enc 3 0x11))
  | .vfms f => some (.w (f.enc 4 0x11))
  | .vmin f => some (.w (f.enc 5 0x11))
  | .vmax f => some (.w (f.enc 6 0x11))
  | .vabs f => some (.w (f.enc 7 0x11))
  | .vneg f => some (.w (f.enc 8 0x11))
  | .vand f => some (.w (f.enc 9 0x11))
  | .vor f => some (.w (f.enc 10 0x11))
  | .vxor f => some (.w (f.enc 11 0x11))
  | .vshl f => some (.w (f.enc 12 0x11))
  | .vshr f => some (.w (f.enc 13 0x11))
  | .vsra f => some (.w (f.enc 14 0x11))
  | .vsel f => some (.w (f.enc 15 0x11))
  | .vclamp f => some (.w (f.enc 16 0x11))
  | .vscale2 f => some (.w (f.enc 17 0x11))
  | .vclmul f => some (.w (f.enc 18 0x11))
  | .vclmulh f => some (.w (f.enc 19 0x11))
  | .vcpsgn f => some (.w (f.enc 20 0x11))
  | .vcmpEq f => some (.w (f.enc 0))
  | .vcmpNe f => some (.w (f.enc 1))
  | .vcmpLt f => some (.w (f.enc 2))
  | .vcmpLe f => some (.w (f.enc 3))
  | .vcmpGt f => some (.w (f.enc 4))
  | .vcmpGe f => some (.w (f.enc 5))
  | .vcmpUnord f => some (.w (f.enc 6))
  | .vcmpOrd f => some (.w (f.enc 7))
  | .vrsum f => some (.w (f.enc 0 0x13))
  | .vrmax f => some (.w (f.enc 1 0x13))
  | .vrmin f => some (.w (f.enc 2 0x13))
  | .vrsumsq f => some (.w (f.enc 3 0x13))
  | .vcsum f => some (.w (f.enc 4 0x13))
  | .vcmax f => some (.w (f.enc 5 0x13))
  | .vcmin f => some (.w (f.enc 6 0x13))
  | .vcvt f src => some (.w (f.enc src 0x14))
  | .vquant f => some (.w (f.enc 16 0x14))
  | .vdequant f => some (.w (f.enc 17 0x14))
  | .vround f => some (.w (f.enc 18 0x14))
  | .vmov f => some (.w (f.enc 0 0x15))
  | .vmovOp2 f => some (.w (f.enc 0 0x15))
  | .vperm f => some (.w (f.enc 1 0x15))
  | .vslide f => some (.w (f.enc 2 0x15))
  | .vext f => some (.w (f.enc 3 0x15))
  | .viota f => some (.w (f.enc 4 0x15))
  | .vcompress f => some (.w (f.enc 5 0x15))
  | .vrowi f => some (.w (f.enc 6 0x15))
  | .vrcp f => some (.w (f.enc 0 0x16))
  | .vsqrt f => some (.w (f.enc 1 0x16))
  | .vrsqrt f => some (.w (f.enc 2 0x16))
  | .vexp2 f => some (.w (f.enc 3 0x16))
  | .vlog2 f => some (.w (f.enc 4 0x16))
  | .qld c a b => some (.w (encE 0 c b a 0 0x17))
  | .qldt c a b => some (.w (encE 1 c b a 0 0x17))
  | .qldff d c a b => some (.w (encE 2 c b a d 0x17))
  | .qldx xi c a b => some (.w (encE 3 c b a xi 0x17))
  | .qldz c a b => some (.w (encE 4 c b a 0 0x17))
  | .gld f => some (.w (f.enc 0))
  | .gst f => some (.w (f.enc 1))
  | .gldff f => some (.w (f.enc 2))
  | .gldx f => some (.w (f.enc 3))
  | .gstx f => some (.w (f.enc 4))
  | .gstxo f => some (.w (f.enc 5))
  | .xfer c x3 a b => some (.w (encE 0 c b a x3 0x19))
  | .xferb c kd w km => some (.w (encE 1 c km (0#2 ++ w) kd 0x19))
  | .xdz c x3 a b => some (.w (encE 2 c b a x3 0x19))
  | .dztab c n a => some (.w (encE 3 c 0 a n 0x19))
  | .sendRaw c a => some (.w (encE 4 c 0 a 0 0x19))
  | .sendQ8 c a ef => some (.w (encE 4 c (0#1 ++ ef ++ 1#3) a 0 0x19))
  | .sendQ8w c a ef => some (.w (encE 4 c (0#1 ++ ef ++ 2#3) a 0 0x19))
  | .sendQ4 c a ef => some (.w (encE 4 c (0#1 ++ ef ++ 3#3) a 0 0x19))
  | .recv c a => some (.w (encE 5 c 0 a 0 0x19))
  | .recvAdd c a => some (.w (encE 5 c 1 a 0 0x19))
  | .cinc c a => some (.w (encE 0 c 0 a 0 0x1A))
  | .cwait c a => some (.w (encE 1 c 0 a 0 0x1A))
  | .cset c a => some (.w (encE 2 c 0 a 0 0x1A))
  | .crd d c => some (.w (encE 3 c 0 0 d 0x1A))
  | .ipost c a => some (.w (encE 0 c 0 a 0 0x1B))
  | .iwait c a => some (.w (encE 1 c 0 a 0 0x1B))
  | .barInit a b => some (.w (encE 2 0 b a 0 0x1B))
  | .barArrive d a => some (.w (encE 3 0 0 a d 0x1B))
  | .barArriveRlx d a => some (.w (encE 4 0 0 a d 0x1B))
  | .barWait a b => some (.w (encE 5 0 b a 0 0x1B))
  | .awin op aw a b => some (.w (encE 0 (0#1 ++ op ++ aw) b a 0 0x1C))
  | .ascat aw wv wi km => some (.w (encE 1 (0#3 ++ aw) (0#2 ++ wv) (0#2 ++ wi) km 0x1C))
  | .amerge aw => some (.w (encE 2 (0#3 ++ aw) 0 0 0 0x1C))
  | .arel aw => some (.w (encE 3 (0#3 ++ aw) 0 0 0 0x1C))
  | .slook d a => some (.w (encE 0 0 0 a d 0x1D))
  | .sins d a b => some (.w (encE 1 0 b a d 0x1D))
  | .sinv a => some (.w (encE 2 0 0 a 0 0x1D))
  | .hAddi d imm => some (.h (encH imm d 0))
  | .hMv d a => some (.h (encH (0#2 ++ a) d 1))
  | .hLdd d imm => some (.h (encH imm d 2))
  | .hStd b imm => some (.h (encH imm b 3))
  | .hBz a imm => some (.h (encH imm a 4))
  | .hBnz a imm => some (.h (encH imm a 5))
  | .hJ imm => some (.h (encHJ imm))
  | .hCwait c t => some (.h (encH t c 7))
  | .wset f => some (.t f.enc)
  | .wrd w d => some (.t (encWrd w d))
  | .ofill w km ty v => some (.t (encOfill w km ty v))
  | .gtrans f => some (.t (f.enc 0))
  | .gcopy f => some (.t (f.enc 1))
  | .gsave f => some (.t (f.enc 0))
  | .grest f => some (.t (f.enc 1))
  | .oacc f => some (.t f.enc)
  | .fenceRetire | .timecmpWrite _ | .giqsaveWrite _ | .sealRetire | .irrevRetire | .haltRetire | .gridResetEntry
  | .giqDeparture | .windowPipeVector _ | .scalarLoadReturn | .oaccStep _ | .streamStep _ _ | .engineAccept _
  | .engineComplete _ | .engineRuntimeFault _ _ | .cwaitSatisfied | .ipostApply | .iwaitSatisfied
  | .barWaitSatisfied | .barrierRemoteOp _ _ _ | .giqFaultTrap | .asyncTrap | .timerExpiry | .absentRowFetch _ _
  | .pageWalk _ | .hostAnswer _ _ _ | .invalidation _ _ | .invalidationComplete _
  | .queueEnable _ _ _ | .queueDestroy _ _ _ | .tailWrite _ _ _ | .recordFetch _ _ | .waitPoll _ _
  | .reserveAttempt _ | .reserveAgeExpiry _ _ | .taskDispatch _ _ | .preemptDrain | .preemptSave | .preemptGone
  | .taskResume _ | .kill _ | .sealAgentArrive _ _ | .arrive _ _ _ | .commit _ | .logStallTimeout
  | .holdStallTimeout | .domainFault _ _ | .rollback _ | .rollbackRestore _ | .rollbackClean | .rollbackReport
  | .resume | .laneSparing _ | .poison _ | .dieFence _ | .domainFaultReport _ _ | .rollbackDone _
  | .flitTransmit _ | .flitReceive _ | .replayRequest _ _ | .linkRetrain _ | .linkLost _ | .linkUp _ _
  | .credit _ _ | .cancelNotice _ | .retrainStart _ | .msgbell _ _ | .msgack _ | .outbell _ | .mreset _ _
  | .partitionReset _ | .partitionTeardown _ | .resetDrain _ | .resetFlush _ | .resetScrub _ | .resetFree _
  | .energyApportion _ _ | .hostMemAccess _ _ | .registerWrite _ _ | .packageReset _
  | .getVersion | .getCapabilities | .negotiateAlgorithms _ | .getDigests | .getCertificate _ | .challenge _
  | .getMeasurements _ | .keyExchange _ | .finish _ _ | .heartbeat _ | .keyUpdate _ | .endSession _ => none

/-- An event: a row of the opcode table that no bit pattern encodes. -/
def Instr.isEvent (i : Instr) : Bool := i.encode.isNone

/-! ### The decoder, one function per major -/

/-- ALU by fn10 (R37). -/
def decAlu (fn : Nat) (d a b : Reg) : Option Instr :=
  match fn with
  | 0 => some (.add d a b) | 1 => some (.sub d a b) | 2 => some (.and d a b) | 3 => some (.or d a b)
  | 4 => some (.xor d a b) | 5 => some (.andn d a b) | 6 => some (.orn d a b) | 7 => some (.shl d a b)
  | 8 => some (.shr d a b) | 9 => some (.sra d a b) | 10 => some (.rotl d a b) | 11 => some (.rotr d a b)
  | 12 => some (.slt d a b) | 13 => some (.sltn d a b) | 14 => some (.min d a b) | 15 => some (.max d a b)
  | 16 => some (.minn d a b) | 17 => some (.maxn d a b) | 18 => some (.clz d a) | 19 => some (.ctz d a)
  | 20 => some (.popc d a) | 21 => some (.clmul d a b) | 22 => some (.clmulh d a b)
  | _ => none

/-- MULDIV by fn10 (R37). -/
def decMul (fn : Nat) (d a b : Reg) : Option Instr :=
  match fn with
  | 0 => some (.mul d a b) | 1 => some (.mulh d a b) | 2 => some (.mulhn d a b) | 3 => some (.mulhsn d a b)
  | 4 => some (.div d a b) | 5 => some (.divn d a b) | 6 => some (.rem d a b) | 7 => some (.remn d a b)
  | _ => none

/-- FPS by the operation field (R38). -/
def decFps (op : Nat) (f : FpsF) : Option Instr :=
  match op with
  | 0 => some (.fadd f) | 1 => some (.fsub f) | 2 => some (.fmul f) | 3 => some (.fdiv f) | 4 => some (.fsqrt f)
  | 5 => some (.fmin f) | 6 => some (.fmax f) | 7 => some (.fma f) | 8 => some (.fneg f) | 9 => some (.fabs f)
  | 10 => some (.feq f) | 11 => some (.flt f) | 12 => some (.fle f) | 13 => some (.fclass f)
  | 14 => some (.fcvti f) | 15 => some (.fcvtn f) | 16 => some (.fcvtfi f) | 17 => some (.fcvtfn f)
  | 18 => some (.fcvtp f)
  | _ => none

/-- LOGI by sub (R39). -/
def decLogi (sub : Nat) (d a : Reg) (imm : BitVec 12) : Option Instr :=
  let n := bits imm 0 6
  match sub with
  | 0 => some (.andi d a imm) | 1 => some (.ori d a imm) | 2 => some (.xori d a imm)
  | 3 => some (.shli d a n) | 4 => some (.shri d a n) | 5 => some (.srai d a n)
  | 6 => some (.slti d a imm) | 7 => some (.sltni d a imm)
  | _ => none

/-- BR by condition (R39). -/
def decBr (cond : Nat) (a b : Reg) (imm : BitVec 12) : Option Instr :=
  match cond with
  | 0 => some (.beq a b imm) | 1 => some (.bne a b imm) | 2 => some (.blt a b imm)
  | 3 => some (.bge a b imm) | 4 => some (.bltn a b imm) | 5 => some (.bgen a b imm)
  | _ => none

/-- LD by sub (R40). -/
def decLd (sub : Nat) (d a : Reg) (imm : BitVec 12) : Option Instr :=
  match sub with
  | 0 => some (.ldb d a imm) | 1 => some (.ldh d a imm) | 2 => some (.ldw d a imm) | 3 => some (.ldd d a imm)
  | 4 => some (.ldbn d a imm) | 5 => some (.ldhn d a imm) | 6 => some (.ldwn d a imm)
  | _ => none

/-- ST by sub (R40). -/
def decSt (sub : Nat) (b a : Reg) (imm : BitVec 12) : Option Instr :=
  match sub with
  | 0 => some (.stb b a imm) | 1 => some (.sth b a imm) | 2 => some (.stw b a imm) | 3 => some (.std b a imm)
  | _ => none

/-- AMO by operation (R41). -/
def decAmo (op : Nat) (f : AmoF) : Option Instr :=
  match op with
  | 0 => some (.amoadd f) | 1 => some (.amoand f) | 2 => some (.amoor f) | 3 => some (.amoxor f)
  | 4 => some (.amomin f) | 5 => some (.amomax f) | 6 => some (.amominn f) | 7 => some (.amomaxn f)
  | 8 => some (.amoswap f) | 9 => some (.cas f) | 10 => some (.lr f) | 11 => some (.sc f)
  | _ => none

/-- FENCE by kind (R42). -/
def decFence (kind : Nat) (x : BitVec 3) : Option Instr :=
  match kind with
  | 0 => some (.fenceSv x) | 1 => some (.fenceVs x) | 2 => some (.fenceVv x) | 3 => some (.fenceAll x)
  | _ => none

/-- SYS by fn5 (R42). The table gives two trap codes rows of their own. -/
def decSys (fn : Nat) (csr : BitVec 10) (d a : Reg) : Option Instr :=
  match fn with
  | 0 => some (if csr = 0x300 then .trapRollback else if csr = 0x301 then .trapKill else .trap csr)
  | 1 => some .eret | 2 => some .wfi | 3 => some (.csrr d csr) | 4 => some (.csrw d a csr)
  | 5 => some (.csrs d a csr) | 6 => some (.csrc d a csr) | 7 => some (.seal a) | 8 => some (.sealq d)
  | 9 => some .irrev | 10 => some (.enq d a (bits csr 0 3)) | 11 => some .halt
  | _ => none

/-- KOP by fn10 (R43). -/
def decKop (fn : Nat) (d a b : Reg) : Option Instr :=
  match fn with
  | 0 => some (.kbound d a b) | 1 => some (.kand d a b) | 2 => some (.kor d a b) | 3 => some (.kxor d a b)
  | 4 => some (.kandn d a b) | 5 => some (.knot d a) | 6 => some (.kmov d a) | 7 => some (.kpop d a)
  | 8 => some (.kfirst d a) | 9 => some (.kset d a b) | 10 => some (.kgetl d a) | 11 => some (.kgeth d a)
  | 12 => some (.kzero d) | 13 => some (.kone d)
  | _ => none

/-- The fields of a V word by role (R44). -/
def vbin (w : BitVec 32) : VBin :=
  ⟨bits w 29 3, bits w 26 3, bits w 23 3, bits w 18 5, bits w 16 2, bits w 12 4⟩
def vun (w : BitVec 32) : VUn := ⟨bits w 26 3, bits w 23 3, bits w 18 5, bits w 12 4⟩
def vtri (w : BitVec 32) : VTri := ⟨bits w 29 3, bits w 26 3, bits w 23 3, bits w 18 5, bits w 12 4⟩
def vimm (w : BitVec 32) : VImm := ⟨bits w 29 3, bits w 23 3, bits w 18 5, bits w 16 2, bits w 12 4⟩
def vgen (w : BitVec 32) : VGen := ⟨bits w 23 3, bits w 18 5, bits w 12 4⟩
def vcmpf (w : BitVec 32) : VCmp := ⟨bits w 29 3, bits w 26 3, bits w 7 5, bits w 18 5, bits w 16 2, bits w 12 4⟩

/-- VALU by fn5 (R46). -/
def decValu (fn : Nat) (w : BitVec 32) : Option Instr :=
  match fn with
  | 0 => some (.vadd (vbin w)) | 1 => some (.vsub (vbin w)) | 2 => some (.vmul (vbin w))
  | 3 => some (.vfma (vbin w)) | 4 => some (.vfms (vbin w)) | 5 => some (.vmin (vbin w)) | 6 => some (.vmax (vbin w))
  | 7 => some (.vabs (vun w)) | 8 => some (.vneg (vun w)) | 9 => some (.vand (vbin w)) | 10 => some (.vor (vbin w))
  | 11 => some (.vxor (vbin w)) | 12 => some (.vshl (vbin w)) | 13 => some (.vshr (vbin w))
  | 14 => some (.vsra (vbin w)) | 15 => some (.vsel (vbin w)) | 16 => some (.vclamp (vbin w))
  | 17 => some (.vscale2 (vbin w)) | 18 => some (.vclmul (vbin w)) | 19 => some (.vclmulh (vbin w))
  | 20 => some (.vcpsgn (vbin w))
  | _ => none

/-- VCMP by the predicate in the wd field (R46). -/
def decVcmp (p : Nat) (w : BitVec 32) : Option Instr :=
  match p with
  | 0 => some (.vcmpEq (vcmpf w)) | 1 => some (.vcmpNe (vcmpf w)) | 2 => some (.vcmpLt (vcmpf w))
  | 3 => some (.vcmpLe (vcmpf w)) | 4 => some (.vcmpGt (vcmpf w)) | 5 => some (.vcmpGe (vcmpf w))
  | 6 => some (.vcmpUnord (vcmpf w)) | 7 => some (.vcmpOrd (vcmpf w))
  | _ => none

/-- VRED by fn5 (R46). -/
def decVred (fn : Nat) (w : BitVec 32) : Option Instr :=
  match fn with
  | 0 => some (.vrsum (vun w)) | 1 => some (.vrmax (vun w)) | 2 => some (.vrmin (vun w)) | 3 => some (.vrsumsq (vun w))
  | 4 => some (.vcsum (vun w)) | 5 => some (.vcmax (vun w)) | 6 => some (.vcmin (vun w))
  | _ => none

/-- VCVT by fn5: 0 to 11 name the source type of vcvt (R46). -/
def decVcvt (fn : BitVec 5) (w : BitVec 32) : Option Instr :=
  if fn.toNat < 12 then some (.vcvt (vun w) fn)
  else match fn.toNat with
  | 16 => some (.vquant (vtri w)) | 17 => some (.vdequant (vtri w)) | 18 => some (.vround (vtri w))
  | _ => none

/-- VMOV by fn5, and vmov by form (R46). -/
def decVmov (fn : Nat) (w : BitVec 32) : Option Instr :=
  match fn with
  | 0 => if bits w 16 2 = 0 then some (.vmov (vun w)) else some (.vmovOp2 (vimm w))
  | 1 => some (.vperm (vtri w)) | 2 => some (.vslide (vbin w)) | 3 => some (.vext (vbin w))
  | 4 => some (.viota (vgen w)) | 5 => some (.vcompress (vun w)) | 6 => some (.vrowi (vgen w))
  | _ => none

/-- VSPEC by fn5 (R46). -/
def decVspec (fn : Nat) (w : BitVec 32) : Option Instr :=
  match fn with
  | 0 => some (.vrcp (vun w)) | 1 => some (.vsqrt (vun w)) | 2 => some (.vrsqrt (vun w)) | 3 => some (.vexp2 (vun w))
  | 4 => some (.vlog2 (vun w))
  | _ => none

/-- QLD by fn5 (R47). -/
def decQld (fn : Nat) (c b a d : Reg) : Option Instr :=
  match fn with
  | 0 => some (.qld c a b) | 1 => some (.qldt c a b) | 2 => some (.qldff d c a b) | 3 => some (.qldx d c a b)
  | 4 => some (.qldz c a b)
  | _ => none

/-- GLS by fn5 (R47). -/
def decGls (fn : Nat) (c b a d : Reg) : Option Instr :=
  let fs : GlsS := ⟨bits c 3 2, bits c 0 3, b, a, d⟩
  let fx : GlsX := ⟨bits c 3 2, bits c 0 3, bits b 0 3, a, d⟩
  match fn with
  | 0 => some (.gld fs) | 1 => some (.gst fs) | 2 => some (.gldff fs)
  | 3 => some (.gldx fx) | 4 => some (.gstx fx) | 5 => some (.gstxo fx)
  | _ => none

/-- XFER by fn5; send by its quantiser field and recv by its add bit (R47). -/
def decXfer (fn : Nat) (c b a d : Reg) : Option Instr :=
  match fn with
  | 0 => some (.xfer c d a b) | 1 => some (.xferb c d (bits a 0 3) b) | 2 => some (.xdz c d a b)
  | 3 => some (.dztab c d a)
  | 4 => match (bits b 0 3).toNat with
    | 0 => some (.sendRaw c a) | 1 => some (.sendQ8 c a (bits b 3 1)) | 2 => some (.sendQ8w c a (bits b 3 1))
    | 3 => some (.sendQ4 c a (bits b 3 1))
    | _ => none
  | 5 => if bits b 0 1 = 0 then some (.recv c a) else some (.recvAdd c a)
  | _ => none

/-- CNT by fn5 (R47). -/
def decCnt (fn : Nat) (c a d : Reg) : Option Instr :=
  match fn with
  | 0 => some (.cinc c a) | 1 => some (.cwait c a) | 2 => some (.cset c a) | 3 => some (.crd d c)
  | _ => none

/-- SYNC by fn5 (R47). -/
def decSync (fn : Nat) (c b a d : Reg) : Option Instr :=
  match fn with
  | 0 => some (.ipost c a) | 1 => some (.iwait c a) | 2 => some (.barInit a b) | 3 => some (.barArrive d a)
  | 4 => some (.barArriveRlx d a) | 5 => some (.barWait a b)
  | _ => none

/-- AWIN by fn5 (R47). -/
def decAwin (fn : Nat) (c b a d : Reg) : Option Instr :=
  match fn with
  | 0 => some (.awin (bits c 2 2) (bits c 0 2) a b)
  | 1 => some (.ascat (bits c 0 2) (bits b 0 3) (bits a 0 3) d)
  | 2 => some (.amerge (bits c 0 2)) | 3 => some (.arel (bits c 0 2))
  | _ => none

/-- STAG by fn5 (R47). -/
def decStag (fn : Nat) (b a d : Reg) : Option Instr :=
  match fn with
  | 0 => some (.slook d a) | 1 => some (.sins d a b) | 2 => some (.sinv a)
  | _ => none

/-- The row a 32-bit word selects, by its major opcode (R36), with its operand fields. -/
def pick32 (w : BitVec 32) : Option Instr :=
  let d := bits w 7 5
  let a := bits w 12 5
  let b := bits w 17 5
  let c := bits w 22 5
  let fn5 := bits w 27 5
  let fn10 := (bits w 22 10).toNat
  let sub := (bits w 29 3).toNat
  let imm12 := bits w 17 12
  match (bits w 2 5).toNat with
  | 0x01 => decAlu fn10 d a b
  | 0x02 => decMul fn10 d a b
  | 0x03 => decFps (bits w 22 6).toNat ⟨bits w 31 1, bits w 28 3, b, a, d⟩
  | 0x04 => some (.addi d a (bits w 17 15))
  | 0x05 => decLogi sub d a imm12
  | 0x06 => some (.lhi d (bits w 12 20))
  | 0x07 => some (.pcrel d (bits w 12 20))
  | 0x08 => some (.jal d (bits w 12 20))
  | 0x09 => some (.jalr d a (bits w 17 15))
  | 0x0A => decBr (bits w 7 3).toNat (bits w 10 5) (bits w 15 5) (bits w 20 12)
  | 0x0B => decLd sub d a imm12
  | 0x0C => decSt sub d a imm12
  | 0x0D => decAmo (bits w 22 4).toNat ⟨bits w 29 3, bits w 28 1, bits w 26 2, b, a, d⟩
  | 0x0E => decFence sub (bits w 26 3)
  | 0x0F => decSys fn5.toNat (bits w 17 10) d a
  | 0x10 => decKop fn10 d a b
  | 0x11 => decValu (bits w 7 5).toNat w
  | 0x12 => decVcmp (bits w 23 3).toNat w
  | 0x13 => decVred (bits w 7 5).toNat w
  | 0x14 => decVcvt (bits w 7 5) w
  | 0x15 => decVmov (bits w 7 5).toNat w
  | 0x16 => decVspec (bits w 7 5).toNat w
  | 0x17 => decQld fn5.toNat c b a d
  | 0x18 => decGls fn5.toNat c b a d
  | 0x19 => decXfer fn5.toNat c b a d
  | 0x1A => decCnt fn5.toNat c a d
  | 0x1B => decSync fn5.toNat c b a d
  | 0x1C => decAwin fn5.toNat c b a d
  | 0x1D => decStag fn5.toNat b a d
  | _ => none

/-- The row a halfword selects (R34). -/
def pick16 (w : BitVec 16) : Option Instr :=
  let r := bits w 4 5
  let imm := bits w 9 7
  match (bits w 1 3).toNat with
  | 0 => some (.hAddi r imm) | 1 => some (.hMv r (bits w 9 5)) | 2 => some (.hLdd r imm) | 3 => some (.hStd r imm)
  | 4 => some (.hBz r imm) | 5 => some (.hBnz r imm) | 6 => some (.hJ (bits w 4 12)) | 7 => some (.hCwait r imm)
  | _ => none

/-- The row a tile form selects, by its tile major and word 0 bit 7 (R48 to R51). -/
def pick64 (w : BitVec 64) : Option Instr :=
  let sel := bits w 7 1
  let gim : GimF := ⟨bits w 24 5, bits w 16 7, bits w 9 7, bits w 8 1⟩
  let cp : CopyF := ⟨bits w 8 1, bits w 9 1, bits w 52 4, bits w 48 4, bits w 44 4, bits w 40 4, bits w 36 4,
    bits w 32 4⟩
  match (bits w 2 5).toNat with
  | 0x01 => some (.oacc ⟨bits w 25 7, bits w 20 2, bits w 18 2, bits w 13 5, bits w 8 5, sel, bits w 63 1,
      bits w 56 7, bits w 52 4, bits w 48 4, bits w 44 4, bits w 40 4, bits w 32 8⟩)
  | 0x02 => some (.ofill (bits w 8 3) (bits w 11 5) (bits w 16 4) (bits w 32 32))
  | 0x03 => if sel = 0 then
      some (.wset ⟨bits w 28 4, bits w 21 7, bits w 14 7, bits w 12 2, bits w 11 1, bits w 8 3, bits w 32 5⟩)
    else some (.wrd (bits w 8 3) (bits w 32 5))
  | 0x04 => if sel = 0 then some (.gtrans cp) else some (.gcopy cp)
  | 0x05 => if sel = 0 then some (.gsave gim) else some (.grest gim)
  | _ => none

/-- The row that a code selects. -/
def pick : Code → Option Instr
  | .h w => pick16 w
  | .w w => pick32 w
  | .t w => pick64 w

/-- The instruction of a code: the selected row, when its fields are legal and its fixed bits are as the row says. -/
def decode (c : Code) : Option Instr :=
  match pick c with
  | some i => if i.wf && decide (i.encode = some c) then some i else none
  | none => none

/-- What a byte string decodes to: an instruction with its code, an illegal encoding with its code (cause 0x01 of R33),
or too few bytes for the length that its first halfword gives (R31, R32). -/
inductive Decoded where
  | instr (i : Instr) (c : Code)
  | illegal (c : Code)
  | short
deriving DecidableEq, Repr

/-- Decoding from bytes is total. -/
def decodeBytes (bs : List Byte) : Decoded :=
  match codeOfBytes bs with
  | none => .short
  | some (c, _) =>
    match decode c with
    | some i => .instr i c
    | none => .illegal c

/-- The instruction that the decoder reads from an instruction whose bits are `w`, bit 0 the least significant bit of
the first word: the words are laid out little-endian, with zeros above bit `nbits`. -/
def decodeTableWord (nbits w : Nat) : Option Instr :=
  match decodeBytes (leBytes 8 (w % 2 ^ nbits)) with
  | .instr i _ => some i
  | _ => none

end Sys2Proof
end

