-- ==== Sys2Proof/Config.lean ====
section
/-! DEFINITION. Sys2Proof/Config.lean: the free values of the model, each an opaque constant: nothing in Lean can evaluate
one or prove a value of it. They stand where the spec gives a value no number: how long a step takes, where Jorhin's
code starts, the bytes of a saved block, keys and signatures. -/

namespace Sys2Proof.Config

/-- Core clock cycles that pass in step n (assumption log 5). -/
opaque elapsed : Nat → Nat
/-- Ticks of 10 ns that pass in step n (assumption log 5). -/
opaque timeElapsed : Nat → Nat
/-- The physical address at which a trap into firmware level enters Jorhin (R103, R109; assumption log 6). -/
opaque firmwareEntry : Word
/-- GIQSAVE.BYTES of a block (R375: at most 8,192), from the number of its entries and a fresh counter (log 7). -/
opaque giqBytes : Nat → BitVec 14
/-- Which of two elements that store to one address a gstx leaves in memory (R202, R238; log 8). -/
opaque scatterPick : Nat → Bool
/-- A measurement digest of boot (R395: SM3 of an image), by its index, over the image of that stage (log 9). -/
opaque digest : Nat → List Byte → List Byte
/-- The stage at which boot stops, 0 when every check passes (R395), over the boot image (log 9). -/
opaque bootCheck : List Byte → Nat
/-- The seed that the SRAM physical unclonable function gives (R396; log 9). -/
opaque identitySeed : List Byte
/-- The identity key that is derived from the seed (R396; log 9). -/
opaque identityKey : List Byte → List Byte
/-- The alias key that is derived from the seed and measurements 2 and 3 (R396; log 9). -/
opaque aliasKey : List Byte → List Byte → List Byte → List Byte
/-- Does the partition table name a partition (R395; log 9). -/
opaque tableHas : Nat → List Byte → Bool
/-- The partition to which the partition table allots a cluster, 16 and more for none (R379, R395; log 9). -/
opaque tableOwner : Nat → List Byte → Nat
/-- What the partition table gives a register of a partition: the partition, the register's offset in its control block (0x1000 for PTROOT) and
the boot image (R395; log 9). -/
opaque tableWord : Nat → Nat → List Byte → Word
/-- The body of an SPDM answer (R397): request code, session or slot, and what the requester sent (log 9). -/
opaque spdmBody : Nat → Nat → List Byte → List Byte
/-- Does a FINISH authenticate (R397; log 9). -/
opaque spdmVerify : Nat → List Byte → Bool
/-- The bytes that Wirvale's internal layouts hold in a saved frame (R371, R372), by address and a fresh counter (log 11). -/
opaque frameByte : Nat → Nat → Byte
/-- The x registers of a core whose run-ahead task was withdrawn (R26: the launch unit had overwritten them), by register and
a fresh counter (log 13). -/
opaque lostReg : Nat → Nat → Word

/-- Which entry a full translation buffer replaces (R221: not architectural), by a fresh counter (log 55). -/
opaque tlbVictim : Nat → Nat

/-- Is the oldest scalar store of a core performed now, where stores are paced (R237), by a fresh counter (log 30). -/
opaque storeLands : Nat → Bool

/-- How many of the writes of its core's grid side and engine commands that nothing orders before it a scalar load is behind, where loads are
paced (R246, R415), modulo their number plus 1, by a fresh counter (log 30). -/
opaque olderPick : Nat → Nat

/-- The eight header bytes of a payload flit (R335 gives its fields no places), by sequence number, command, first block and number of
blocks (log 61). -/
opaque flitHead : Nat → Nat → Nat → Nat → BitVec 64

/-- The FEC parity of a flit (R335 names no code), over its bytes 0 to 251 (log 61). -/
opaque fecParity : List Byte → BitVec 32

end Sys2Proof.Config
end

