-- ==== Sys2Proof/Machine/Flags.lean ====
section
/-! DEFINITION. Sys2Proof/Machine/Flags.lean: exception flags and the order in which they are merged (R65, R82 to R84).
An operation answers a set of flags (`Fl`); a grid-side entry gathers the sets of its elements into a `FlagRec`, which
also names the first element that raised each flag that has an index register; merging a record into FLAGS and EIDX is
one function. -/

namespace Sys2Proof.Machine

/-- A set of exception flags, in the order of FLAGS bits 0 to 6 (R82). -/
structure Fl where
  nx  : Bool := false
  uf  : Bool := false
  ov  : Bool := false
  dz  : Bool := false
  nv  : Bool := false
  sat : Bool := false
  iov : Bool := false
deriving DecidableEq, Repr

namespace Fl

/-- No flag. -/
def none : Fl := {}
def invalid : Fl := { nv := true }
def divZero : Fl := { dz := true }
def inexact : Fl := { nx := true }
def overflow : Fl := { ov := true, nx := true }
def saturate : Fl := { sat := true }
def intOverflow : Fl := { iov := true }

/-- The flags of either set. -/
def or (a b : Fl) : Fl :=
  ⟨a.nx || b.nx, a.uf || b.uf, a.ov || b.ov, a.dz || b.dz, a.nv || b.nv, a.sat || b.sat, a.iov || b.iov⟩

/-- The set as FLAGS bits 6 to 0 (R82). -/
def toNat (f : Fl) : Nat :=
  natOfBool f.nx + 2 * natOfBool f.uf + 4 * natOfBool f.ov + 8 * natOfBool f.dz + 16 * natOfBool f.nv
    + 32 * natOfBool f.sat + 64 * natOfBool f.iov

/-- The scalar flags SNX, SUF, SOF, SDZ, SNV as FLAGS bits 12 to 8 (R82, R100). -/
def toScalarNat (f : Fl) : Nat :=
  256 * (natOfBool f.nx + 2 * natOfBool f.uf + 4 * natOfBool f.ov + 8 * natOfBool f.dz + 16 * natOfBool f.nv)

/-- Keep only the flags that an oacc merges (R78). -/
def oaccOnly (f : Fl) : Fl := { ov := f.ov, nv := f.nv, iov := f.iov }

end Fl

/-- The flags of a grid-side entry and, per indexed flag, the first place that raised it (R83): a place is a vector
number (or cell row) and an element position (or cell column). -/
structure FlagRec where
  fl  : Fl := {}
  nv  : Option (Nat × Nat) := none
  dz  : Option (Nat × Nat) := none
  ov  : Option (Nat × Nat) := none
  uf  : Option (Nat × Nat) := none
  sat : Option (Nat × Nat) := none
deriving DecidableEq, Repr

namespace FlagRec

/-- The first place: one already recorded stays. -/
def firstAt (old : Option (Nat × Nat)) (raised : Bool) (v j : Nat) : Option (Nat × Nat) :=
  match old with
  | some p => some p
  | none => if raised then some (v, j) else none

/-- Add the flags that the element at place `(v, j)` raised. Elements are added in ascending place (R83). -/
def add (r : FlagRec) (f : Fl) (v j : Nat) : FlagRec :=
  { fl := r.fl.or f
    nv := firstAt r.nv f.nv v j
    dz := firstAt r.dz f.dz v j
    ov := firstAt r.ov f.ov v j
    uf := firstAt r.uf f.uf v j
    sat := firstAt r.sat f.sat v j }

/-- The place of the lesser vector number, then the lesser element position (R83). -/
def lowest (a b : Option (Nat × Nat)) : Option (Nat × Nat) :=
  match a, b with
  | some p, some q => if p.1 < q.1 || (p.1 == q.1 && p.2 ≤ q.2) then some p else some q
  | some p, none => some p
  | none, q => q

/-- Add the flags of an element in any order, keeping the lowest place (R83). -/
def addLowest (r : FlagRec) (f : Fl) (v j : Nat) : FlagRec :=
  let at_ (b : Bool) : Option (Nat × Nat) := if b then some (v, j) else none
  { fl := r.fl.or f
    nv := lowest r.nv (at_ f.nv)
    dz := lowest r.dz (at_ f.dz)
    ov := lowest r.ov (at_ f.ov)
    uf := lowest r.uf (at_ f.uf)
    sat := lowest r.sat (at_ f.sat) }

/-- Combine with a record of a later part (a later step): the earlier part's places stay (R78). -/
def then_ (a b : FlagRec) : FlagRec :=
  { fl := a.fl.or b.fl
    nv := a.nv.or b.nv
    dz := a.dz.or b.dz
    ov := a.ov.or b.ov
    uf := a.uf.or b.uf
    sat := a.sat.or b.sat }

end FlagRec

/-- The EIDX word of a record: V, SRC, VEC and ELEM (R83). -/
def eidxWord (oacc : Bool) (p : Nat × Nat) : Word :=
  BitVec.ofNat 64 (2 ^ 63 + (if oacc then 2 ^ 15 else 0) + (p.1 % 128) * 256 + p.2 % 128)

/-- The new EIDX register: written only when the entry raises the flag while FLAGS holds it clear (R83). -/
def eidxNext (flagSet raised : Bool) (oacc : Bool) (p : Option (Nat × Nat)) (old : Word) : Word :=
  if raised && !flagSet then eidxWord oacc (p.getD (0, 0)) else old

end Sys2Proof.Machine
end

