-- ==== Sys2Proof/Machine/Float.lean ====
section
/-! DEFINITION. Sys2Proof/Machine/Float.lean: floating-point values, rounding and the arithmetic on them (R59 to R67).
A value is decoded to an exact number, the operation is computed exactly (or as a lower bound with a sticky mark, when
the result is irrational or does not terminate), and one function rounds the exact result into the destination. -/

namespace Sys2Proof.Machine

/-- How a format marks NaNs (R59): exponent all ones with a non-zero fraction, the all-ones pattern alone, or none. -/
inductive NanKind where
  | ieee
  | top
  | absent
deriving DecidableEq, Repr

/-- The parameters of a floating-point format (R59). -/
structure FFmt where
  ebits : Nat
  mbits : Nat
  bias  : Nat
  nan   : NanKind
  /-- the canonical NaN (R60); unused where there is none -/
  cnan  : Nat
deriving DecidableEq, Repr

/-- The formats of R59, and binary64 for scalar .d. -/
def fmtF32 : FFmt := ⟨8, 23, 127, .ieee, 0x7FC00000⟩
def fmtBf16 : FFmt := ⟨8, 7, 127, .ieee, 0x7FC0⟩
/-- f19 as its 19 upper bits: the 13 low bits of the container are not part of the number (R58). -/
def fmtF19 : FFmt := ⟨8, 10, 127, .ieee, 0x3FE00⟩
def fmtF16 : FFmt := ⟨5, 10, 15, .ieee, 0x7E00⟩
def fmtE4m3 : FFmt := ⟨4, 3, 7, .top, 0x7F⟩
def fmtE5m2 : FFmt := ⟨5, 2, 15, .ieee, 0x7E⟩
def fmtE3m2 : FFmt := ⟨3, 2, 3, .absent, 0⟩
def fmtE2m3 : FFmt := ⟨2, 3, 1, .absent, 0⟩
def fmtE2m1 : FFmt := ⟨2, 1, 1, .absent, 0⟩
def fmtF64 : FFmt := ⟨11, 52, 1023, .ieee, 0x7FF8000000000000⟩

/-- A number as read: a NaN, an infinity, or exactly (−1)^neg × m × 2^e. -/
inductive FV where
  | nan
  | inf (neg : Bool)
  | fin (neg : Bool) (m : Nat) (e : Int)
deriving DecidableEq, Repr

/-- The five rounding modes (R62). -/
inductive RMode where
  | rne
  | rtz
  | rdn
  | rup
  | rmm
deriving DecidableEq, Repr

/-- The coding of R38 and R62: 5 to 7 are no mode. -/
def RMode.ofCode : Nat → Option RMode
  | 0 => some .rne
  | 1 => some .rtz
  | 2 => some .rdn
  | 3 => some .rup
  | 4 => some .rmm
  | _ => none

namespace FFmt

/-- Bits of an encoding. -/
def width (f : FFmt) : Nat := 1 + f.ebits + f.mbits

/-- The exponent of the least significant bit of a subnormal. -/
def qmin (f : FFmt) : Int := 1 - (f.bias : Int) - f.mbits

/-- Has the format infinities (R59: the IEEE-like ones do). -/
def hasInf (f : FFmt) : Bool := f.nan == .ieee

/-- The value of an encoding (R59). -/
def decode (f : FFmt) (w : Nat) : FV :=
  let neg := bitNat w (f.ebits + f.mbits)
  let ef := (w >>> f.mbits) % 2 ^ f.ebits
  let m := w % 2 ^ f.mbits
  let top := 2 ^ f.ebits - 1
  if f.nan == .ieee && ef == top then (if m == 0 then .inf neg else .nan)
  else if f.nan == .top && ef == top && m == 2 ^ f.mbits - 1 then .nan
  else if ef == 0 then .fin neg m f.qmin
  else .fin neg (2 ^ f.mbits + m) (f.qmin + ef - 1)

/-- The largest finite magnitude, as an encoding without its sign (R59). -/
def maxFinite (f : FFmt) : Nat :=
  let top := 2 ^ f.ebits - 1
  match f.nan with
  | .ieee => (top - 1) * 2 ^ f.mbits + (2 ^ f.mbits - 1)
  | .top => top * 2 ^ f.mbits + (2 ^ f.mbits - 2)
  | .absent => top * 2 ^ f.mbits + (2 ^ f.mbits - 1)

/-- The encoding of an infinity, without its sign. -/
def infEnc (f : FFmt) : Nat := (2 ^ f.ebits - 1) * 2 ^ f.mbits

/-- The smallest normal, as an encoding. -/
def minNormal (f : FFmt) : Nat := 2 ^ f.mbits

/-- The sign bit in place. -/
def signBit (f : FFmt) (neg : Bool) : Nat := if neg then 2 ^ (f.ebits + f.mbits) else 0

/-- The encoding of magnitude r × 2^q, for r at most 2^(mbits+1) and q at least `qmin`; r below 2^mbits only at
q = `qmin`. -/
def pack (f : FFmt) (r : Nat) (q : Int) : Nat :=
  if r < 2 ^ f.mbits then r
  else (q - f.qmin).toNat * 2 ^ f.mbits + r

end FFmt

/-- The integer nearest to m × 2^sh in the given mode, with whether that is inexact (R62). `neg` is the sign of the
value whose magnitude is rounded. -/
def roundShift (mode : RMode) (neg : Bool) (m : Nat) (sh : Int) : Nat × Bool :=
  match sh with
  | .ofNat k => (m <<< k, false)
  | .negSucc k' =>
    let k := k' + 1
    let lo := m >>> k
    let rest := m % 2 ^ k
    let half := 2 ^ k'
    let up := match mode with
      | .rne => rest > half || (rest == half && lo % 2 == 1)
      | .rtz => false
      | .rdn => neg && rest != 0
      | .rup => !neg && rest != 0
      | .rmm => rest ≥ half
    (if up then lo + 1 else lo, rest != 0)

/-- An exact result on its way to rounding: a NaN (with whether the operation was invalid), an infinity (with whether
it came from a division by zero), or a magnitude m × 2^e, or strictly between m and m + 1 such units when `sticky`. -/
inductive Exact where
  | nan (invalid : Bool)
  | inf (neg divZero : Bool)
  | num (neg : Bool) (m : Nat) (e : Int) (sticky : Bool)
deriving DecidableEq, Repr

/-- A value as an exact result. -/
def FV.exact : FV → Exact
  | .nan => .nan false
  | .inf neg => .inf neg false
  | .fin neg m e => .num neg m e false

/-- What overflow does in a format without room for the rounded value. -/
inductive OvfRule where
  /-- R62: infinity or the largest finite value by the rounding mode -/
  | ieee
  /-- R66 with the overflow-mode bit 0: saturate -/
  | saturate
  /-- R66 with the overflow-mode bit 1: NaN in e4m3, infinity in e5m2 -/
  | special
deriving DecidableEq, Repr

/-- The encoding and flags of an overflowing value (R62, R66). -/
def overflowTo (f : FFmt) (rule : OvfRule) (mode : RMode) (neg : Bool) : Nat × Fl :=
  match rule with
  | .ieee =>
    let toInf := match mode with
      | .rne | .rmm => true
      | .rtz => false
      | .rdn => neg
      | .rup => !neg
    (f.signBit neg + (if toInf then f.infEnc else f.maxFinite), Fl.overflow)
  | .saturate => (f.signBit neg + f.maxFinite, { sat := true, nx := true })
  | .special => (if f.hasInf then f.signBit neg + f.infEnc else f.cnan, Fl.overflow)

/-- Round an exact result into a format (R62, R64 to R66): the encoding and the flags. `flush` writes a subnormal
result as a zero of its sign (R64). R62 does not say which v overflows: DESIGN CHOICE, one whose rounded value, the exponent being
unbounded, lies beyond the largest finite value; one that the mode rounds back to that value sets NX alone (assumption log 65). -/
def roundTo (f : FFmt) (rule : OvfRule) (mode : RMode) (flush : Bool) (x : Exact) : Nat × Fl :=
  match x with
  | .nan inv => (f.cnan, { nv := inv })
  | .inf neg dz =>
    match rule with
    | .ieee => (f.signBit neg + f.infEnc, { dz := dz })
    | .saturate => (f.signBit neg + f.maxFinite, { sat := true, dz := dz })
    | .special => if f.hasInf then (f.signBit neg + f.infEnc, { dz := dz }) else (f.cnan, { nv := true, dz := dz })
  | .num neg m0 e0 sticky =>
    let m := if sticky then 2 * m0 + 1 else m0
    let e := if sticky then e0 - 1 else e0
    if m == 0 then (f.signBit neg, {})
    else
      let top : Int := (Nat.log2 m : Int) + e
      let qu : Int := top - f.mbits
      let ru := roundShift mode neg m (e - qu)
      let tiny := decide ((Nat.log2 ru.1 : Int) + qu < 1 - (f.bias : Int))
      let q : Int := if qu < f.qmin then f.qmin else qu
      let r := roundShift mode neg m (e - q)
      -- a carry out of the fraction moves to the next exponent
      let r1 := if r.1 < 2 ^ (f.mbits + 1) then r.1 else r.1 / 2
      let q1 := if r.1 < 2 ^ (f.mbits + 1) then q else q + 1
      let enc := f.pack r1 q1
      if enc > f.maxFinite then overflowTo f rule mode neg
      else if flush && r1 != 0 && r1 < 2 ^ f.mbits then (f.signBit neg, { uf := true, nx := true })
      else (f.signBit neg + enc, { nx := r.2, uf := tiny && r.2 })

/-! ### Exact operations -/

/-- The common exponent and the two aligned signed magnitudes. -/
def alignSum (n1 : Bool) (m1 : Nat) (e1 : Int) (n2 : Bool) (m2 : Nat) (e2 : Int) : Int × Int :=
  let e := if e1 ≤ e2 then e1 else e2
  let a : Int := ((m1 <<< (e1 - e).toNat : Nat) : Int)
  let b : Int := ((m2 <<< (e2 - e).toNat : Nat) : Int)
  ((if n1 then -a else a) + (if n2 then -b else b), e)

/-- The exact sum, with the zero signs of R61. -/
def addFV (mode : RMode) (x y : FV) : Exact :=
  match x, y with
  | .nan, _ | _, .nan => .nan false
  | .inf a, .inf b => if a == b then .inf a false else .nan true
  | .inf a, .fin _ _ _ => .inf a false
  | .fin _ _ _, .inf b => .inf b false
  | .fin n1 m1 e1, .fin n2 m2 e2 =>
    let s := alignSum n1 m1 e1 n2 m2 e2
    if s.1 == 0 then .num (if n1 == n2 then n1 else mode == .rdn) 0 0 false
    else .num (decide (s.1 < 0)) s.1.natAbs s.2 false

def FV.neg : FV → FV
  | .nan => .nan
  | .inf n => .inf (!n)
  | .fin n m e => .fin (!n) m e

def FV.abs : FV → FV
  | .nan => .nan
  | .inf _ => .inf false
  | .fin _ m e => .fin false m e

def FV.isNeg : FV → Bool
  | .nan => false
  | .inf n => n
  | .fin n _ _ => n

def FV.isNaN : FV → Bool
  | .nan => true
  | _ => false

def FV.isZero : FV → Bool
  | .fin _ 0 _ => true
  | _ => false

def FV.isInf : FV → Bool
  | .inf _ => true
  | _ => false

/-- The exact product of numbers (R61), and invalid for 0 × ∞. -/
def mulFV (x y : FV) : Exact :=
  match x, y with
  | .nan, _ | _, .nan => .nan false
  | .inf a, .inf b => .inf (a != b) false
  | .inf a, .fin n m _ | .fin n m _, .inf a => if m == 0 then .nan true else .inf (a != n) false
  | .fin n1 m1 e1, .fin n2 m2 e2 => .num (n1 != n2) (m1 * m2) (e1 + e2) false

/-- x × y + z, exactly; ∞ × 0 is invalid whatever the addend (R100). -/
def fmaFV (mode : RMode) (x y z : FV) : Exact :=
  match mulFV x y with
  | .nan inv => .nan inv
  | .inf n _ => addFV mode (.inf n) z
  | .num n m e _ => addFV mode (.fin n m e) z

/-- The quotient: a division by zero of a finite non-zero number gives ∞ with DZ; 0/0 and ∞/∞ are invalid (R100). -/
def divFV (x y : FV) : Exact :=
  match x, y with
  | .nan, _ | _, .nan => .nan false
  | .inf _, .inf _ => .nan true
  | .inf a, .fin n _ _ => .inf (a != n) false
  | .fin n _ _, .inf b => .num (n != b) 0 0 false
  | .fin n1 m1 e1, .fin n2 m2 e2 =>
    if m2 == 0 then (if m1 == 0 then .nan true else .inf (n1 != n2) true)
    else
      let k := 130 + Nat.log2 m2
      .num (n1 != n2) ((m1 <<< k) / m2) (e1 - e2 - k) ((m1 <<< k) % m2 != 0)

/-- Digit-by-digit integer square root: the largest r with r × r ≤ n, r below 2^k added to `r0`. -/
def isqrtFrom (n : Nat) : Nat → Nat → Nat
  | 0, r => r
  | k + 1, r => if (r + 2 ^ k) * (r + 2 ^ k) ≤ n then isqrtFrom n k (r + 2 ^ k) else isqrtFrom n k r

/-- The integer square root. -/
def isqrt (n : Nat) : Nat := isqrtFrom n (Nat.log2 n / 2 + 1) 0

/-- The square root; √−0 is −0 and a negative number is invalid (R81, R100). -/
def sqrtFV (x : FV) : Exact :=
  match x with
  | .nan => .nan false
  | .inf n => if n then .nan true else .inf false false
  | .fin n m e =>
    if m == 0 then .num n 0 0 false
    else if n then .nan true
    else
      let m1 := if e % 2 == 0 then m else 2 * m
      let e1 := if e % 2 == 0 then e else e - 1
      let w := m1 <<< 260
      let r := isqrt w
      .num false r (e1 / 2 - 130) (r * r != w)

/-- An order on values without NaNs that puts −0 below +0 (R61). -/
def ltTotal (x y : FV) : Bool :=
  match x, y with
  | .nan, _ | _, .nan => false
  | .inf a, .inf b => a && !b
  | .inf a, .fin _ _ _ => a
  | .fin _ _ _, .inf b => !b
  | .fin n1 m1 e1, .fin n2 m2 e2 =>
    if m1 == 0 && m2 == 0 then n1 && !n2
    else decide ((alignSum n1 m1 e1 (!n2) m2 e2).1 < 0)

/-- Numeric less-than: false with a NaN, and −0 equals +0 (R61). -/
def ltFV (x y : FV) : Bool := ltTotal x y && !(x.isZero && y.isZero)

/-- Numeric equality: false with a NaN, and −0 equals +0 (R61). -/
def eqFV (x y : FV) : Bool :=
  !x.isNaN && !y.isNaN && !ltFV x y && !ltFV y x

/-- The lesser: −0 below +0, and the other operand when exactly one is a NaN (R61). -/
def minFV (x y : FV) : FV := if x.isNaN then y else if y.isNaN then x else if ltTotal y x then y else x

/-- The greater (R61). -/
def maxFV (x y : FV) : FV := if x.isNaN then y else if y.isNaN then x else if ltTotal x y then y else x

/-- A finite value rounded to an integer, with whether that is inexact (R67). -/
def roundInt (mode : RMode) (neg : Bool) (m : Nat) (e : Int) : Int × Bool :=
  let r := roundShift mode neg m e
  (if neg then -(r.1 : Int) else r.1, r.2)

/-- Conversion to an integer range (R67): the value and the flags. -/
def toIntRange (mode : RMode) (lo hi : Int) (x : FV) : Int × Fl :=
  match x with
  | .nan => (0, Fl.invalid)
  | .inf n => (if n then lo else hi, Fl.invalid)
  | .fin n m e =>
    let r := roundInt mode n m e
    if r.1 < lo then (lo, Fl.invalid)
    else if hi < r.1 then (hi, Fl.invalid)
    else (r.1, { nx := r.2 })

/-- An integer as an exact result (zero is +0). -/
def intExact (v : Int) : Exact := .num (decide (v < 0)) v.natAbs 0 false

/-- Rounding to an integral value in the format (vround of R63): NX when not already integral; the sign is kept. -/
def roundIntegral (mode : RMode) (x : FV) : Exact × Bool :=
  match x with
  | .nan => (.nan false, false)
  | .inf n => (.inf n false, false)
  | .fin n m e =>
    let r := roundShift mode n m e
    (.num n r.1 0 false, r.2)

/-- A subnormal input read as a zero of its sign when the flush bit is set (R64). -/
def FV.flushIn (f : FFmt) (flush : Bool) (x : FV) : FV :=
  match x with
  | .fin n m e => if flush && m < 2 ^ f.mbits then .fin n 0 e else x
  | _ => x

end Sys2Proof.Machine
end

