-- ==== Sys2Proof/Machine/Formats.lean ====
section
/-! DEFINITION. Sys2Proof/Machine/Formats.lean: window element types, operand formats, block vectors and the quantisers
(R45, R58 to R75, R115, R140, R154 to R158). -/

namespace Sys2Proof.Machine

/-- The element types of window instructions (R58). -/
inductive ETy where
  | f32 | bf16 | f16 | f19 | i32 | n32 | i16 | n16 | i8 | n8 | e4m3 | e5m2
deriving DecidableEq, Repr

namespace ETy

/-- Type codes (R58); 12 to 15 name no type. -/
def ofCode : Nat → Option ETy
  | 0 => some .f32 | 1 => some .bf16 | 2 => some .f16 | 3 => some .f19
  | 4 => some .i32 | 5 => some .n32 | 6 => some .i16 | 7 => some .n16
  | 8 => some .i8 | 9 => some .n8 | 10 => some .e4m3 | 11 => some .e5m2
  | _ => none

/-- The element width w (R58). -/
def width : ETy → Nat
  | .f32 | .f19 | .i32 | .n32 => 32
  | .bf16 | .f16 | .i16 | .n16 => 16
  | .i8 | .n8 | .e4m3 | .e5m2 => 8

/-- The floating-point parameters of a float type (R59). -/
def fmt : ETy → Option FFmt
  | .f32 => some fmtF32
  | .bf16 => some fmtBf16
  | .f16 => some fmtF16
  | .f19 => some fmtF19
  | .e4m3 => some fmtE4m3
  | .e5m2 => some fmtE5m2
  | .i32 | .n32 | .i16 | .n16 | .i8 | .n8 => none

def isFloat (t : ETy) : Bool := t.fmt.isSome

/-- f32, bf16, f16 and f19 (R142). -/
def isWide : ETy → Bool
  | .f32 | .bf16 | .f16 | .f19 => true
  | _ => false

/-- i32, i16 and i8 (R142). -/
def isSigned : ETy → Bool
  | .i32 | .i16 | .i8 => true
  | _ => false

/-- n32, n16 and n8 (R142). -/
def isUnsigned : ETy → Bool
  | .n32 | .n16 | .n8 => true
  | _ => false

def isInt (t : ETy) : Bool := t.isSigned || t.isUnsigned

/-- The range of an integer type (R69). -/
def intLo (t : ETy) : Int := if t.isSigned then -(2 ^ (t.width - 1) : Nat) else 0
def intHi (t : ETy) : Int := if t.isSigned then (2 ^ (t.width - 1) : Nat) - 1 else (2 ^ t.width : Nat) - 1

end ETy

/-- The pattern of an element of type `t` in a cell: its low w bits; f19 ignores bits 12 to 0 (R58, R115). -/
def cellPat (t : ETy) (c : Cell) : Nat :=
  match t with
  | .f19 => (c.toNat >>> 13) <<< 13
  | _ => c.toNat % 2 ^ t.width

/-- The cell image of a w-bit pattern (R115): signed types copy bit w − 1 upward, the others write zeros, and f19 clears
bits 12 to 0. -/
def patCell (t : ETy) (p : Nat) : Cell :=
  match t with
  | .f19 => BitVec.ofNat 32 ((p >>> 13) <<< 13)
  | _ =>
    if t.isSigned then BitVec.ofInt 32 (signedNat t.width (p % 2 ^ t.width))
    else BitVec.ofNat 32 (p % 2 ^ t.width)

/-- A float pattern as a value. -/
def patFV (t : ETy) (p : Nat) : FV :=
  match t.fmt with
  | some f => f.decode (if t == .f19 then p >>> 13 else p)
  | none => .nan

/-- An integer pattern as a value (R141). -/
def patInt (t : ETy) (p : Nat) : Int := if t.isSigned then signedNat t.width p else p

/-- The pattern of a float encoding: f19 stands in the upper 19 bits of its container (R58). -/
def encPat (t : ETy) (e : Nat) : Nat := if t == .f19 then e <<< 13 else e

/-- The canonical NaN of a type as a pattern (R60). -/
def nanPat (t : ETy) : Nat :=
  match t.fmt with
  | some f => encPat t f.cnan
  | none => 0

/-- The sign bit of a float pattern. -/
def signPat (t : ETy) : Nat := 2 ^ (t.width - 1)

/-- What a window instruction takes from STATUS at its dispatch (R15, R138). -/
structure VStat where
  vrm   : Nat := 0
  flush : Bool := false
  ovfm  : Bool := false
deriving DecidableEq, Repr

/-- The vector rounding mode; codes 5 to 7 trap before they are used (R63). -/
def VStat.mode (s : VStat) : RMode := (RMode.ofCode s.vrm).getD .rne

/-- The overflow rule of R66 by the overflow-mode bit. -/
def ovfRule (ovfm : Bool) : OvfRule := if ovfm then .special else .saturate

/-- Round an exact result into a float type: RNE and R66 for e4m3 and e5m2, the vector mode for the others (R63, R140).
`flush` is the flush bit for the instructions that honour it. -/
def finishF (t : ETy) (s : VStat) (flush : Bool) (x : Exact) : Nat × Fl :=
  match t.fmt with
  | none => (0, {})
  | some f =>
    let r := match t with
      | .e4m3 | .e5m2 => roundTo f (ovfRule s.ovfm) .rne flush x
      | _ => roundTo f .ieee s.mode flush x
    (encPat t r.1, r.2)

/-- The same with RNE in every type: reductions and special functions (R63, R79, R81). -/
def finishRne (t : ETy) (s : VStat) (flush : Bool) (x : Exact) : Nat × Fl :=
  finishF t { s with vrm := 0 } flush x

/-- Wrap an exact integer into a type, with IOV outside its range (R69, R141). -/
def finishI (t : ETy) (v : Int) : Nat × Fl :=
  (wrapInt t.width v, { iov := decide (v < t.intLo) || decide (t.intHi < v) })

/-- A float element read under the flush bit (R64). -/
def readF (t : ETy) (flush : Bool) (p : Nat) : FV :=
  match t.fmt with
  | some f => (patFV t p).flushIn f flush
  | none => .nan

/-- A value that needs no rounding in its own type (min, max, copies of a value): NaN becomes the canonical NaN. -/
def exactPat (t : ETy) (x : FV) : Nat :=
  match t.fmt with
  | some f => encPat t (roundTo f (if f.hasInf then .ieee else .saturate) .rne false x.exact).1
  | none => 0

/-- The constants of the integer column, modulo 2^w (R45). -/
def intConst (w k : Nat) : Nat :=
  match k with
  | 0 => 0 | 1 => 1 | 2 => 2 ^ w - 1 | 3 => 2 | 4 => 4 | 5 => 8 | 6 => 16
  | _ => 2 ^ w - 2

/-- The constants of R45 as patterns of a type. -/
def constPat (t : ETy) (k : Nat) : Nat :=
  match t.fmt with
  | none => intConst t.width k
  | some f =>
    let ex (neg : Bool) (m : Nat) (e : Int) : Nat := (roundTo f .saturate .rne false (.num neg m e false)).1
    let e := match k with
      | 0 => 0
      | 1 => ex false 1 0
      | 2 => ex true 1 0
      | 3 => ex false 2 0
      | 4 => ex false 1 (-1)
      | 5 => ex true 1 (-1)
      | 6 => f.maxFinite
      | _ => f.minNormal
    encPat t e

/-! ### Conversions (R66 to R68, R154) -/

/-- vcvt of one element (R154). -/
def convert (src dst : ETy) (s : VStat) (p : Nat) : Nat × Fl :=
  match src.fmt, dst.fmt with
  | some f, some _ =>
    if src == dst then
      -- rewritten unchanged, but for NaNs and the flush bit
      let x := patFV src p
      if x.isNaN then (nanPat dst, {})
      else
        match x with
        | .fin n m _ => if s.flush && m != 0 && m < 2 ^ f.mbits then (if n then signPat dst else 0, {}) else (p, {})
        | _ => (p, {})
    else
      let x := readF src s.flush p
      finishF dst s s.flush x.exact
  | some _, none =>
    let r := toIntRange s.mode dst.intLo dst.intHi (readF src s.flush p)
    (wrapInt dst.width r.1, r.2)
  | none, some _ => finishF dst s s.flush (intExact (patInt src p))
  | none, none =>
    let v := patInt src p
    if v < dst.intLo then (wrapInt dst.width dst.intLo, Fl.saturate)
    else if dst.intHi < v then (wrapInt dst.width dst.intHi, Fl.saturate)
    else (wrapInt dst.width v, {})

/-! ### Operand formats (R70 to R75) -/

/-- The operand formats of oacc and of streams (R70). -/
inductive OFmt where
  | f32 | f19 | bf16 | f16 | e4m3 | e5m2 | e3m2 | e2m3 | e2m1
  | mxe4m3 | mxe5m2 | mxe3m2 | mxe2m3 | mxe2m1 | mxi8
  | i8 | n8 | i4 | n4 | tl3 | tl5 | tl8 | i16
  | spbf16 | spe4m3 | spi8 | spmxe2m1 | sptl5
deriving DecidableEq, Repr

namespace OFmt

/-- Format codes (R70); 28 to 31 name no format. -/
def ofCode : Nat → Option OFmt
  | 0 => some .f32 | 1 => some .f19 | 2 => some .bf16 | 3 => some .f16 | 4 => some .e4m3 | 5 => some .e5m2
  | 6 => some .e3m2 | 7 => some .e2m3 | 8 => some .e2m1 | 9 => some .mxe4m3 | 10 => some .mxe5m2
  | 11 => some .mxe3m2 | 12 => some .mxe2m3 | 13 => some .mxe2m1 | 14 => some .mxi8 | 15 => some .i8
  | 16 => some .n8 | 17 => some .i4 | 18 => some .n4 | 19 => some .tl3 | 20 => some .tl5 | 21 => some .tl8
  | 22 => some .i16 | 23 => some .spbf16 | 24 => some .spe4m3 | 25 => some .spi8 | 26 => some .spmxe2m1
  | 27 => some .sptl5
  | _ => none

/-- The k-positions that a step consumes (R70). -/
def rank : OFmt → Nat
  | .f32 | .f19 | .bf16 | .f16 | .i16 => 1
  | .e4m3 | .e5m2 | .e3m2 | .e2m3 | .mxe4m3 | .mxe5m2 | .mxe3m2 | .mxe2m3 | .mxi8 | .i8 | .n8 | .tl5 | .tl8
  | .spbf16 => 2
  | .e2m1 | .mxe2m1 | .i4 | .n4 | .tl3 | .spe4m3 | .spi8 | .sptl5 => 4
  | .spmxe2m1 => 8

/-- The rank-2 float formats that pair with each other (R75). -/
def isEleven : OFmt → Bool
  | .e4m3 | .e5m2 | .e3m2 | .e2m3 | .mxe4m3 | .mxe5m2 | .mxe3m2 | .mxe2m3 | .mxi8 | .tl5 | .tl8 => true
  | _ => false

def isHalfLike : OFmt → Bool
  | .f19 | .bf16 | .f16 => true
  | _ => false

def isFour : OFmt → Bool
  | .e2m1 | .mxe2m1 | .tl3 => true
  | _ => false

/-- The integer family (R70). -/
def isInt : OFmt → Bool
  | .i8 | .n8 | .i4 | .n4 | .i16 | .spi8 => true
  | _ => false

/-- The 2:4 sparse formats, legal only on the A side (R70, R74). -/
def isSparse : OFmt → Bool
  | .spbf16 | .spe4m3 | .spi8 | .spmxe2m1 | .sptl5 => true
  | _ => false

/-- The legal pairings (R75). -/
def pairs (a b : OFmt) : Bool :=
  match a with
  | .f32 => b == .f32
  | .f19 | .bf16 | .f16 | .spbf16 => b.isHalfLike
  | .e4m3 | .e5m2 | .e3m2 | .e2m3 | .mxe4m3 | .mxe5m2 | .mxe3m2 | .mxe2m3 | .mxi8 | .tl5 | .tl8
  | .spe4m3 | .sptl5 => b.isEleven
  | .e2m1 | .mxe2m1 | .tl3 | .spmxe2m1 => b.isFour
  | .i16 => b == .i16
  | .i8 | .n8 | .spi8 => b == .i8 || b == .n8
  | .i4 | .n4 => b == .i4 || b == .n4

/-- Bits of one stored element of a format without two-level blocks (R71). -/
def elemBits : OFmt → Nat
  | .f32 | .f19 => 32
  | .bf16 | .f16 | .i16 | .spbf16 => 16
  | .e4m3 | .e5m2 | .mxe4m3 | .mxe5m2 | .mxi8 | .i8 | .n8 | .spe4m3 | .spi8 => 8
  | .e3m2 | .e2m3 | .mxe3m2 | .mxe2m3 => 6
  | .e2m1 | .mxe2m1 | .i4 | .n4 | .spmxe2m1 => 4
  | .tl3 => 3
  | .tl5 | .sptl5 => 5
  | .tl8 => 8

/-- The float format of an element (R59, R70). -/
def fmt : OFmt → Option FFmt
  | .f32 => some fmtF32
  | .f19 => some fmtF19
  | .bf16 | .spbf16 => some fmtBf16
  | .f16 => some fmtF16
  | .e4m3 | .mxe4m3 | .spe4m3 => some fmtE4m3
  | .e5m2 | .mxe5m2 => some fmtE5m2
  | .e3m2 | .mxe3m2 => some fmtE3m2
  | .e2m3 | .mxe2m3 => some fmtE2m3
  | .e2m1 | .mxe2m1 | .spmxe2m1 => some fmtE2m1
  | .mxi8 | .i8 | .n8 | .i4 | .n4 | .tl3 | .tl5 | .tl8 | .i16 | .spi8 | .sptl5 => none

/-- The MX formats: 32 elements share an E8M0 scale (R72). -/
def isMX : OFmt → Bool
  | .mxe4m3 | .mxe5m2 | .mxe3m2 | .mxe2m3 | .mxe2m1 | .mxi8 => true
  | _ => false

/-- Mantissa bits of a two-level format (R73). -/
def tlBits : OFmt → Option Nat
  | .tl3 => some 2
  | .tl5 => some 4
  | .tl8 => some 7
  | _ => none

/-- The k-positions of one block: block vectors cover a multiple of it (R71 to R74). -/
def blockLen : OFmt → Nat
  | .mxe4m3 | .mxe5m2 | .mxe3m2 | .mxe2m3 | .mxe2m1 | .mxi8 | .spmxe2m1 => 32
  | .tl3 | .tl5 | .tl8 | .sptl5 => 16
  | .spbf16 | .spe4m3 | .spi8 => 4
  | .f32 | .f19 | .bf16 | .f16 | .e4m3 | .e5m2 | .e3m2 | .e2m3 | .e2m1 | .i8 | .n8 | .i4 | .n4 | .i16 => 1

/-- The bytes of a block vector of n k-positions (R71 to R74). -/
def vecBytes (f : OFmt) (n : Nat) : Nat :=
  match f with
  | .tl3 => n / 16 * 8
  | .tl5 => n / 16 * 12
  | .tl8 => n / 16 * 18
  | .sptl5 => n / 16 * 9
  | .spbf16 => n + (n / 4 + 1) / 2
  | .spe4m3 | .spi8 => n / 2 + (n / 4 + 1) / 2
  | .spmxe2m1 => n / 4 + n / 8 + n / 32
  | .mxe4m3 | .mxe5m2 | .mxi8 => n + n / 32
  | .mxe3m2 | .mxe2m3 => n * 6 / 8 + n / 32
  | .mxe2m1 => n / 2 + n / 32
  | .f32 | .f19 | .bf16 | .f16 | .e4m3 | .e5m2 | .e3m2 | .e2m3 | .e2m1 | .i8 | .n8 | .i4 | .n4 | .i16 =>
    (n * f.elemBits + 7) / 8

end OFmt

/-- An operand element: a float value (scales applied exactly) or an integer. -/
inductive OVal where
  | f (v : FV)
  | i (v : Int)
deriving DecidableEq, Repr

/-- Multiply a value by 2^k exactly. -/
def FV.scale (x : FV) (k : Int) : FV :=
  match x with
  | .fin n m e => .fin n m (e + k)
  | y => y

/-- A plain (block-free) element from its bits. -/
def elemVal (f : OFmt) (p : Nat) : OVal :=
  match f with
  | .i8 | .spi8 => .i (signedNat 8 p)
  | .n8 | .n4 => .i p
  | .i4 => .i (signedNat 4 p)
  | .i16 => .i (signedNat 16 p)
  | .mxi8 =>
    let v := signedNat 8 p
    .f (.fin (decide (v < 0)) v.natAbs (-6))
  | .f19 => .f (fmtF19.decode (p >>> 13))
  | g => .f (match g.fmt with | some ff => ff.decode p | none => .nan)

/-- A two-level element from its block (R73): `mb` mantissa bits, sign above magnitude. -/
def tlVal (mb blk i : Nat) : FV :=
  let ex := blk % 256
  if ex == 255 then .nan
  else
    let mu := (blk >>> (8 + i / 2)) % 2
    let fld := (blk >>> (16 + (1 + mb) * i)) % 2 ^ (1 + mb)
    .fin (bitNat fld mb) (fld % 2 ^ mb) ((ex : Int) - 127 - mu - (mb - 1 : Nat))

/-- The element at k-position `k` of a block vector of `n` k-positions whose little-endian image is `img` (R71 to R74);
none at a zero position of a sparse vector, which gives no product (R76). -/
def blockElem (f : OFmt) (n img k : Nat) : Option OVal :=
  match f.tlBits with
  | some mb =>
    let bb := 16 + 16 * (1 + mb)
    some (.f (tlVal mb (img >>> (bb * (k / 16))) (k % 16)))
  | none =>
    if f.isMX then
      let x := (img >>> (n * f.elemBits + 8 * (k / 32))) % 256
      let v := match elemVal f ((img >>> (f.elemBits * k)) % 2 ^ f.elemBits) with
        | .f v => v
        | .i _ => .nan
      some (.f (if x == 255 then .nan else v.scale ((x : Int) - 127)))
    else if f == .sptl5 then
      let blk := (img >>> (72 * (k / 16))) % 2 ^ 72
      let ix := (blk >>> (56 + 4 * (k % 16 / 4))) % 16
      let pick := if ix % 4 == k % 4 then some 0 else if ix / 4 == k % 4 then some 1 else none
      pick.map fun h =>
        let i := 2 * (k % 16 / 4) + h
        let ex := blk % 256
        if ex == 255 || (blk >>> 12) % 16 != 0 then .f .nan
        else
          let mu := (blk >>> (8 + i / 2)) % 2
          let fld := (blk >>> (16 + 5 * i)) % 32
          .f (.fin (bitNat fld 4) (fld % 16) ((ex : Int) - 127 - mu - 3))
    else if f.isSparse then
      let g := k / 4
      let ix := (img >>> (n / 2 * f.elemBits + 4 * g)) % 16
      let pick := if ix % 4 == k % 4 then some 0 else if ix / 4 == k % 4 then some 1 else none
      pick.map fun h =>
        let v := elemVal f ((img >>> (f.elemBits * (2 * g + h))) % 2 ^ f.elemBits)
        if f == .spmxe2m1 then
          let x := (img >>> (n / 2 * 4 + n + 8 * (k / 32))) % 256
          match v with
          | .f y => .f (if x == 255 then .nan else y.scale ((x : Int) - 127))
          | .i y => .i y
        else v
    else some (elemVal f ((img >>> (f.elemBits * k)) % 2 ^ f.elemBits))

/-! ### Quantisers (R72, R73, R156 to R158) -/

/-- The packed formats of vquant and vdequant, by ws2 (R46). -/
def packFmt : Nat → OFmt
  | 0 => .mxe4m3 | 1 => .mxe5m2 | 2 => .mxe3m2 | 3 => .mxe2m3 | 4 => .mxe2m1 | 5 => .mxi8 | 6 => .tl5
  | _ => .tl8

/-- ⌊log2⌋ of a non-zero magnitude. -/
def FV.log2 (x : FV) : Int :=
  match x with
  | .fin _ m e => (Nat.log2 m : Int) + e
  | _ => 0

/-- The greatest ⌊log2⌋ among the non-zero elements; none when all are zero. For a maximum this is ⌊log2 amax⌋. -/
def maxLog2 (xs : List FV) : Option Int :=
  xs.foldl (fun acc x =>
    if x.isZero then acc
    else match acc with
      | none => some x.log2
      | some a => some (if a < x.log2 then x.log2 else a)) none

def isSpecial (x : FV) : Bool := x.isNaN || x.isInf

/-- Clamp an exponent field to 0 to 254 (R72, R73). -/
def clamp254 (v : Int) : Nat := if v < 0 then 0 else if v > 254 then 254 else v.toNat

/-- The exponent of the element format's largest finite value (R72). -/
def emaxOf : OFmt → Int
  | .mxe4m3 => 8
  | .mxe5m2 => 15
  | .mxe3m2 => 4
  | .mxe2m3 | .mxe2m1 => 2
  | _ => 0

/-- One MX element: v / 2^(X − 127) rounded with RNE, saturating (R72). -/
def mxElem (f : OFmt) (x : Nat) (v : FV) : Nat × Fl :=
  let y := v.scale (127 - (x : Int))
  match f.fmt with
  | some ff =>
    let r := roundTo ff .saturate .rne false y.exact
    (r.1, { nx := r.2.nx, sat := r.2.sat })
  | none =>
    -- mxi8: multiples of 2^-6 in two's complement
    match y with
    | .fin n m e =>
      let r := roundInt .rne n m (e + 6)
      let c : Int := if r.1 < -128 then -128 else if 127 < r.1 then 127 else r.1
      (wrapInt 8 c, { nx := r.2 || c != r.1, sat := c != r.1 })
    | _ => (0, {})

/-- The elements and scale of one MX block (R72): element bits in order, the scale byte, and each element's flags. -/
def mxBlock (f : OFmt) (xs : List FV) : List (Nat × Fl) × Nat :=
  if xs.any isSpecial then (xs.map fun x => (0, { nv := isSpecial x }), 255)
  else
    let x := match maxLog2 xs with
      | none => 0
      | some l => clamp254 (l - emaxOf f + 127)
    (xs.map (mxElem f x), x)

/-- Concatenate fields of `w` bits, the first lowest. -/
def packBits (w : Nat) : List Nat → Nat
  | [] => 0
  | v :: r => v % 2 ^ w + packBits w r <<< w

/-- Is |v| at most 2^k × n. -/
def absLe (v : FV) (n : Nat) (k : Int) : Bool := !(ltFV (.fin false n k) v.abs)

/-- One two-level block (R73): its image and each element's flags. -/
def tlBlock (mb : Nat) (xs : List FV) : Nat × List Fl :=
  if xs.any isSpecial then (255, xs.map fun x => { nv := isSpecial x })
  else
    match maxLog2 xs with
    | none => (0, xs.map fun _ => {})
    | some l =>
      let ex := clamp254 (l + 127)
      let mu (p : Nat) : Nat :=
        natOfBool ((absLe (xs.getD (2 * p) .nan) (2 ^ mb - 1) ((ex : Int) - 128 - (mb - 1 : Nat)))
          && absLe (xs.getD (2 * p + 1) .nan) (2 ^ mb - 1) ((ex : Int) - 128 - (mb - 1 : Nat)))
      let el (i : Nat) (v : FV) : Nat × Fl :=
        match v with
        | .fin n m e =>
          let r := roundShift .rne n m (e - ((ex : Int) - 127 - mu (i / 2) - (mb - 1 : Nat)))
          let c := if r.1 > 2 ^ mb - 1 then 2 ^ mb - 1 else r.1
          (c + (if n then 2 ^ mb else 0), { nx := r.2 || c != r.1, sat := c != r.1 })
        | _ => (0, {})
      let es := xs.mapIdx el
      (ex + packBits 1 ((List.range 8).map mu) <<< 8 + packBits (1 + mb) (es.map (·.1)) <<< 16, es.map (·.2))

/-- Cut a list into pieces of `k`, at most `fuel` of them. -/
def chunks {α : Type} (k : Nat) : Nat → List α → List (List α)
  | 0, _ => []
  | fuel + 1, xs => if xs.isEmpty then [] else xs.take k :: chunks k fuel (xs.drop k)

/-- The block vector of a list of values in a packed format, as a little-endian image, with each element's flags (R71 to
R73, R156). -/
def quantize (f : OFmt) (xs : List FV) : Nat × List Fl :=
  match f.tlBits with
  | some mb =>
    let bs := (chunks 16 xs.length xs).map (tlBlock mb)
    (packBits (16 + 16 * (1 + mb)) (bs.map (·.1)), (bs.map (·.2)).flatten)
  | none =>
    let bs := (chunks 32 xs.length xs).map (mxBlock f)
    let els := (bs.map (·.1)).flatten
    (packBits f.elemBits (els.map (·.1)) + packBits 8 (bs.map (·.2)) <<< (f.elemBits * xs.length), els.map (·.2))

end Sys2Proof.Machine
end

