-- ==== Sys2Proof/Machine/Sparse.lean ====
section
/-! DEFINITION. Sys2Proof/Machine/Sparse.lean: keyed data in one canonical form.
A map is a list of (key, value) pairs, keys strictly rising, and no pair whose value is the one that an unlisted key
reads as (`d` below). Memory, grid rows, poison marks and the other keyed state of the machine are such lists, so equal
contents are equal data. -/

namespace Sys2Proof.Machine

/-- A keyed list. -/
abbrev Sp (α : Type) := List (Nat × α)

namespace Sp

/-- The value at a key; `d` where the key is unlisted. -/
def get {α : Type} (d : α) : Sp α → Nat → α
  | [], _ => d
  | (j, v) :: r, k => if j = k then v else get d r k

/-- Remove a key. -/
def del {α : Type} : Sp α → Nat → Sp α
  | [], _ => []
  | (j, v) :: r, k => if j = k then del r k else (j, v) :: del r k

/-- Insert a pair before the first greater key. -/
def ins {α : Type} : Sp α → Nat → α → Sp α
  | [], k, v => [(k, v)]
  | (j, w) :: r, k, v => if k < j then (k, v) :: (j, w) :: r else (j, w) :: ins r k v

/-- Set the value at a key; the default value is not listed. -/
def put {α : Type} [DecidableEq α] (d : α) (m : Sp α) (k : Nat) (v : α) : Sp α :=
  if v = d then del m k else ins (del m k) k v

/-- All keys of the list exceed `b`. -/
def above {α : Type} (b : Nat) (m : Sp α) : Bool := m.all (fun p => decide (b < p.1))

/-- Keys strictly rise. -/
def rising {α : Type} : Sp α → Bool
  | [] => true
  | (j, _) :: r => above j r && rising r

/-- The canonical form: keys strictly rise and no pair holds the default. -/
def wf {α : Type} [DecidableEq α] (d : α) (m : Sp α) : Bool := rising m && m.all (fun p => decide (p.2 ≠ d))

end Sp

end Sys2Proof.Machine
end

