-- ==== Sys2Proof/Machine/Grid.lean ====
section
/-! DEFINITION. Sys2Proof/Machine/Grid.lean: the accumulator grid, its row tags, windows and masks (R114 to R124, R133),
and the reads and writes of cells that every grid-side instruction uses. -/

namespace Sys2Proof.Machine

/-- How the vectors of a window map onto cells (R117). -/
inductive WMode where
  | row
  | col
  | diag
deriving DecidableEq, Repr

def WMode.ofCode : Nat → WMode
  | 0 => .row
  | 1 => .col
  | _ => .diag

def WMode.code : WMode → Nat
  | .row => 0
  | .col => 1
  | .diag => 2

/-- A configured window (R116). -/
structure Window where
  half   : Nat
  mode   : WMode
  origin : Nat
  count  : Nat
  stride : Int
deriving DecidableEq, Repr

/-- One grid row: its tags (R123) and its 128 cells (R114). -/
structure GridRow where
  valid  : Bool
  dirty  : Bool
  absent : Bool
  cells  : Vector Cell 128
deriving DecidableEq, Repr

/-- An invalid, clean row; every cell reads as zero (R123). -/
def GridRow.init : GridRow := ⟨false, false, false, Vector.replicate 128 0⟩

/-- The 256 rows of both halves, keyed half × 128 + row; an unlisted row is invalid and clean. -/
abbrev Grid := Sp GridRow

namespace Grid

/-- The key of a row. -/
def key (half row : Nat) : Nat := (half % 2) * 128 + row % 128

def row (g : Grid) (half r : Nat) : GridRow := Sp.get GridRow.init g (key half r)

def setRow (g : Grid) (half r : Nat) (x : GridRow) : Grid := Sp.put GridRow.init g (key half r) x

/-- The cell at (half, row, column): zero in an invalid row (R123). -/
def cell (g : Grid) (half r c : Nat) : Cell :=
  let x := g.row half r
  if x.valid then x.cells.getD (c % 128) 0 else 0

/-- Write the cells of a row that `f` names (R124): a row that gets no cell is unchanged; a written row becomes valid and
dirty, and a formerly invalid one reads zero elsewhere. -/
def writeRow (g : Grid) (half r : Nat) (f : Nat → Option Cell) : Grid :=
  if (List.range 128).any (fun c => (f c).isSome) then
    let x := g.row half r
    g.setRow half r
      { valid := true, dirty := true, absent := x.absent,
        cells := Vector.ofFn fun c : Fin 128 => (f c.val).getD (if x.valid then x.cells[c] else 0) }
  else g

/-- Write one cell (R124). -/
def writeCell (g : Grid) (half r c : Nat) (v : Cell) : Grid :=
  let x := g.row half r
  g.setRow half r
    { valid := true, dirty := true, absent := x.absent,
      cells := Vector.ofFn fun k : Fin 128 =>
        if k.val = c % 128 then v else if x.valid then x.cells[k] else 0 }

end Grid

namespace Window

/-- b = (origin + v × stride) mod 128 (R117). -/
def base (w : Window) (v : Nat) : Nat := (((w.origin : Int) + (v : Int) * w.stride) % 128).toNat

/-- The row of element j of vector v (R117). -/
def rowOf (w : Window) (v j : Nat) : Nat :=
  match w.mode with
  | .row => w.base v
  | .col => j
  | .diag => j

/-- The column of element j of vector v (R117). -/
def colOf (w : Window) (v j : Nat) : Nat :=
  match w.mode with
  | .row => j
  | .col => w.base v
  | .diag => (j + w.base v) % 128

/-- The vector that a source window supplies for destination vector v: its only one when its count is 1 (R119). -/
def vecIdx (w : Window) (v : Nat) : Nat := if w.count = 1 then 0 else v

/-- The raw cell behind element j of vector v (R117, R119). -/
def read (w : Window) (g : Grid) (v j : Nat) : Cell :=
  g.cell w.half (w.rowOf (w.vecIdx v) j) (w.colOf (w.vecIdx v) j)

/-- Write the elements of vector v that `f` names (R118, R124). -/
def write (w : Window) (g : Grid) (v : Nat) (f : Nat → Option Cell) : Grid :=
  match w.mode with
  | .row => g.writeRow w.half (w.base v) f
  | .col | .diag =>
    (List.range 128).foldl (fun g j =>
      match f j with
      | some c => g.writeCell w.half (w.rowOf v j) (w.colOf v j) c
      | none => g) g

/-- The descriptor that wrd returns (R122). -/
def descriptor (w : Window) (n : Nat) : Word :=
  BitVec.ofNat 64 (wrapInt 4 w.stride * 2 ^ 28 + (w.count - 1) * 2 ^ 21 + w.origin * 2 ^ 14 + w.mode.code * 2 ^ 12
    + w.half * 2 ^ 11 + n * 2 ^ 8)

/-- The rows that a window instruction claims through this window (R21): the window's rows in row mode, the whole half
otherwise. Rows are numbered half × 128 + row. -/
def rows (w : Window) : List Nat :=
  match w.mode with
  | .row => (List.range w.count).map fun v => w.half * 128 + w.base v
  | .col | .diag => (List.range 128).map fun r => w.half * 128 + r

/-- The rows of one vector. -/
def vecRows (w : Window) (v : Nat) : List Nat :=
  match w.mode with
  | .row => [w.half * 128 + w.base (w.vecIdx v)]
  | .col | .diag => (List.range 128).map fun r => w.half * 128 + r

end Window

/-- The window that a wset configures, with the offset register's value (R121). -/
def windowOf (f : WsetF) (xo : Word) : Window :=
  { half := f.half.toNat, mode := WMode.ofCode f.mode.toNat,
    origin := (f.origin.toNat + xo.toNat % 128) % 128,
    count := f.cntm1.toNat + 1, stride := signedNat 4 f.stride.toNat }

/-- The 24 masks (R133). -/
abbrev Masks := Vector Mask 24

/-- A mask register by its field; the value 31 (and the illegal 24 to 30, which no instruction holds) is all ones. -/
def Masks.governing (k : Masks) (km : KField) : Mask :=
  if h : km.toNat < 24 then k[km.toNat] else BitVec.allOnes 128

def Masks.read (k : Masks) (n : Nat) : Mask := k.getD n 0

def Masks.write (k : Masks) (n : Nat) (m : Mask) : Masks := k.setIfInBounds n m

/-- The number of 1 bits among bits j − 1 to 0. -/
def countBits (w : Nat) : Nat → Nat
  | 0 => 0
  | j + 1 => countBits w j + natOfBool (bitNat w j)

/-- The lowest set bit at or above position j, among `fuel` positions. -/
def lowestBit (w : Nat) : Nat → Nat → Option Nat
  | 0, _ => none
  | fuel + 1, j => if bitNat w j then some j else lowestBit w fuel (j + 1)

/-- Build a mask from a predicate on positions. -/
def maskOf (f : Nat → Bool) : Mask := BitVec.ofNat 128 (packBits 1 ((List.range 128).map fun j => natOfBool (f j)))

end Sys2Proof.Machine
end

