-- ==== Sys2Proof/Machine/Special.lean ====
section
/-! DEFINITION. Sys2Proof/Machine/Special.lean: the correctly rounded functions of VSPEC (R81).
vrcp and vrsqrt are exact quotients and roots with a sticky mark. vexp2 and vlog2 are irrational away from their exact
cases; they are computed as lower bounds with more than two hundred correct bits and a sticky mark, which is far beyond
the distance at which a binary32 result could round the other way (assumption log 31). -/

namespace Sys2Proof.Machine

/-- Fixed-point precision of vexp2, in bits. -/
def expBits : Nat := 320

/-- ln 2 = Σ 1 / (n 2^n), as a fixed-point number of `expBits` bits, summed down from n. -/
def ln2Sum : Nat → Nat
  | 0 => 0
  | n + 1 => 2 ^ expBits / ((n + 1) * 2 ^ (n + 1)) + ln2Sum n

def ln2Fix : Nat := ln2Sum 340

/-- The Taylor sum of exp(t) from term k with value `term`, both in fixed point. -/
def expSum (t : Nat) : Nat → Nat → Nat → Nat
  | 0, _, _ => 0
  | fuel + 1, k, term => term + expSum t fuel (k + 1) (term * t / 2 ^ expBits / (k + 1))

/-- 2^f in fixed point for f = frac / 2^expBits in [0, 1). -/
def exp2Fix (frac : Nat) : Nat := expSum (frac * ln2Fix / 2 ^ expBits) 80 0 (2 ^ expBits)

/-- vexp2 (R81). A value at or above 2^16 in magnitude is beyond every binary32 result. -/
def exp2FV (x : FV) : Exact :=
  match x with
  | .nan => .nan false
  | .inf n => if n then .num false 0 0 false else .inf false false
  | .fin n m e =>
    if m == 0 then .num false 1 0 false
    else if (Nat.log2 m : Int) + e ≥ 16 then
      -- far outside the range: an overflowing or vanishing power of two
      .num false 1 (if n then -65536 else 65536) false
    else
      -- x in units of 2^-expBits, rounded toward minus infinity
      let sh : Int := e + expBits
      let mag : Nat := if sh ≥ 0 then m <<< sh.toNat else m >>> (-sh).toNat
      let v : Int := if n then -(mag : Int) else mag
      let ip : Int := v / (2 ^ expBits : Nat)
      let frac : Nat := (v % (2 ^ expBits : Nat)).toNat
      if frac == 0 then .num false 1 ip false
      else .num false (exp2Fix frac) (ip - expBits) true

/-- Fixed-point precision and number of fraction bits of vlog2. -/
def logPrec : Nat := 512
def logBits : Nat := 200

/-- The binary digits of log2 y for y in [1, 2) in fixed point: square, and halve when the square reaches 2. -/
def log2Digits : Nat → Nat → Nat → Nat
  | 0, _, acc => acc
  | k + 1, y, acc =>
    let y2 := y * y / 2 ^ logPrec
    if y2 ≥ 2 ^ (logPrec + 1) then log2Digits k (y2 / 2) (2 * acc + 1) else log2Digits k y2 (2 * acc)

/-- vlog2 (R81). -/
def log2FV (x : FV) : Exact :=
  match x with
  | .nan => .nan false
  | .inf n => if n then .nan true else .inf false false
  | .fin n m e =>
    if m == 0 then .inf true true
    else if n then .nan true
    else
      let k := Nat.log2 m
      let ip : Int := (k : Int) + e
      if m == 2 ^ k then intExact ip
      else
        let digits := log2Digits logBits (m * 2 ^ (logPrec - k)) 0
        let v : Int := ip * (2 ^ logBits : Nat) + digits
        -- the true value lies strictly between v and v + 1 units
        if v ≥ 0 then .num false v.natAbs (-(logBits : Int)) true
        else .num true (v.natAbs - 1) (-(logBits : Int)) true

/-- vrcp (R81): 1/x, with ∞ and DZ for a zero. -/
def rcpFV (x : FV) : Exact := divFV (.fin false 1 0) x

/-- vrsqrt (R81): 1/√x. -/
def rsqrtFV (x : FV) : Exact :=
  match x with
  | .nan => .nan false
  | .inf n => if n then .nan true else .num false 0 0 false
  | .fin n m e =>
    if m == 0 then .inf n true
    else if n then .nan true
    else
      let m1 := if e % 2 == 0 then m else 2 * m
      let e1 := if e % 2 == 0 then e else e - 1
      let k : Nat := 200
      let w := 2 ^ (2 * k)
      let r := isqrt (w / m1)
      .num false r (-(e1 / 2) - k) (r * r * m1 != w)

end Sys2Proof.Machine
end

