-- ==== Sys2Proof/Machine/WindowArith.lean ====
section
/-! DEFINITION. Sys2Proof/Machine/WindowArith.lean: what one vector of a window instruction does (R137 to R165).
A window instruction is a `WOp` with its captured operands (`WinArgs`); `vecStep` processes one vector: it reads every
source element before it writes any destination element (R118), and answers the new grid, the flags and the progress
that spans vectors (the bits of a vcmp, the folds of a column reduction). -/

namespace Sys2Proof.Machine

/-- The element-wise operations of R139. -/
inductive EOp where
  | add | sub | mul | fma | fms | min | max | clamp | abs | neg | cpsgn
  | and | or | xor | shl | shr | sra | scale2 | clmul | clmulh
  | cvt (src : ETy) | round (m : Nat) | mov
  | rcp | sqrt | rsqrt | exp2 | log2
deriving DecidableEq, Repr

/-- The node operations of the reductions (R79, R80). -/
inductive Red where
  | sum | max | min | sumsq
deriving DecidableEq, Repr

/-- The predicates of vcmp (R151). -/
inductive Pred where
  | eq | ne | lt | le | gt | ge | unord | ord
deriving DecidableEq, Repr

/-- What a window instruction does with its vectors. -/
inductive WOp where
  | elem (e : EOp)
  | sel
  | cmp (p : Pred)
  | rowRed (r : Red)
  | colRed (r : Red)
  | quant (f : Nat)
  | dequant (f : Nat)
  | perm
  | slide
  | ext
  | iota
  | compress
  | rowi
deriving DecidableEq, Repr

/-- The second operand (R138): the window ws2, an x register's value, or a constant of R45. -/
inductive Op2 where
  | window
  | scalar (x : Word)
  | const (k : Nat)
deriving DecidableEq, Repr

/-- The captured operands of a window instruction (R15): its type, mask field, second operand, windows, the mask it
writes and the x register it writes. -/
structure WinArgs where
  ty  : ETy
  km  : KField
  op2 : Op2 := .window
  wd  : Option Window := none
  w1  : Option Window := none
  w2  : Option Window := none
  kd  : Nat := 0
  xd  : Nat := 0
deriving DecidableEq, Repr

/-- Progress that spans the vectors of one instruction (R167). -/
structure VProg where
  acc  : Mask := BitVec.allOnes 128
  fold : List Int := []
deriving DecidableEq, Repr

/-- Is element position j active under the governing mask (R138). -/
def active (m : Mask) (j : Nat) : Bool := bitNat m.toNat j

/-- Element j of vector v of a window; an absent window reads as zero (it is never read). -/
def rdWin (w : Option Window) (g : Grid) (v j : Nat) : Cell :=
  match w with
  | some w => w.read g v j
  | none => 0

def wrWin (w : Option Window) (g : Grid) (v : Nat) (f : Nat → Option Cell) : Grid :=
  match w with
  | some w => w.write g v f
  | none => g

/-- The second operand of element j of vector v as a w-bit pattern (R138). `whole` says that the instruction takes it as an integer, as
vslide, vext and vscale2 do: constants come from the integer column, and f19, whose w is 32, keeps the 13 bits that a read of an f19
value ignores (R58, R149, R161, R162; DEDUCED, assumption log 64). -/
def op2Pat (a : WinArgs) (whole : Bool) (g : Grid) (v j : Nat) : Nat :=
  let pat (c : Cell) : Nat := if whole then c.toNat % 2 ^ a.ty.width else cellPat a.ty c
  match a.op2 with
  | .window => pat (rdWin a.w2 g v j)
  | .scalar x => pat (BitVec.ofNat 32 x.toNat)
  | .const k => if whole then intConst a.ty.width k else constPat a.ty k

/-- Carry-less product of two patterns, over the bits of b (R91, R150). -/
def clmulNat (a b : Nat) : Nat → Nat
  | 0 => 0
  | i + 1 => clmulNat a b i ^^^ (if bitNat b i then a <<< i else 0)

/-- The sum, difference and product of R144 on floats. -/
def floatArith (e : EOp) (mode : RMode) (d a b : FV) : Exact :=
  match e with
  | .add => addFV mode a b
  | .sub => addFV mode a b.neg
  | .mul => mulFV a b
  | .fma => fmaFV mode a b d
  | .fms => fmaFV mode a.neg b d
  | _ => .nan false

/-- The same on integers (R141, R144). -/
def intArith (e : EOp) (d a b : Int) : Int :=
  match e with
  | .add => a + b
  | .sub => a - b
  | .mul => a * b
  | .fma => d + a * b
  | .fms => d - a * b
  | .min => if b < a then b else a
  | .max => if a < b then b else a
  | .clamp =>
    let m := if d < a then a else d
    if b < m then b else m
  | .abs => if a < 0 then -a else a
  | .neg => -a
  | _ => a

/-- The sign-only operations on a float pattern (R146). -/
def signOp (e : EOp) (t : ETy) (a b : Nat) : Nat :=
  if (patFV t a).isNaN then nanPat t
  else
    let s := signPat t
    let mag := a % s
    match e with
    | .abs => mag
    | .neg => if a ≥ s then mag else mag + s
    | _ => if b ≥ s then mag + s else mag

/-- Shifts of a w-bit pattern by an unsigned amount (R147). -/
def shiftPat (e : EOp) (w a s : Nat) : Nat :=
  match e with
  | .shl => if s ≥ w then 0 else (a <<< s) % 2 ^ w
  | .shr => if s ≥ w then 0 else a >>> s
  | _ => wrapInt w (signedNat w a / (2 ^ (if s ≥ w then w else s) : Nat))

/-- The element function F of R139: the result pattern and flags from the patterns of the destination, the first and the
second operand. -/
def elemF (e : EOp) (t : ETy) (st : VStat) (d a b : Nat) : Nat × Fl :=
  match e with
  | .add | .sub | .mul | .fma | .fms =>
    if t.isFloat then
      let mode := match t with | .e4m3 | .e5m2 => RMode.rne | _ => st.mode
      finishF t st st.flush (floatArith e mode (readF t st.flush d) (readF t st.flush a) (readF t st.flush b))
    else finishI t (intArith e (patInt t d) (patInt t a) (patInt t b))
  | .min => if t.isFloat then (exactPat t (minFV (readF t st.flush a) (readF t st.flush b)), {})
    else (wrapInt t.width (intArith e 0 (patInt t a) (patInt t b)), {})
  | .max => if t.isFloat then (exactPat t (maxFV (readF t st.flush a) (readF t st.flush b)), {})
    else (wrapInt t.width (intArith e 0 (patInt t a) (patInt t b)), {})
  | .clamp =>
    if t.isFloat then
      (exactPat t (minFV (maxFV (readF t st.flush d) (readF t st.flush a)) (readF t st.flush b)), {})
    else (wrapInt t.width (intArith e (patInt t d) (patInt t a) (patInt t b)), {})
  | .abs | .neg => if t.isFloat then (signOp e t a b, {}) else finishI t (intArith e 0 (patInt t a) 0)
  | .cpsgn => (signOp e t a b, {})
  | .and => (a &&& b, {})
  | .or => (a ||| b, {})
  | .xor => (a ^^^ b, {})
  | .shl | .shr | .sra => (shiftPat e t.width a b, {})
  | .scale2 =>
    match readF t st.flush a with
    | .nan => (nanPat t, {})
    | .inf n => (exactPat t (.inf n), {})
    | x => finishF t st st.flush (x.scale (signedNat t.width b)).exact
  | .clmul => (clmulNat a b t.width % 2 ^ t.width, {})
  | .clmulh => (clmulNat a b t.width >>> t.width, {})
  | .cvt src => convert src t st a
  | .round m =>
    match t.fmt with
    | none => (a, {})
    | some f =>
      let mode := (RMode.ofCode (if m == 5 then st.vrm else m)).getD .rne
      let r := roundIntegral mode (readF t st.flush a)
      let keep := if f.hasInf then OvfRule.ieee else .saturate
      let x := roundTo f keep .rne st.flush r.1
      (encPat t x.1, { nx := r.2 })
  | .mov => (a, {})
  | .rcp => finishRne t st st.flush (rcpFV (readF t st.flush a))
  | .sqrt => finishRne t st st.flush (sqrtFV (readF t st.flush a))
  | .rsqrt => finishRne t st st.flush (rsqrtFV (readF t st.flush a))
  | .exp2 => finishRne t st st.flush (exp2FV (readF t st.flush a))
  | .log2 => finishRne t st st.flush (log2FV (readF t st.flush a))

/-- Does the element function take its first argument from op2 instead of ws1: vmov of forms 01 and 10 (R159). -/
def movFromOp2 (e : EOp) (o : Op2) : Bool := e == .mov && o != .window

/-- Constants of the integer column go to vslide, vext and vscale2 (R138). -/
def usesIntCol : WOp → Bool
  | .elem .scale2 | .slide | .ext => true
  | _ => false

/-- The predicate of a comparison and whether it raises NV (R151). -/
def cmpPred (p : Pred) (t : ETy) (flush : Bool) (a b : Nat) : Bool × Fl :=
  if t.isFloat then
    let x := readF t flush a
    let y := readF t flush b
    let nan := x.isNaN || y.isNaN
    match p with
    | .eq => (eqFV x y, {})
    | .ne => (!eqFV x y, {})
    | .lt => (ltFV x y, { nv := nan })
    | .le => (!nan && !ltFV y x, { nv := nan })
    | .gt => (ltFV y x, { nv := nan })
    | .ge => (!nan && !ltFV x y, { nv := nan })
    | .unord => (nan, {})
    | .ord => (!nan, {})
  else
    let x := patInt t a
    let y := patInt t b
    (match p with
      | .eq => x == y
      | .ne => x != y
      | .lt => decide (x < y)
      | .le => decide (x ≤ y)
      | .gt => decide (y < x)
      | .ge => decide (y ≤ x)
      | .unord => false
      | .ord => true, {})

/-! ### Reductions (R79, R80, R152, R153) -/

/-- A node operand: an f32 value for float types, an exact integer otherwise. -/
inductive RVal where
  | f (v : FV)
  | i (v : Int)
deriving DecidableEq, Repr

/-- Round an f32 node (R79). -/
def node32 (x : Exact) : FV × Fl :=
  let r := roundTo fmtF32 .ieee .rne false x
  (fmtF32.decode r.1, r.2)

/-- A leaf: the element widened to f32, squared for vrsumsq. -/
def redLeaf (r : Red) (t : ETy) (p : Nat) : RVal × Fl :=
  if t.isFloat then
    let x := patFV t p
    match r with
    | .sumsq => let y := node32 (mulFV x x); (.f y.1, y.2)
    | _ => (.f x, {})
  else
    let x := patInt t p
    match r with
    | .sumsq => (.i (x * x), {})
    | _ => (.i x, {})

/-- One node operation (R79, R80). -/
def redOp (r : Red) (x y : RVal) : RVal × Fl :=
  match x, y with
  | .f a, .f b =>
    match r with
    | .sum | .sumsq => let z := node32 (addFV .rne a b); (.f z.1, z.2)
    | .max => (.f (maxFV a b), {})
    | .min => (.f (minFV a b), {})
  | .i a, .i b =>
    match r with
    | .sum | .sumsq => (.i (a + b), {})
    | .max => (.i (if a < b then b else a), {})
    | .min => (.i (if b < a then b else a), {})
  | .f a, .i _ => (.f a, {})
  | .i a, .f _ => (.i a, {})

/-- One level of the tree: an absent child passes its sibling unchanged (R79). -/
def redLevel (r : Red) : List (Option RVal) → List (Option RVal) × Fl
  | x :: y :: rest =>
    let t := redLevel r rest
    match x, y with
    | none, y => (y :: t.1, t.2)
    | x, none => (x :: t.1, t.2)
    | some a, some b => let z := redOp r a b; (some z.1 :: t.1, z.2.or t.2)
  | [x] => ([x], {})
  | [] => ([], {})

/-- `k` levels of the tree, from the leaves up. -/
def redTree (r : Red) : Nat → List (Option RVal) → List (Option RVal) × Fl
  | 0, xs => (xs, {})
  | k + 1, xs =>
    let a := redLevel r xs
    let b := redTree r k a.1
    (b.1, a.2.or b.2)

/-- The identity of a reduction (R79). -/
def redIdentity (r : Red) (t : ETy) : RVal :=
  if t.isFloat then
    match r with
    | .sum | .sumsq => .f (.fin false 0 0)
    | .max => .f (.inf true)
    | .min => .f (.inf false)
  else
    match r with
    | .sum | .sumsq => .i 0
    | .max => .i t.intLo
    | .min => .i t.intHi

/-- The root as an element of the type, with the flags of its conversion: R66 for e4m3 and e5m2, RNE otherwise, wrapped for integers (R79). -/
def redRoot (t : ETy) (st : VStat) (v : RVal) : Nat × Fl :=
  match v with
  | .f x => finishRne t st false x.exact
  | .i x => finishI t x

/-- Does a reduction merge the flags of its root's conversion whatever the root is: the sums do; a maximum or minimum merges those of an identity
alone (R142; assumption log 24). -/
def Red.rounds : Red → Bool
  | .sum | .sumsq => true
  | .max | .min => false

/-- The row reduction of one vector under a mask: the result element and its flags (R79, R142, R152). -/
def rowReduce (r : Red) (t : ETy) (st : VStat) (m : Mask) (pat : Nat → Nat) : Nat × Fl :=
  let leaves := (List.range 128).map fun j => if active m j then some (redLeaf r t (pat j)) else none
  let lf := leaves.foldl (fun f x => match x with | some p => f.or p.2 | none => f) Fl.none
  let tr := redTree r 7 (leaves.map fun x => x.map (·.1))
  let root := tr.1.head?.getD none
  let e := redRoot t st (root.getD (redIdentity r t))
  (e.1, (lf.or tr.2).or (if r.rounds || root.isNone then e.2 else Fl.none))

/-- A fold value kept as progress: an f32 pattern or an integer. -/
def foldVal (t : ETy) (x : Int) : RVal := if t.isFloat then .f (fmtF32.decode x.toNat) else .i x

def foldInt (v : RVal) : Int :=
  match v with
  | .f x => ((roundTo fmtF32 .ieee .rne false x.exact).1 : Int)
  | .i x => x

/-! ### One vector -/

/-- The result of one vector step. -/
structure VecOut where
  grid : Grid
  flags : FlagRec
  prog : VProg
deriving DecidableEq, Repr

/-- The elements of a vector as cells, from a function that answers patterns and flags at the active positions. -/
def gather (m : Mask) (f : Nat → Nat × Fl) : List (Option (Nat × Fl)) :=
  (List.range 128).map fun j => if active m j then some (f j) else none

/-- Flags of the gathered elements, in ascending position (R83). -/
def gatherFlags (v : Nat) (xs : List (Option (Nat × Fl))) (r : FlagRec) : FlagRec :=
  (xs.foldl (fun (p : Nat × FlagRec) x =>
    (p.1 + 1, match x with | some y => p.2.add y.2 v p.1 | none => p.2)) (0, r)).2

/-- The active positions of a mask in ascending order. -/
def actives (m : Mask) : List Nat := (List.range 128).filter (active m)

/-- Cells of a packed image (R156). -/
def imageCell (img : Nat) (len p : Nat) : Cell := if 4 * p < len then BitVec.ofNat 32 (img >>> (32 * p)) else 0

/-- One vector of a window instruction (R138 to R165). -/
def vecStep (op : WOp) (a : WinArgs) (st : VStat) (m : Mask) (g : Grid) (pr : VProg) (r : FlagRec) (v : Nat) : VecOut :=
  let t := a.ty
  let s1 (j : Nat) : Nat := cellPat t (rdWin a.w1 g v j)
  let o2 (j : Nat) : Nat := op2Pat a (usesIntCol op) g v j
  let wr (f : Nat → Option Cell) : Grid := wrWin a.wd g v f
  match op with
  | .elem e =>
    let src (j : Nat) : Nat :=
      match e with
      | .cvt s => cellPat s (rdWin a.w1 g v j)
      | _ => if movFromOp2 e a.op2 then o2 j else s1 j
    let xs := gather m fun j => elemF e t st (cellPat t (rdWin a.wd g v j)) (src j) (o2 j)
    ⟨wr fun j => (xs.getD j none).map fun x => patCell t x.1, gatherFlags v xs r, pr⟩
  | .sel => ⟨wr fun j => some (patCell t (if active m j then s1 j else o2 j)), r, pr⟩
  | .cmp p =>
    let xs := gather m fun j => let c := cmpPred p t st.flush (s1 j) (o2 j); (natOfBool c.1, c.2)
    let acc := maskOf fun j => active pr.acc j && (match xs.getD j none with | some x => x.1 == 1 | none => true)
    ⟨g, gatherFlags v xs r, { pr with acc := acc }⟩
  | .rowRed k =>
    let x := rowReduce k t st m s1
    ⟨wr fun j => if j = 0 then some (patCell t x.1) else none, r.add x.2 v 0, pr⟩
  | .colRed k =>
    let xs := (List.range 128).map fun j =>
      if !active m j then ((0 : Int), ({} : Fl))
      else
        let l := redLeaf k t (s1 j)
        if v = 0 then (foldInt l.1, l.2)
        else
          let z := redOp k (foldVal t (pr.fold.getD j 0)) l.1
          (foldInt z.1, l.2.or z.2)
    let r' := (xs.foldl (fun (p : Nat × FlagRec) x => (p.1 + 1, p.2.addLowest x.2 0 p.1)) (0, r)).2
    ⟨g, r', { pr with fold := xs.map (·.1) }⟩
  | .quant k =>
    let xs := (List.range 128).map fun j => if active m j then patFV t (s1 j) else .fin false 0 0
    let q := quantize (packFmt k) xs
    let len := (packFmt k).vecBytes 128
    ⟨wr fun j => some (imageCell q.1 len j), gatherFlags v (q.2.map fun f => some (0, f)) r, pr⟩
  | .dequant k =>
    let f := packFmt k
    let img := packBits 32 ((List.range (f.vecBytes 128 / 4)).map fun p => (rdWin a.w1 g v p).toNat)
    let xs := gather m fun j =>
      match blockElem f 128 img j with
      | some (.f x) => finishF t st false x.exact
      | _ => (0, {})
    ⟨wr fun j => (xs.getD j none).map fun x => patCell t x.1, gatherFlags v xs r, pr⟩
  | .perm =>
    ⟨wr fun j => if active m j then some (patCell t (s1 ((rdWin a.w2 g v j).toNat % 128))) else none, r, pr⟩
  | .slide =>
    ⟨wr fun j => if active m j then
        let k : Int := (j : Int) - signedNat t.width (o2 j)
        some (if 0 ≤ k && k ≤ 127 then patCell t (s1 k.toNat) else 0)
      else none, r, pr⟩
  | .ext => ⟨g, r, pr⟩
  | .iota | .rowi =>
    let pos (j : Nat) : Nat := match op, a.wd with
      | .rowi, some w => w.rowOf v j
      | _, _ => j
    ⟨wr fun j => if active m j then
        some (patCell t (if t.isFloat then exactPat t (.fin false (pos j) 0) else pos j)) else none, r, pr⟩
  | .compress =>
    let ps := actives m
    ⟨wr fun j => some (match ps[j]? with | some p => patCell t (s1 p) | none => 0), r, pr⟩

/-- The value that vext moves to its x register (R162). -/
def extValue (a : WinArgs) (m : Mask) (g : Grid) : Word :=
  let idx := op2Pat a true g 0 0 % 128
  if active m idx then
    let p := cellPat a.ty (rdWin a.w1 g 0 idx)
    if a.ty.isSigned then BitVec.ofInt 64 (signedNat a.ty.width p) else BitVec.ofNat 64 p
  else 0

/-- The destination row of a column reduction, written once after the last fold (R80, R153). Every active column has folded an element of each
vector, so no identity is stored, and a maximum or minimum merges no flag of the conversion (R142). -/
def colFinish (k : Red) (a : WinArgs) (st : VStat) (m : Mask) (g : Grid) (pr : VProg) (r : FlagRec) : Grid × FlagRec :=
  let xs := gather m fun j =>
    let e := redRoot a.ty st (foldVal a.ty (pr.fold.getD j 0))
    (e.1, if k.rounds then e.2 else Fl.none)
  (wrWin a.wd g 0 fun j => (xs.getD j none).map fun x => patCell a.ty x.1,
   (xs.foldl (fun (p : Nat × FlagRec) x =>
      (p.1 + 1, match x with | some y => p.2.addLowest y.2 0 p.1 | none => p.2)) (0, r)).2)

/-- The number of vectors that a window instruction processes: the destination's count, or the first source's where it
has no destination or is a column reduction (R119, R138, R153). -/
def winCount (op : WOp) (a : WinArgs) : Nat :=
  match op, a.wd with
  | .colRed _, _ | _, none => (a.w1.map (·.count)).getD 0
  | _, some w => w.count

/-! ### Illegal operands at dispatch (R119, R142, R153, R162) -/

/-- The element types that an instruction accepts (R142). -/
def typeOk (op : WOp) (t : ETy) : Bool :=
  match op with
  | .elem e =>
    match e with
    | .add | .sub | .mul | .fma | .fms | .min | .max | .clamp => true
    | .abs | .neg => t.isFloat || t.isSigned
    | .cpsgn | .scale2 | .round _ => t.isFloat
    | .and | .or | .xor | .mov | .cvt _ => true
    | .shl | .shr | .sra => t.isInt
    | .clmul | .clmulh => t.isUnsigned
    | .rcp | .sqrt | .rsqrt | .exp2 | .log2 => t == .f32
  | .cmp .unord | .cmp .ord => t.isFloat
  | .cmp _ | .sel | .perm | .slide | .ext | .compress | .rowRed _ | .colRed _ => true
  | .quant _ | .dequant _ => t.isWide
  | .iota | .rowi => t.isWide || t.isInt

/-- Source windows have the destination's count or 1; a column reduction's destination has count 1, and vext's source
has count 1 (R119, R153, R162). -/
def countsOk (op : WOp) (a : WinArgs) : Bool :=
  match op with
  | .colRed _ => (a.wd.map (·.count)).getD 1 == 1
  | .ext => (a.w1.map (·.count)).getD 1 == 1
  | _ =>
    let n := winCount op a
    let ok (w : Option Window) : Bool := match w with | some w => w.count == n || w.count == 1 | none => true
    ok a.w1 && (a.op2 != .window || ok a.w2)

/-- Is the vector rounding mode used by the instruction, so that a STATUS field of 5 to 7 traps (R63, R140). -/
def usesVrm (op : WOp) (t : ETy) : Bool :=
  match op with
  | .elem e =>
    match e with
    | .add | .sub | .mul | .fma | .fms | .scale2 => t.isWide
    | .cvt s => (t.isWide && t != s) || (t.isInt && s.isFloat)
    | .round m => m == 5
    | _ => false
  | .dequant _ => true
  | _ => false

end Sys2Proof.Machine
end

