-- ==== Sys2Proof/Machine/Entry.lean ====
section
/-! DEFINITION. Sys2Proof/Machine/Entry.lean: the grid side's plain data: entries of the grid instruction queue with their
captured operands and progress (R15, R372), operand-queue entries and streams (R169 to R180), tensor maps and engine
commands (R257 to R275, R341, R342). -/

namespace Sys2Proof.Machine

/-- The mask instructions (R135). -/
inductive KOp where
  | bound | and | or | xor | andn | not | mov | pop | first | set | getl | geth | zero | one
deriving DecidableEq, Repr

/-- The five stream instructions (R174). -/
inductive SKind where
  | qld | qldt | qldff | qldx | qldz
deriving DecidableEq, Repr

/-- A stream spec that passed the checks of R173. `len` is L, `rank` the k-positions of one entry. -/
structure SSpec where
  fmt     : OFmt
  dbl     : Bool
  tview   : Bool
  tagen   : Bool
  ratio   : Nat
  len     : Nat
  steps   : Nat
  tag     : Nat
  estride : Int
  stride  : Int
deriving DecidableEq, Repr

/-- The grid loads and stores (R200). -/
inductive GlsKind where
  | ld | st | ldff | ldx | stx | stxo
deriving DecidableEq, Repr

/-- The operations of an accumulation window (R292). -/
inductive AOp where
  | addF32 | addI32 | maxF32 | minF32
deriving DecidableEq, Repr

/-- What a grid-side entry does, with every operand captured at dispatch (R15). Register and counter numbers are numbers;
`xd` 0 is x0. -/
inductive GOp where
  | win (op : WOp) (a : WinArgs)
  | kop (op : KOp) (d a b : Nat) (x y : Word)
  | wset (n : Nat) (w : Window)
  | wrd (xd : Nat) (v : Word)
  | ofill (w : Window) (km : KField) (v : Cell)
  | copy (tr : Bool) (f : CopyF)
  | gimage (rest : Bool) (half first n : Nat) (addr : Word)
  | gls (k : GlsKind) (z : Nat) (w : Window) (km : KField) (base str : Word) (wi : Option Window)
  | stream (k : SKind) (q : Nat) (addr : Word) (spec : SSpec) (idx : Word) (xd : Nat)
  | oacc (f : OaccF)
  | cinc (c : Nat) (v : Word)
  | cwait (c : Nat) (v : Word)
  | cset (c : Nat) (v : Word)
  | crd (c xd : Nat)
  | ipost (ch : Nat) (n : Word)
  | iwait (ch : Nat) (n : Word)
  | barInit (addr cnt : Word)
  | barArrive (rlx : Bool) (addr : Word) (xd : Nat)
  | barWait (addr phase : Word)
  | awin (op : AOp) (a : Nat) (base bytes : Word)
  | ascat (a : Nat) (wi wv : Window) (km : KField)
  | amerge (a : Nat)
  | arel (a : Nat)
  | slook (key : Word) (xd : Nat)
  | sins (key slot : Word) (xd : Nat)
  | sinv (key : Word)
  | xfer (c : Nat) (dst src x3 : Word)
  | xferb (kd : Nat) (w : Window) (c : Nat) (km : KField)
  | xdz (c : Nat) (dst src prm : Word)
  | dztab (c n : Nat) (addr : Word)
  | send (c : Nat) (addr : Word) (quant : Nat) (ef : Bool)
  | recv (c : Nat) (addr : Word) (add : Bool)
  | fence (kind scope : Nat)
  | seal (ptr : Word)
  | irrev (ptr : Word)
  | halt
  | gridReset
deriving DecidableEq, Repr

/-- One operand-queue entry (R170): the values of one step by position and k-offset (an absent value gives no product),
or a fault entry (R180). `ord` is the place of its stream in program order: a step takes nothing of a later stream (R190). -/
structure QEntry where
  ord   : Nat
  fmt   : OFmt
  rank  : Nat
  slots : Nat
  sstep : Nat
  fault : Option (Nat × Word)
  vals  : List (List (Option OVal))
deriving DecidableEq, Repr

/-- What stopped an entry (R372, R376): nothing, or a stop under R167; a fault by its kind (`engine` is an engine fault that a
cwait or halt delivered); a wait of R369. `port` is no stop: the entry waits at the port for an engine. -/
inductive Stop where
  | none
  | port
  | queue
  | probe
  | poison
  | engine
  | wait
  | check
  | other
deriving DecidableEq, Repr

/-- A fault of causes 0x04 to 0x07: what its record says beside the agent's place. -/
structure PFault where
  cause  : Nat
  detail : Nat
  level  : Nat
deriving DecidableEq, Repr

/-- A fault of a grid-side entry: cause, TVAL, the page fault behind it with its AGENT (R229), RESTIDX (R331), STEPPROG (R188)
and the record of a machine check (R328), with the instruction it names where that is not the entry. -/
structure GFault where
  code : Nat
  tval : Word
  page : Option (Nat × PFault) := none
  rest : Option Nat := none
  step : Option Word := none
  mc   : Option (Nat × Option Nat × Option Nat) := none
  src  : Option (BitVec 32 × Word) := none
deriving DecidableEq, Repr

/-- An entry of the GIQ, or one that has left it and has not completed (R15, R19, R372). `ord` is its place in program order, `word` what MCOP
records; `pl`
the privilege level at dispatch; `prog` the first vector, row, element or step not yet done; `fin` that its work is
complete and only its flag merge is outstanding (R84); `epc` marks, in a held block, the entry at EPC (R376). `maps` are the pages
that its probe has found, each once (R203), and `probed` says that the probe of a grid load or store is over; `pend` holds the values read that an
amerge has still to write, as (element, physical address, bytes) (R296), and of a grid load or store its first element, with the bytes of a read
that serves all of them (R201), and what follows (GridMem.lean); `since` is when it began to wait for an engine (R257) and `slot` the die of the link engine that it waits for (R343), and `why` the
fault that stopped it. -/
structure Entry where
  op   : GOp
  ord  : Nat
  pc   : Word
  word : BitVec 32
  st   : VStat
  pl   : Nat
  prog : Nat := 0
  vp   : VProg := {}
  fl   : FlagRec := {}
  hold : List QEntry := []
  stop : Stop := .none
  fin  : Bool := false
  epc  : Bool := false
  maps : List (Nat × Nat) := []
  probed : Bool := false
  pend : List (Nat × Nat × List Byte) := []
  since : Nat := 0
  slot : Nat := 0
  why  : Option GFault := none
deriving DecidableEq, Repr

/-- Has a fault stopped the entry: it does nothing more until it is executed again (R372). -/
def Entry.faulted (e : Entry) : Bool :=
  match e.stop with
  | .none | .port | .wait => false
  | .queue | .probe | .poison | .engine | .check | .other => true

/-- STOP and DRAIN of R375 under way, before a trap is taken: for an asynchronous cause, or for the fault of the entry with place
`ord` in program order. -/
inductive Drain where
  | async (code : Nat)
  | fault (ord : Nat) (f : GFault)
deriving DecidableEq, Repr

/-- An outstanding stream (R174): `next` is its next step, `parked` whether it has placed a fault entry; `seq` its place in the
order of acceptance (R274), `ord` its place in program order. Of a qldz, `dzNext` is the address of the next header, `dzPos` the
offset of its image in D, `dzLast` the address of the LAST block's header, `dzDir` the offset, the header address and, as far as the scout has read
them, header and coded bytes of the blocks, `dzFlt` the faults that it holds, by header address, and `dzImg` the offset and image of the blocks
decoded (R179, R269, R272). `lines` are the k-lines of a qldx by step, or the fault of their index, in the order read (R177). `maps` are the
pages that the probe of a qldff found (R178), `once` the values of a step that STRIDE 0 repeats (R238). `era` counts the times that the
stream parked or came back with its task, so that no answer to an access which no longer waits reaches it (R223). -/
structure Stream where
  kind   : SKind
  ord    : Nat
  seq    : Nat
  q      : Nat
  addr   : Word
  spec   : SSpec
  idx    : Word
  pc     : Word
  word   : BitVec 32
  pl     : Nat
  next   : Nat := 0
  parked : Bool := false
  dzNext : Word
  dzPos  : Nat := 0
  dzLast : Option Word := none
  dzDir  : List (Nat × Word × List Byte) := []
  dzFlt  : List (Nat × GFault) := []
  dzImg  : List (Nat × List Byte) := []
  lines  : List (Option GFault × List Int) := []
  maps   : List (Nat × Nat) := []
  once   : Option (List (List (Option OVal))) := none
  era    : Nat := 0
deriving DecidableEq, Repr

/-- A tensor map as read from its 64 bytes (R260). -/
structure TMap where
  base   : Word
  sizeM1 : List Nat
  stride : List Int
  boxM1  : List Nat
  tag    : Nat
  fixed  : Bool
  tagen  : Bool
  scope  : Nat
  transp : Bool
  swz    : Nat
  ndims  : Nat
  ty     : Nat
  fill   : Nat
  origin : List Int
deriving DecidableEq, Repr

/-- A send descriptor and the state of the command (R341, R344, R348): `placed` counts the blocks or raw flits placed, `acked`
those that the recv has acknowledged as written; `resid` says that a residual was written, `radd` that the paired recv has .add
(R350); `round` counts the pairs that it has given up (R348); `smap` and `rmap` are the pages of SRC and RES that the probe
found. -/
structure SendC where
  desc   : Word
  src    : Word
  res    : Word
  peer   : Nat
  chan   : Nat
  scope  : Nat
  stype  : Nat
  n      : Nat
  quant  : Nat
  ef     : Bool
  link   : Nat
  credit : Bool
  placed : Nat
  acked  : Nat
  sat    : Nat
  nan    : Nat
  resid  : Bool
  radd   : Bool
  round  : Nat := 0
  smap   : List (Nat × Nat)
  rmap   : List (Nat × Nat)
deriving DecidableEq, Repr

/-- A receive descriptor and the state of the command (R342, R346): `quant` and `stype` are those of the paired send, `got`
counts the elements written, `round` the pairs that it has given up, `dmap` are the pages of DST that the probe found; `pend` holds
the payloads that have arrived and are not written yet, as (first block, blocks, bytes), oldest first, and `made` counts the writes of the
oldest that are made. -/
structure RecvC where
  desc   : Word
  dst    : Word
  peer   : Nat
  chan   : Nat
  scope  : Nat
  tagen  : Bool
  dtype  : Nat
  n      : Nat
  tag    : Nat
  add    : Bool
  paired : Bool
  quant  : Nat
  stype  : Nat
  nan    : Nat
  got    : Nat
  dmap   : List (Nat × Nat)
  round  : Nat := 0
  pend   : List (Nat × Nat × List Byte) := []
  made   : Nat := 0
deriving DecidableEq, Repr

/-- What an engine command does; an xfer keeps the physical bases of the pages that its probe found (R225, R264). -/
inductive CmdOp where
  | xfer (dst src : TMap) (x3 : Word) (sm dm : List (Nat × Nat))
  | xdz (dst src prm : Word)
  | dztab (n : Nat) (addr : Word)
  | send (s : SendC)
  | recv (r : RecvC)
deriving DecidableEq, Repr

/-- The state of an accepted command (R257 to R259). -/
inductive CmdState where
  | running
  | parked (cause : Nat) (tval : Word)
  | waiting
deriving DecidableEq, Repr

/-- An accepted engine command: its number, issuing core and counter, the level and partition of its accesses, the interval
its logged writes carry (R306), and the point from which a parked one restarts (R259). `snap` holds what it has read and not yet
written, by position in processing order (R265), of a dztab its image (R274), and of an xdz, by header address, what its scout has read
(R272); `flt` the first position, or header, that it could not read; `tchd` the tag granules that it has compared
(R212); `since` is when it began to wait for an engine after a restart (R257). -/
structure Cmd where
  id    : Nat
  core  : Nat
  ctr   : Nat
  op    : CmdOp
  pc    : Word
  word  : BitVec 32
  pl    : Nat
  part  : Nat
  task  : Nat
  rin   : BitVec 32
  hold  : Bool
  state : CmdState
  next  : Nat
  dz    : Word
  snap  : List (Nat × List Byte) := []
  flt   : Option (Nat × GFault) := none
  tchd  : List Nat := []
  since : Nat := 0
deriving DecidableEq, Repr

/-- A declared accumulation window (R291, R294): its touched elements, and the lane copies keyed lane × 4096 + element
where they differ from the identity. -/
structure AWin where
  op      : AOp
  base    : Word
  bytes   : Nat
  touched : List Nat
  copies  : Sp Cell
deriving DecidableEq, Repr

/-- A completion counter (R254). -/
structure Counter where
  count : Nat
  f     : Bool
  cause : Nat
  tval  : Word
deriving DecidableEq, Repr

def Counter.init : Counter := ⟨0, false, 0, 0⟩

end Sys2Proof.Machine
end

