-- ==== Sys2Proof/Machine/State.lean ====
section
/-! DEFINITION. Sys2Proof/Machine/State.lean: the whole state of one Shelan F96 package as plain data, the state after
reset, and the reasons a step can stop.
The package is one state: its 96 cores, clusters, dies, links, launch units, partitions, memory and boot. The core that
moves next is `State.core` (its number is `State.cur`), every other core is in `State.others`; other devices and the host
are outside, and what they send arrives as events. `State.agenda` lists which core or event moves next (assumption log 1),
and the four pace flags say which agents move only by events of their own (assumption log 2). -/

namespace Sys2Proof.Machine

/-- Why a step stops the machine with a fault. -/
inductive Fault where
  /-- Raised by the trap entry when a synchronous cause arises at firmware level: the spec gives no entry for it (R27 and
  R109 end at firmware level). Safe: nothing is concluded about what Jorhin does. -/
  | firmwareTrap (cause : Nat)
deriving DecidableEq, Repr

/-- Why an instruction has no meaning. -/
inductive Refusal where
  /-- Raised by an arm of the dispatch for an instruction that is not modelled. Safe: nothing is concluded about it. -/
  | notModelled (mnemonic : String)
deriving DecidableEq, Repr

/-! ### A core -/

/-- What a core is doing (R12, R27, R113, R323, R369). -/
inductive RunState where
  /-- runs nothing: before its first dispatch, after its halt retired, after a kill -/
  | idle
  /-- fetches and issues -/
  | running
  /-- its halt marker is placed and has not retired -/
  | halting
  /-- stopped by pre-emption, at a stage of R369 -/
  | stop
  | drain
  | save
  | gone
  /-- stopped by recovery or by a partition reset (R323, R391) -/
  | halted
  /-- fenced (R329, R333) -/
  | fenced
deriving DecidableEq, Repr

/-- The registers that Jorhin's own trap entry saves (R103, R111); `blockAt` is the place in program order at which the block was taken
(R190). -/
structure FwRegs where
  pl      : Nat
  ie      : Bool
  pc      : Word
  block   : List Entry
  blockAt : Nat
deriving DecidableEq, Repr

/-- A scalar load whose data has not returned (R89), in the paced mode: its destination register, its address, width and
extension, and the length of the instruction. Issue waits for it; the pc stays at the load until the data returns. -/
structure LoadWait where
  rd  : Nat
  va  : Word
  pa  : Nat
  n   : Nat
  sgn : Bool
  len : Nat
deriving DecidableEq, Repr

/-- A scalar store that is issued and not yet performed, in the paced mode (R237): its physical address, its bytes and its writer's
partition, interval and hold; `ord` is the place in program order of the next GIQ entry (R241). The interval is that of the issue for a
member core; a store of any other core takes the entry interval when it is performed (R306). -/
structure StoreWait where
  ord   : Nat
  pa    : Nat
  bytes : List Byte
  part  : Nat
  rin   : Option (BitVec 32)
  hold  : Bool
deriving DecidableEq, Repr

/-- What the scalar side of an old task holds that a run-ahead task begins afresh (R26): its windows, its declared accumulation windows,
the scalar fields of FLAGS and its timer. It comes back when the run-ahead task is discarded. -/
structure OldFront where
  wins    : Vector (Option Window) 8
  awdecl  : List Nat
  flags   : Word
  timecmp : Word
deriving DecidableEq, Repr

/-- One core (R8): scalar side, CSRs, grid side. `prev` is the task whose halt has not retired while a run-ahead task
already runs on the scalar side (R26), and `front` what that task's scalar side held; `sbuf` holds its scalar stores not yet performed, oldest first; `older` holds, in
the paced mode, for each write of its own grid side and engine commands, oldest first, the bytes that it replaced and that a scalar load of it
may still return (R246, R415); `wfi` says that a wfi stalls issue (R112), `drn` that the core drains before a trap (R375);
`openN`, `now` and `sealPtr` are the recovery state of R305 and R314; `blkAt` is the place in program order at which the held block `blk` was
taken (R190); `lastMc` are the addresses of machine checks whose instruction has not retired since (R329); `fetched` names, by its address and INSTRET, the
instruction whose bytes have been fetched and counted and which may still wait to issue (R384); `era` counts the times that the scalar side was
cut off by a trap or a pre-emption, so that no answer to an access which no longer waits reaches it (R223). -/
structure Core where
  regs     : Vector Word 32
  pc       : Word
  status   : Word
  flags    : Word
  eidxNv   : Word
  eidxDz   : Word
  eidxOf   : Word
  eidxUf   : Word
  eidxSat  : Word
  ffi      : Word
  restidx  : Word
  stepprog : Word
  rowprog  : Word
  tvec     : Word
  epc      : Word
  spc      : Word
  cause    : Word
  tval     : Word
  tscr     : Word
  mckind   : Word
  mclane   : Word
  mcrow    : Word
  mcop     : Word
  mcpc     : Word
  rin      : Word
  cycle    : Word
  instret  : Word
  timecmp  : Word
  fw       : FwRegs
  preReq   : Bool
  sealReq  : Bool
  msgReq   : Bool
  run      : RunState
  task     : Option Nat
  prev     : Option Nat
  front    : Option OldFront
  resv     : Option (Nat × Nat)
  load     : Option LoadWait
  sbuf     : List StoreWait
  older    : List (List (Nat × Byte))
  wfi      : Bool
  drn      : Option Drain
  grid     : Grid
  masks    : Masks
  wins     : Vector (Option Window) 8
  awdecl   : List Nat
  awins    : Vector (Option AWin) 4
  giq      : List Entry
  flight   : List Entry
  blk      : List Entry
  blkAt    : Nat
  queues   : Vector (List QEntry) 8
  streams  : List Stream
  ctrs     : Vector Counter 32
  openN    : Nat
  now      : Bool
  sealPtr  : Option Word
  spares   : List Nat
  replays  : Nat
  lastMc   : List Word
  frame    : Option Nat
  fetched  : Option (Word × Word)
  era      : Nat
deriving DecidableEq, Repr

/-- A core right after reset: idle, STATUS.PL 2 (R102), every other field zero or empty. -/
def Core.init : Core :=
  { regs := Vector.replicate 32 0, pc := 0, status := 2, flags := 0,
    eidxNv := 0, eidxDz := 0, eidxOf := 0, eidxUf := 0, eidxSat := 0,
    ffi := 0, restidx := 0, stepprog := 0, rowprog := 0, tvec := 0, epc := 0, spc := 0, cause := 0, tval := 0,
    tscr := 0, mckind := 0, mclane := 0, mcrow := 0, mcop := 0, mcpc := 0, rin := 0, cycle := 0, instret := 0,
    timecmp := 0, fw := ⟨0, false, 0, [], 0⟩, preReq := false, sealReq := false, msgReq := false,
    run := .idle, task := none, prev := none, front := none, resv := none, load := none, sbuf := [], older := [],
    wfi := false, drn := none, grid := [], masks := Vector.replicate 24 0, wins := Vector.replicate 8 none,
    awdecl := [], awins := Vector.replicate 4 none,
    giq := [], flight := [], blk := [], blkAt := 0, queues := Vector.replicate 8 [], streams := [],
    ctrs := Vector.replicate 32 Counter.init,
    openN := 0, now := false, sealPtr := none, spares := [], replays := 0, lastMc := [], frame := none, fetched := none, era := 0 }

/-! ### Tasks and what a reservation grants -/

/-- A barrier object (R285). -/
structure BarObj where
  init  : Bool
  n     : Nat
  a     : Nat
  e     : Nat
  scope : Nat
deriving DecidableEq, Repr

def BarObj.empty : BarObj := ⟨false, 0, 0, 0, 0⟩

/-- An iteration-ring channel (R276): `h` is H and `posted` the posted set P. -/
structure Chan where
  h      : Int
  posted : List Int
deriving DecidableEq, Repr

def Chan.init : Chan := ⟨-1, []⟩

/-- The grid-side state of a pre-empted core that the spec keeps in an internal layout (R371): queue entries, unfinished
streams, the GIQ block, accumulation windows. -/
structure SavedCore where
  core    : Nat
  queues  : Vector (List QEntry) 8
  streams : List Stream
  block   : List Entry
  held    : List Entry
  heldAt  : Nat
  fw      : FwRegs
  awins   : Vector (Option AWin) 4
  awdecl  : List Nat
  openN   : Nat
  now     : Bool
  sealPtr : Option Word
  rin     : BitVec 32
  ctrs    : Vector Counter 32
deriving DecidableEq, Repr

/-- One tag-table entry (R208). -/
structure TagEnt where
  cluster : Nat
  task    : Nat
  key     : Word
  slot    : Nat
deriving DecidableEq, Repr

/-- The cluster state of a pre-empted task that the class-0 record displaced (R370): the ranges of its reservation and of its
lane copies with the bytes, sequence tags and poison by offset in the reservation, and its tag-table entries. -/
structure SavedSpad where
  cluster : Nat
  off     : Nat
  size    : Nat
  copies  : List (Nat × Nat)
  bytes   : Sp Byte
  tags    : Sp Nat
  pois    : Sp Bool
deriving DecidableEq, Repr

/-- Where a task stands (R361, R369, R374): its reservation granted and its cores not yet loaded, running, being pre-empted (with
the clusters whose scratchpad is saved, R370), or pre-empted. -/
inductive TaskState where
  | granted
  | running
  | preempting (save : List Nat)
  | preempted
deriving DecidableEq, Repr

/-- The held value of every field of a queue (R357). -/
structure RecFields where
  entry  : Word
  place  : BitVec 128
  argp   : Word
  args   : List Word
  spad   : Word
  cls    : Word
  waits  : List (Word × Word)
  done   : Word
  sync   : Word
  resume : Word
deriving DecidableEq, Repr

def RecFields.zero : RecFields :=
  ⟨0, 0, 0, List.replicate 8 0, 0, 0, List.replicate 4 (0, 0), 0, 0, 0⟩

/-- One dispatched task (R10, R11, R357, R364 to R366). `order` is the step in which its record arrived at the launch unit, and of a
pre-empted task `entered` is its place among what waits in RESERVE and `aged` says that it has waited there over 100 µs (R364, R374); `cores` lists its package cores in rank order; `resv` its
scratchpad reservations as (cluster, offset, size), `copies` the ranges of its lane copies (R291); `recAt` is the HEAD value
of its record in its queue's `epoch`, and `recd` that record's values (R26, R366); `bars` its barrier objects, cluster objects keyed cluster × 64 + index
and memory-side ones 2048 + die × 64 + index; `chans` its ring channels keyed die × 8 + channel; `tables` its code tables
keyed cluster × 4 + id (an unlisted one is invalid); `pend` and `ptrs` the resume pointers of seals not yet and last
committed, as (interval, rank, pointer); `frames` the context frames it holds, by a core's number, 1000 + a cluster's or 2000 + a
die's (R371). -/
structure Task where
  id      : Nat
  part    : Nat
  queue   : Nat
  recAt   : Nat
  epoch   : Nat
  recd    : RecFields
  order   : Nat
  entered : Nat
  aged    : Bool
  cls     : Nat
  preempt : Bool
  runahd  : Bool
  member  : Bool
  place   : Nat
  cores   : List Nat
  entry   : Word
  argp    : Word
  args    : List Word
  spad    : Nat
  nb      : Nat
  nw      : Nat
  done    : Word
  resume  : Word
  waits   : List (Word × Word)
  resv    : List (Nat × Nat × Nat)
  copies  : List (Nat × Nat × Nat)
  bars    : Sp BarObj
  chans   : Sp Chan
  tables  : Sp (List Nat)
  halted  : List Nat
  state   : TaskState
  saved   : List SavedCore
  spads   : List (SavedSpad × List TagEnt)
  frames  : List (Nat × Nat)
  cycles  : Nat
  pend    : List (Nat × Nat × Word)
  ptrs    : List (Nat × Word)
deriving DecidableEq, Repr

/-! ### Launch queues and partitions -/

/-- The head state of a queue's first record (R361, R362, R364): for each wait-for entry 0 not satisfied, 1 satisfied or 2 never
satisfied (its read faulted); for RESERVE its place among the records that wait there and whether it has waited over 100 µs.
DISPATCH is a task in state `granted`. -/
inductive HeadState where
  | fetch
  | wait (sat : List Nat)
  | reserve (ord : Nat) (aged : Bool)
deriving DecidableEq, Repr

/-- A record, or the fetch of one, that a queue had reached when the record of a withdrawn task came back to its head (R26): the held
values, the HEAD value at which the record begins, and its head state. -/
structure HeadRec where
  held  : RecFields
  start : Word
  hs    : HeadState
deriving DecidableEq, Repr

/-- A launch queue (R352, R353): the descriptor, the held values and the head record. `start` is the HEAD value at which the record in WAIT
or RESERVE begins, `behind` what follows a head record that came back to the queue (R26), and `pubs` lists the values written to TAIL, each with the step in which it published its records (R374); `epoch`
counts the times that the queue was enabled. -/
structure LQueue where
  qbase  : Word
  en     : Bool
  state  : Nat
  fcause : Nat
  log2sz : Nat
  head   : Word
  tail   : Word
  faddr  : Word
  ndisp  : Word
  first  : Bool
  held   : RecFields
  hs     : HeadState
  start  : Word
  behind : List HeadRec
  pubs   : List (Word × Nat)
  epoch  : Nat
deriving DecidableEq, Repr

def LQueue.init : LQueue :=
  ⟨0, false, 0, 0, 0, 0, 0, 0, 0, false, RecFields.zero, .fetch, 0, [], [], 0⟩

/-- A walk in flight in host-assisted mode, or one that waits for a walk of its cluster's walker (R221, R222): the first access that
missed, the accesses merged into it as (core, task, AGENT + 16 × the number that tells an agent's accesses apart), the tag of its duty request once that is open, and whether an
invalidation has overtaken it (R227). -/
structure WalkReq where
  cluster : Nat
  part    : Nat
  va      : Word
  acc     : Nat
  agent   : Nat
  task    : Nat
  by_     : List (Nat × Nat × Nat)
  tag     : Option Nat
  stale   : Bool
deriving DecidableEq, Repr

/-- A duty request open with the host (R389). -/
structure DutyReq where
  tag   : Nat
  kind  : Nat
  va    : Word
  acc   : Nat
  queue : Nat
deriving DecidableEq, Repr

/-- A walk that the host answered with no translation, for the accesses that waited on it (R222, R223). -/
structure WalkAns where
  cluster : Nat
  unit    : Nat
  by_     : List (Nat × Nat × Nat)
deriving DecidableEq, Repr

/-- An open fault record for merging (R229). -/
structure FaultOpen where
  n     : Nat
  cause : Nat
  agent : Nat
  unit  : Nat
  die   : Nat
  count : Nat
deriving DecidableEq, Repr

/-- The stage of a partition reset (R391). -/
inductive ResetStage where
  | none
  | quiesce
  | drain
  | flush
  | scrub
deriving DecidableEq, Repr

/-- One partition: its translation control block (R226; `invrun` is the address from which the invalidation in progress was started, `invdrop` the pages that it dropped from a buffer, as address
and size in bits, and `invwait` holds the management writes of INVCTL that wait for BUSY to clear, as mask and value, R227), launch area (R352, R355) and partition control block (R380). -/
structure Partition where
  ptroot    : Word
  ha        : Bool
  haNext    : Bool
  frbase    : Word
  frctl     : Word
  frtail    : Nat
  frhead    : Nat
  frOpen    : List FaultOpen
  invva     : Word
  invbusy   : Bool
  invpages  : Nat
  invrun    : Word
  invdrop   : List (Nat × Nat)
  invseq    : Word
  invwait   : List (Word × Word)
  queues    : Vector LQueue 8
  ctxbase   : Word
  ctxsize   : Word
  rtvec     : Word
  pstate    : Nat
  clusters  : Nat
  grantbase : Word
  schedw    : Nat
  linkw     : Nat
  hbmw      : Nat
  stallms   : Nat
  holdkib   : Nat
  logmib    : Nat
  mcha      : Bool
  placeha   : Bool
  dutybase  : Word
  dutyctl   : Word
  dutytail  : Nat
  dutyhead  : Nat
  anstag    : Nat
  ansval    : Word
  duties    : List DutyReq
  answers   : List WalkAns
  placeAns  : List (Nat × Nat)
  nextTag   : Nat
  tenant    : Nat
  meters    : Vector Word 10
  release   : Bool
  stage     : ResetStage
  msgin     : List Byte
  msgout    : List Byte
  msgbell   : Word
  lstall    : Bool
deriving DecidableEq, Repr

/-- A partition after reset: zero but for the weights and the stall limit (R380). -/
def Partition.init : Partition :=
  { ptroot := 0, ha := false, haNext := false, frbase := 0, frctl := 0, frtail := 0, frhead := 0, frOpen := [],
    invva := 0, invbusy := false, invpages := 0, invrun := 0, invdrop := [], invseq := 0, invwait := [], queues := Vector.replicate 8 LQueue.init,
    ctxbase := 0, ctxsize := 0, rtvec := 0, pstate := 0, clusters := 0, grantbase := 0, schedw := 1, linkw := 1,
    hbmw := 1, stallms := 100, holdkib := 0, logmib := 0, mcha := false, placeha := false, dutybase := 0,
    dutyctl := 0, dutytail := 0, dutyhead := 0, anstag := 0, ansval := 0, duties := [], answers := [],
    placeAns := [], nextTag := 0, tenant := 0, meters := Vector.replicate 10 0, release := false, stage := .none,
    msgin := List.replicate 64 0, msgout := List.replicate 64 0, msgbell := 0, lstall := false }

/-! ### Translation, recovery, links, boot -/

/-- A held translation of one buffer: a leaf with its page size, tagged with its partition (R221). Stream TLB n of core c is buffer
20c + n, its probe bank b is 20c + 4 + b, and the TLB of cluster q is 1,920 + q. -/
structure TlbEnt where
  buf  : Nat
  part : Nat
  va   : Nat
  log2 : Nat
  leaf : Word
deriving DecidableEq, Repr

/-- An undo-log record (R307): the header's PART, LINE, P, RIN and CRC, and the old bytes; `bad` is the poison of the record itself
(R331). The log lies where no page table reaches it, so the records are no part of `State.mem` (assumption log 53). -/
structure UndoRec where
  part : Nat
  line : Nat
  pois : Bool
  rin  : BitVec 32
  crc  : BitVec 32
  old  : List Byte
  bad  : Bool
deriving DecidableEq, Repr

/-- A held store to host memory (R320). -/
structure HeldStore where
  die   : Nat
  part  : Nat
  rin   : BitVec 32
  pa    : Nat
  bytes : List Byte
deriving DecidableEq, Repr

/-- The states of a device in a rollback (R323). -/
inductive RecState where
  | run
  | fault
  | stop
  | restore
  | clean
  | reported
deriving DecidableEq, Repr

/-- The recovery domain as this device knows it (R301, R315 to R317, R323): the meridian's records of ARRIVE (device,
interval, S) and DONE and the last COMMIT it broadcast, each die's arrivals, the intervals sealed by a core here, and the dies
already restored. -/
structure Domain where
  members  : List Nat
  datum    : BitVec 32
  state    : RecState
  target   : BitVec 32
  restored : List Nat
  dieArr   : List (Nat × BitVec 32)
  arrived  : List (Nat × BitVec 32 × Bool)
  dones    : List Nat
  bcast    : BitVec 32
  sealed   : List (BitVec 32)
deriving DecidableEq, Repr

/-- A payload flit in a replay buffer (R335, R336): the command and which of its pairs it belongs to, its first block, its blocks and
its payload bytes. -/
structure Flit where
  seq   : Nat
  cmd   : Nat
  round : Nat
  blk   : Nat
  nblk  : Nat
  bytes : List Byte
deriving DecidableEq, Repr

/-- A device link (R336, R338): `buf` is the replay buffer, `row` counts the consecutive replays of flit `rowSeq`. -/
structure Link where
  state    : Nat
  peer     : Nat
  replays  : Nat
  retrains : Nat
  txSeq    : Nat
  rxSeq    : Nat
  buf      : List Flit
  row      : Nat
  rowSeq   : Nat
deriving DecidableEq, Repr

def Link.init : Link := ⟨0, 0, 0, 0, 0, 0, [], 0, 0⟩

/-- A message that this package sends to another device or to the meridian (R315, R316, R323, R339, R349, R284). -/
inductive NetMsg where
  | arrive (n : BitVec 32) (s : Bool)
  | commit (n : BitVec 32)
  | rollback (d : BitVec 32)
  | done
  | resume
  | domainFault (cause : Nat)
  | credit (id part tenant chan kind n : Nat)
  | offer (id part tenant chan kind n : Nat)
  | cancel (id : Nat)
  | ack (link seq : Nat)
  | replay (link seq : Nat)
  | flit (link : Nat) (f : Flit)
  | written (id n : Nat)
  | barAns (id cause : Nat) (value : Word)
  | barrier (id part tenant : Nat) (addr : Word) (op : BarOp)
  | irrev (n : BitVec 32)
deriving DecidableEq, Repr

/-- A capability of the SPDM responder (R397). -/
inductive SpdmCap where
  | cert
  | chal
  | measSig
  | keyEx
  | mac
  | encrypt
  | hbeat
  | keyUpd
deriving DecidableEq, Repr

/-- An algorithm of the SPDM responder, for its use in R397's table. -/
inductive SpdmAlg where
  | hashSm3
  | measHashSm3
  | signSm2
  | kexSm2
  | aeadSm4Gcm
deriving DecidableEq, Repr

/-- A report to the host: a vector with what it names (R354, R367, R386, R389, R390), a relaunch report (R325), or an SPDM
answer (R397), with what it names. -/
inductive HostMsg where
  | vector (v : Nat)
  | queueFault (part queue fcause : Nat) (faddr : Word)
  | killed (part task : Nat)
  | relaunch (task part place : Nat) (ptrs : List (Nat × Word))
  | rtFault (part task cause : Nat) (epc spc tval : Word)
  | arrive (n : BitVec 32) (s : Bool)
  | memRead (bytes : List Byte)
  | spdm (code : Nat) (body : List Byte)
  | spdmCaps (caps : List SpdmCap)
  | spdmAlgs (algs : List SpdmAlg)
deriving DecidableEq, Repr

/-- Boot (R395, R396, R398): the measurements 1 to 7, the stage at which boot stopped (0 success), and the identity key and the alias key,
the second empty while none was derived. -/
structure Boot where
  booted : Bool
  status : Nat
  meas   : List (List Byte)
  idKey  : List Byte
  akey   : List Byte
deriving DecidableEq, Repr

/-- The SPDM responder (R397): how far the connection is negotiated (0 nothing, 1 version, 2 capabilities, 3 algorithms)
and the open sessions with whether each is established. -/
structure Spdm where
  phase    : Nat
  sessions : List (Nat × Bool)
  nextSid  : Nat
deriving DecidableEq, Repr

/-- A notice to a task that is never pre-empted (R105, R368): the class-0 record that causes it, by its queue, the place of that
queue's enabling and the address of the record. -/
structure Notice where
  task  : Nat
  part  : Nat
  queue : Nat
  epoch : Nat
  recAt : Nat
deriving DecidableEq, Repr

/-- The whole package. `rrXfer`, `rrDec` and `rrLoad` hold the core in its cluster that received the last engine of a kind, by cluster, and
`rrLink` the package core that received the last slot of a link engine, keyed die × 2 and one more for recvs (R257, R343); `coreTime` holds the core-active cycles since the last millisecond and `energy` the remainders of R384, keyed
partition × 4 + die; `deficit` the deficits of R363, keyed partition × 4 + class; `logGib` is the size of the undo log that
management has chosen, in GiB (R307); `rwaits` the waits of other devices at barrier objects here whose
phase has not passed, as (number, task, object, phase) (R287); `upsets` the outcomes of the residue checks of the
scalar instructions to come, each of which passes when none is listed (R326; assumption log 51). -/
structure State where
  core     : Core
  cur      : Nat
  others   : Sp Core
  agenda   : List (Nat × Option Instr)
  lagLoads : Bool
  lagStores : Bool
  lagGrid  : Bool
  lagEng   : Bool
  upsets   : List Check
  ticks    : Nat
  free     : Nat
  time     : Word
  devid    : Nat
  mem      : List Host.Cell
  poison   : Sp Bool
  seqtags  : Sp Nat
  tlb      : List TlbEnt
  walks    : List WalkReq
  tasks    : List Task
  tagtab   : List TagEnt
  rwaits   : List (Nat × Nat × Nat × Word)
  cmds     : List Cmd
  nextCmd  : Nat
  notices  : List Notice
  rrXfer   : Sp Nat
  rrDec    : Sp Nat
  rrLoad   : Sp Nat
  rrLink   : Sp Nat
  parts    : Vector Partition 16
  deficit  : Sp Int
  coreTime : Sp Nat
  energy   : Sp Rat
  lastPart : Sp Nat
  lastQue  : Sp Nat
  nextTask : Nat
  logGib   : Nat
  undo     : List UndoRec
  held     : List HeldStore
  dom      : Domain
  deadDies : List Nat
  badUnits : List (Nat × Nat)
  links    : Vector Link 12
  routes   : Sp Nat
  devctl   : Word
  hdmBase  : Nat
  boot     : Boot
  spdm     : Spdm
  host     : List HostMsg
  net      : List NetMsg
deriving DecidableEq, Repr

/-- The machine right after reset: every core idle at firmware level, every register the spec gives a reset value at that
value, memory with nothing listed, no partition, no task, no link up. The values the spec does not give are those of
assumption logs 3 and 4. -/
def State.reset : State :=
  { core := Core.init, cur := 0, others := [], agenda := [],
    lagLoads := false, lagStores := false, lagGrid := false, lagEng := false, upsets := [],
    ticks := 0, free := 0, time := 0, devid := 0, mem := [], poison := [], seqtags := [], tlb := [], walks := [],
    tasks := [], tagtab := [], rwaits := [], cmds := [], nextCmd := 0, notices := [], rrXfer := [], rrDec := [], rrLoad := [], rrLink := [],
    parts := Vector.replicate 16 Partition.init, deficit := [], coreTime := [], energy := [], lastPart := [], lastQue := [], nextTask := 1,
    logGib := 32, undo := [], held := [],
    dom := { members := [0], datum := 0, state := .run, target := 0, restored := [], dieArr := [],
             arrived := [], dones := [], bcast := 0, sealed := [] },
    deadDies := [], badUnits := [], links := Vector.replicate 12 Link.init, routes := [],
    devctl := 0, hdmBase := 0, boot := ⟨false, 0, [], [], []⟩, spdm := ⟨0, [], 1⟩, host := [], net := [] }

end Sys2Proof.Machine
end

