-- ==== Sys2Proof/Machine/Ops.lean ====
section
/-! DEFINITION. Sys2Proof/Machine/Ops.lean: the named operations over registers, time, partitions, intervals and memory,
and taking a trap and returning from one. Every instruction of the scalar side and every agent goes through them. -/

namespace Sys2Proof.Machine

/-- The outcome of a step of this machine. -/
abbrev Out := Host.Outcome State Fault Refusal

/-! ### Registers of the core that moves -/

/-- The value of an x register: x0 reads as zero (R85). -/
def Core.getReg (c : Core) (n : Nat) : Word := if n = 0 then 0 else c.regs.getD n 0

/-- Write an x register: a write to x0 is discarded (R85). -/
def Core.setReg (c : Core) (n : Nat) (v : Word) : Core :=
  if n = 0 then c else { c with regs := c.regs.setIfInBounds n v }

/-- The task of a core's grid side: the old task until its halt has retired (R26). -/
def Core.gridTaskId (c : Core) : Nat := match c.prev with | some t => t | none => c.task.getD 0

/-- Has a run-ahead task still its grid-reset entry to come (R26). -/
def Core.resetting (c : Core) : Bool := (c.flight ++ c.giq).any fun e => !e.fin && e.op == .gridReset

/-- The task whose part on the core is under way (R12, R26): the old one until its halt has retired, a run-ahead one from its grid reset
on, and none between them. -/
def Core.holder (c : Core) : Option Nat :=
  match c.prev with
  | some t => some t
  | none => if c.resetting then none else c.task

namespace State

def updCore (s : State) (f : Core → Core) : State := { s with core := f s.core }

def reg (s : State) (r : Reg) : Word := s.core.getReg r.toNat

def setReg (s : State) (r : Reg) (v : Word) : State := s.updCore fun c => c.setReg r.toNat v

/-- The privilege level: 0 task, 1 runtime, 2 firmware (R102). -/
def pl (s : State) : Nat := fieldNat s.core.status 0 2

def setPc (s : State) (v : Word) : State := s.updCore fun c => { c with pc := v }

/-- An instruction that completes counts in INSTRET (R107). -/
def retire (s : State) : State := s.updCore fun c => { c with instret := c.instret + 1 }

/-- Complete an instruction of `len` bytes and move past it. A machine check at its address is no longer the latest one since it
last retired (R329). -/
def advance (s : State) (len : Nat) : State :=
  s.updCore fun c => { c with pc := c.pc + BitVec.ofNat 64 len, instret := c.instret + 1
                              lastMc := c.lastMc.filter (· != c.pc) }

/-! ### Cores, tasks and partitions -/

/-- The core with a package number (R9). -/
def getCore (s : State) (n : Nat) : Core := if n = s.cur then s.core else Sp.get Core.init s.others n

def setCore (s : State) (n : Nat) (c : Core) : State :=
  if n = s.cur then { s with core := c } else { s with others := Sp.put Core.init s.others n c }

def modCore (s : State) (n : Nat) (f : Core → Core) : State := s.setCore n (f (s.getCore n))

/-- Make core `n` the one that moves. -/
def switchTo (s : State) (n : Nat) : State :=
  if n = s.cur then s
  else { s with core := Sp.get Core.init s.others n, cur := n,
                others := Sp.put Core.init (Sp.put Core.init s.others s.cur s.core) n Core.init }

/-- Apply a change to each of some cores. -/
def modCores (s : State) (ns : List Nat) (f : Nat → Core → Core) : State :=
  ns.foldl (fun s n => s.modCore n (f n)) s

/-- The 96 package core numbers (R9). -/
def allCores : List Nat := List.range 96

def coreDie (n : Nat) : Nat := n / 24
def coreCluster (n : Nat) : Nat := n / 4

def findTask (s : State) (id : Nat) : Option Task := s.tasks.find? fun t => t.id == id

/-- The task that a core runs. -/
def coreTask (s : State) (n : Nat) : Option Task := (s.getCore n).task.bind s.findTask

def curTask (s : State) : Option Task := s.core.task.bind s.findTask

def gridTask (s : State) : Option Task := s.findTask s.core.gridTaskId

def modTask (s : State) (id : Nat) (f : Task → Task) : State :=
  { s with tasks := s.tasks.map fun t => if t.id == id then f t else t }

def getPart (s : State) (p : Nat) : Partition := s.parts.getD p Partition.init

def modPart (s : State) (p : Nat) (f : Partition → Partition) : State :=
  { s with parts := s.parts.setIfInBounds p (f (s.getPart p)) }

/-- The partition of the running task (R107); partition 0 on a core that runs none (assumption log 12). -/
def part (s : State) : Nat := match s.curTask with | some t => t.part | none => 0

/-- The next fresh value of the free-value counter. -/
def tickFree (s : State) : State := { s with free := s.free + 1 }

/-- Report to the host. -/
def tell (s : State) (m : HostMsg) : State := { s with host := s.host ++ [m] }

/-- Send to another device. -/
def sendMsg (s : State) (m : NetMsg) : State := { s with net := s.net ++ [m] }

/-! ### Time and meters (R107, R108, R384) -/

end State

/-- Clock cycles that the first `n` steps took. -/
def cycleSum : Nat → Nat
  | 0 => 0
  | n + 1 => cycleSum n + Config.elapsed n

/-- Ticks of TIME that the first `n` steps took. -/
def timeSum : Nat → Nat
  | 0 => 0
  | n + 1 => timeSum n + Config.timeElapsed n

namespace State

/-- CYCLE as it reads (R107). -/
def cycleNow (s : State) : Word := s.core.cycle + BitVec.ofNat 64 (cycleSum s.ticks)

/-- TIME as it reads (R107). -/
def timeNow (s : State) : Word := s.time + BitVec.ofNat 64 (timeSum s.ticks)

/-- Add to a meter of a partition (R384). -/
def meter (s : State) (p k n : Nat) : State :=
  s.modPart p fun x => { x with meters := x.meters.setIfInBounds k (x.meters.getD k 0 + BitVec.ofNat 64 n) }

/-- The cores of a task that count as active (R384): dispatched and not halted, until GONE. While a run-ahead task waits behind the old
one on a core, the core counts for the old one (assumption log 10). -/
def activeCores (s : State) (t : Task) : List Nat :=
  match t.state with
  | .granted | .preempted => []
  | .running | .preempting _ => t.cores.filter fun n =>
      let c := s.getCore n
      !t.halted.contains n && c.run != .gone && !(c.prev.isSome && c.task == some t.id)

/-- Count `dt` cycles of a task's active cores: in meter 0 and by die (R384). -/
def countActive (dt : Nat) (s : State) (t : Task) : State :=
  let ns := s.activeCores t
  let add (m : Sp Nat) (n : Nat) : Sp Nat := Sp.put 0 m (t.part * 4 + n / 24) (Sp.get 0 m (t.part * 4 + n / 24) + dt)
  { s with coreTime := ns.foldl add s.coreTime }.meter t.part 0 (ns.length * dt)

/-- A step's time passes: CYCLE and TIME advance, and core-active cycles are counted (R107, R384). -/
def tick (s : State) : State :=
  let dt := Config.elapsed s.ticks
  let s1 := s.tasks.foldl (countActive dt) s
  { s1 with ticks := s.ticks + 1
            tasks := s.tasks.map fun t => { t with cycles := t.cycles + (s.activeCores t).length * dt } }

/-! ### Intervals (R302, R303) -/

end State

/-- a is later than b (R302). -/
def later (a b : BitVec 32) : Bool := decide (1 ≤ (a - b).toNat) && decide ((a - b).toNat < 2 ^ 31)

namespace State

/-- Does a core run a member task (R301). Its part ends when its halt retires (R12), and a run-ahead task's begins at its grid reset
(R26). -/
def memberCore (s : State) (n : Nat) : Bool :=
  match (s.getCore n).holder.bind s.findTask with | some t => t.member && !t.halted.contains n | none => false

def rinOf (c : Core) : BitVec 32 := bits c.rin 0 32

/-- The device's entry interval: the latest RIN of a member core, or DATUM + 1 (R303). -/
def entryInterval (s : State) : BitVec 32 :=
  let rs := (s.tasks.filter fun t => t.member && t.state != .preempted).flatMap fun t =>
    (t.cores.filter fun n => (s.getCore n).holder == some t.id && !t.halted.contains n).map fun n => rinOf (s.getCore n)
  match rs with
  | [] => s.dom.datum + 1
  | r :: rest => rest.foldl (fun a b => if later b a then b else a) r

/-! ### The physical map (R213) -/

end State

/-- What a physical address names. -/
inductive Region where
  | hbm
  | tier2
  | spad
  | dev
  | host
  | absent
deriving DecidableEq, Repr

def hbmBytes : Nat := 0x80_0000_0000
def tierBase : Nat := 0x1000_0000_0000
def tierPort : Nat := 0x00C0_0000_0000
def spadBase : Nat := 0x2000_0000_0000
def spadBytes : Nat := 0x200_0000
def devBase : Nat := 0x3000_0000_0000
def hostBase : Nat := 0x8000_0000_0000
def apertureBase : Nat := 0x000F_0000_0000_0000

namespace State

/-- Is second-tier port `d` populated (R388). -/
def portPopulated (s : State) (d : Nat) : Bool := s.devctl.getLsbD (60 + d)

/-- The region of a physical address; an unpopulated address is `absent` (R213). -/
def region (s : State) (pa : Nat) : Region :=
  if pa < hbmBytes then .hbm
  else if tierBase ≤ pa && pa < tierBase + 4 * tierPort then
    if s.portPopulated ((pa - tierBase) / tierPort) then .tier2 else .absent
  else if spadBase ≤ pa && pa < spadBase + 24 * spadBytes then .spad
  else if devBase ≤ pa && pa < devBase + 2 ^ 32 then .dev
  else if hostBase ≤ pa && pa < 2 ^ 48 then .host
  else .absent

/-- The die whose memory holds a physical address; the die of the core that moves for device registers and the host. -/
def dieOf (s : State) (pa : Nat) : Nat :=
  match s.region pa with
  | .hbm => pa / 2 ^ 37
  | .tier2 => (pa - tierBase) / tierPort
  | .spad => (pa - spadBase) / spadBytes / 6
  | .dev | .host | .absent => coreDie s.cur

/-- Is a physical address in memory that is logged (R306). -/
def logged (s : State) (pa : Nat) : Bool :=
  match s.region pa with
  | .hbm | .tier2 => true
  | .spad | .dev | .host | .absent => false

/-- Does the address lie in memory of a die that is fenced (R333). -/
def lost (s : State) (pa : Nat) : Bool :=
  match s.region pa with
  | .hbm | .tier2 | .spad => s.deadDies.contains (s.dieOf pa)
  | .dev | .host | .absent => false

/-! ### Memory -/

/-- The value of a byte in the held stores: the last one that covers it (R320). -/
def heldByte (s : State) (pa : Nat) : Option Byte :=
  s.held.foldl (fun acc h => if h.pa ≤ pa && pa < h.pa + h.bytes.length then h.bytes[pa - h.pa]? else acc) none

/-- A byte of memory as an agent of the package reads it: an unlisted byte reads as zero (assumption log 4). -/
def byteAt (s : State) (pa : Nat) : Byte := (s.heldByte pa).getD (Sp.get 0 s.mem pa)

def readBytes (s : State) (pa n : Nat) : List Byte := (List.range n).map fun i => s.byteAt (pa + i)

/-- The little-endian value of `n` bytes (R4). -/
def readNat (s : State) (pa n : Nat) : Nat := fromLE (s.readBytes pa n)

end State

/-- Write bytes into a memory list. -/
def pokeBytes (m : Sp Byte) (pa : Nat) : List Byte → Sp Byte
  | [] => m
  | b :: bs => pokeBytes (Sp.put 0 m pa b) (pa + 1) bs

/-- The aligned units of `u` bytes that a range touches, as their first addresses. -/
def unitsOf (u pa n : Nat) : List Nat :=
  if n = 0 then [] else (List.range ((pa + n - 1) / u - pa / u + 1)).map fun i => (pa / u + i) * u

/-- The unit that poison marks (R331): a 256-byte line, or a 64-byte scratchpad granule. -/
def poisonUnit (r : Region) : Nat := match r with | .spad => 64 | _ => 256

/-- Who writes: partition, interval, and whether writes to host memory are held (R306, R319). `behind` is the core whose scalar side the
write is not ordered before, that of a grid-side or engine write (R237, R247). -/
structure Wr where
  part   : Nat
  rin    : BitVec 32
  hold   : Bool
  die    : Nat
  behind : Option Nat
deriving DecidableEq, Repr

namespace State

/-- The writer of the core that moves (R306, R319). -/
def writer (s : State) : Wr :=
  if s.memberCore s.cur then ⟨s.part, rinOf s.core, !s.core.now, coreDie s.cur, none⟩
  else ⟨s.part, s.entryInterval, false, coreDie s.cur, none⟩

/-- The writer of the grid side of the core that moves: of the old task until its halt has retired (R26). -/
def gridWriter (s : State) : Wr :=
  if (match s.gridTask with | some t => t.member | none => false) then
    ⟨s.part, rinOf s.core, !s.core.now, coreDie s.cur, some s.cur⟩
  else ⟨s.part, s.entryInterval, false, coreDie s.cur, some s.cur⟩

/-- The poison mark of an address, or the memory of a fenced die (R331, R333). -/
def poisoned (s : State) (pa : Nat) : Bool :=
  s.lost pa || (match s.region pa with
    | .hbm | .tier2 | .spad => Sp.get false s.poison (pa / poisonUnit (s.region pa) * poisonUnit (s.region pa))
    | .dev | .host | .absent => false)

/-- Is any unit of the range poisoned. -/
def poisonedRange (s : State) (pa n : Nat) : Bool :=
  (unitsOf (poisonUnit (s.region pa)) pa n).any s.poisoned

/-- Does a write of interval `n` to the line append an undo record (R307). -/
def needsRecord (s : State) (line : Nat) (n : BitVec 32) : Bool :=
  match s.undo.find? fun r => r.line == line with
  | none => true
  | some r => later n r.rin || !later r.rin s.dom.datum

end State

/-- The 272 bytes of a record in its segment (R307): the header, then the old bytes of the line. -/
def UndoRec.image (r : UndoRec) : List Byte :=
  leBytes 8 (r.part % 16 * 2 ^ 60 + r.line / 256 % 2 ^ 40 * 2 ^ 8 + natOfBool r.pois * 2 + 1)
    ++ leBytes 8 (r.rin.toNat * 2 ^ 32 + r.crc.toNat) ++ r.old

/-- Does a record pass its checks when it is read back (R323): it is not poisoned and its CRC fits its bytes. -/
def UndoRec.sound (r : UndoRec) : Bool := !r.bad && r.crc == BitVec.ofNat 32 (crc32c r.old)

namespace State

/-- Bytes of a partition's records with open intervals in the segment of one die (R309). -/
def occupancy (s : State) (p die : Nat) : Nat :=
  272 * (s.undo.filter fun r => r.part == p && s.dieOf r.line == die && later r.rin s.dom.datum).length

/-- The bytes of a segment share (R309). -/
def share (s : State) (p : Nat) : Nat := (s.getPart p).logmib * 2 ^ 20

/-- The bytes of one of the four segments of the undo log (R307). -/
def segmentBytes (s : State) : Nat := s.logGib * 2 ^ 28

/-- Has the ring of a die's segment no room for one more record (R307). -/
def segmentFull (s : State) (die : Nat) : Bool :=
  decide (s.segmentBytes < 272 * ((s.undo.filter fun r => s.dieOf r.line == die).length + 1))

/-- Does a write that needs a record stall on the log (R307, R309). -/
def logStalls (s : State) (w : Wr) (line : Nat) : Bool :=
  let occ := s.occupancy w.part (s.dieOf line)
  let sh := s.share w.part
  s.needsRecord line w.rin
    && (decide (sh ≤ occ) || (decide (15 * sh ≤ 16 * occ) && later w.rin (s.dom.datum + 1)) || s.segmentFull (s.dieOf line))

/-- Bytes of the hold buffer that a partition uses on a die (R320). -/
def holdUsed (s : State) (p die : Nat) : Nat :=
  ((s.held.filter fun h => h.part == p && h.die == die).map fun h => (h.bytes.length + 63) / 64 * 64).sum

/-- Does a write stall on log or hold capacity (R309, R320). -/
def writeStalls (s : State) (w : Wr) (pa n : Nat) : Bool :=
  match s.region pa with
  | .hbm | .tier2 => (unitsOf 256 pa n).any (s.logStalls w)
  | .host => w.hold && decide ((s.getPart w.part).holdkib * 1024 < s.holdUsed w.part w.die + (n + 63) / 64 * 64)
  | .spad | .dev | .absent => false

/-- Append the undo record of a line when it needs one (R307, R310). -/
def logLine (s : State) (w : Wr) (line : Nat) : State :=
  if s.needsRecord line w.rin then
    let old := (List.range 256).map fun i => Sp.get 0 s.mem (line + i)
    { s with undo := ⟨w.part, line, s.poisoned line, w.rin, BitVec.ofNat 32 (crc32c old), old, false⟩ :: s.undo }.meter w.part 8 272
  else s

/-- Every core of the package that runs a member task of the partition gets the seal request (R309). -/
def requestSeals (s : State) (p : Nat) : State :=
  s.modCores ((s.tasks.filter fun t => t.member && t.part == p && t.state != .preempted).flatMap
    fun t => t.cores.filter fun n => (s.getCore n).holder == some t.id && !t.halted.contains n) fun _ c => { c with sealReq := true }

/-- Raise the seal request when a share of the partition reaches 75% (R309): it was below that with `before` bytes. -/
def sealThreshold (s : State) (p die before : Nat) : State :=
  if 4 * before < 3 * s.share p && decide (3 * s.share p ≤ 4 * s.occupancy p die) then s.requestSeals p else s

/-- Is a share of the partition at 75% or more on a die (R309). -/
def shareHigh (s : State) (p die : Nat) : Bool := decide (3 * s.share p ≤ 4 * s.occupancy p die)

/-- Does the partition own the core's cluster (R380). -/
def ownsCore (s : State) (p n : Nat) : Bool := bitNat (s.getPart p).clusters (coreCluster n)

/-- The seal requests that end because the occupancy of every share of the core's partition has fallen below 75% since `old` (R105,
R309). A request stays with its core, whatever task the core runs (assumption log 69). -/
def dropSealRequests (s old : State) : State :=
  let high (s : State) (p : Nat) : Bool := (List.range 4).any (s.shareHigh p)
  let fell := (List.range 16).filter fun p => high old p && !high s p
  if fell.isEmpty then s
  else s.modCores allCores fun n c => if fell.any fun p => old.ownsCore p n then { c with sealReq := false } else c

/-- Management changes the share of a partition in every segment (R309): a share that reaches 75% by it raises the seal request, and
one that falls below may end it. -/
def setShare (s : State) (p mib : Nat) : State :=
  let s1 := s.modPart p fun x => { x with logmib := mib }
  if (List.range 4).any fun d => !s.shareHigh p d && s1.shareHigh p d then s1.requestSeals p else s1.dropSealRequests s

end State

/-- Does a range of bytes touch the 64-byte granule of an address. -/
def touches (pa n a : Nat) : Bool := decide (a / 64 * 64 < pa + n) && decide (pa < a / 64 * 64 + 64)

/-- Does a write touch a granule that the core has reserved or holds older bytes of. -/
def Core.watches (c : Core) (pa n : Nat) : Bool :=
  (match c.resv with | some g => touches pa n g.1 | none => false) || c.older.any fun e => e.any fun p => touches pa n p.1

/-- A core once a write has touched a granule: a reservation of it ends (R252), and no load returns what stood in it before. -/
def Core.unwatch (c : Core) (pa n : Nat) : Core :=
  { c with resv := match c.resv with
             | some g => if touches pa n g.1 then none else some g
             | none => none
           older := (c.older.map fun e => e.filter fun p => !touches pa n p.1).filter fun e => !e.isEmpty }

namespace State

/-- A write to the granule ends every reservation of it (R252). -/
def breakResv (s : State) (pa n : Nat) : State :=
  let s1 := if s.core.watches pa n then s.updCore fun c => c.unwatch pa n else s
  { s1 with others := s.others.foldl (fun m p =>
      let c := Sp.get Core.init m p.1
      if c.watches pa n then Sp.put Core.init m p.1 (c.unwatch pa n) else m) s.others }

/-- Put bytes into memory, clear the poison of what they overwrite and end reservations (R331, R252). -/
def landBytes (s : State) (pa : Nat) (bs : List Byte) : State :=
  let s1 := { s with mem := pokeBytes s.mem pa bs,
                     poison := (unitsOf (poisonUnit (s.region pa)) pa bs.length).foldl
                       (fun m u => Sp.put false m u false) s.poison }
  s1.breakResv pa bs.length

/-- What core `k` holds of older bytes once a write of its own grid side or engine command has overwritten a range: the bytes of the range, as
they stood, join what its earlier such writes left (R234, R246). -/
def olderAfter (s : State) (k pa n : Nat) : List (List (Nat × Byte)) :=
  (s.getCore k).older ++ [(List.range n).map fun i => (pa + i, Sp.get 0 s.mem (pa + i))]

/-- Put a writer's bytes into memory. Where loads are paced, the writer's own scalar side may still read what they replace (R415). -/
def landFrom (s : State) (w : Wr) (pa : Nat) (bs : List Byte) : State :=
  match w.behind with
  | none => s.landBytes pa bs
  | some k =>
    if s.lagLoads then (s.landBytes pa bs).modCore k fun c => { c with older := s.olderAfter k pa bs.length } else s.landBytes pa bs

/-- Count bytes at the memory controllers (R384): `wr` is 0 for reads and 1 for writes. -/
def meterMem (s : State) (p pa n wr : Nat) : State :=
  match s.region pa with
  | .hbm => s.meter p (2 + wr) n
  | .tier2 => s.meter p (4 + wr) n
  | .spad | .dev | .host | .absent => s

/-- Count bytes read, by physical address (R384). -/
def meterReads (s : State) (p : Nat) (pas : List Nat) : State :=
  (s.meter p 2 (pas.filter fun a => s.region a == .hbm).length).meter p 4 (pas.filter fun a => s.region a == .tier2).length

/-- Perform a write to memory outside device registers: logged in HBM and second tier, held or performed in host memory,
not performed in the memory of a fenced die (R306, R307, R320, R333). -/
def write (s : State) (w : Wr) (pa : Nat) (bs : List Byte) : State :=
  if s.lost pa then s
  else
    match s.region pa with
    | .hbm | .tier2 =>
      let s1 := (unitsOf 256 pa bs.length).foldl (fun s l =>
        (s.logLine w l).sealThreshold w.part (s.dieOf l) (s.occupancy w.part (s.dieOf l))) s
      (s1.landFrom w pa bs).meterMem w.part pa bs.length 1
    | .spad => s.landFrom w pa bs
    | .host =>
      if w.hold then { s with held := s.held ++ [⟨w.die, w.part, w.rin, pa, bs⟩] } else s.landFrom w pa bs
    | .dev | .absent => s

/-- The core's scalar loads return from now on what stands in memory: something orders its own earlier writes before them (R241, R246). -/
def dropOlder (s : State) : State := s.updCore fun c => { c with older := [] }

/-- A write that is never logged, held or counted: fault records, duty records, frames, scrubs (R229, R371, R389, R392). -/
def rawWrite (s : State) (pa : Nat) (bs : List Byte) : State := s.landBytes pa bs

/-- A write of the partition waits for capacity (R309, R320). A share of 0 MiB is full at once, so the first such wait raises the
seal request (R309). -/
def setLstall (s : State) (p : Nat) : State :=
  let s1 := if s.share p = 0 && !(s.getPart p).lstall then s.requestSeals p else s
  s1.modPart p fun x => { x with lstall := true }

/-- A waiting write of the partition may be gone (R305): those that still wait say so again when they are tried. -/
def clearLstall (s : State) (p : Nat) : State := s.modPart p fun x => { x with lstall := false }

/-- The sequence tag of a scratchpad address (R211). -/
def seqtag (s : State) (pa : Nat) : Nat := Sp.get 0 s.seqtags ((pa - spadBase) / 4096)

/-! ### Fault records (R229, R230) -/

end State

namespace State

/-- Is record `n` of a partition still open (R229). -/
def recordOpen (x : Partition) (n : Nat) : Bool :=
  decide ((n + 2 ^ 32 - x.frhead) % 2 ^ 32 < (x.frtail + 2 ^ 32 - x.frhead) % 2 ^ 32)

/-- The open records that a die holds for merging, of all partitions (R229). -/
def openOn (s : State) (die : Nat) : Nat :=
  (s.parts.toList.map fun x => (x.frOpen.filter fun o => recordOpen x o.n && o.die == die).length).sum

/-- The interval number a fault record carries: the core's RIN, which for a core that runs no member task is the entry
interval (R230, R304). -/
def recordRin (s : State) : BitVec 32 := if s.memberCore s.cur then rinOf s.core else s.entryInterval

/-- Write or merge the fault record of a fault (R229, R230). `agent` is AGENT; an engine (4) shows CORE as 0xFF. -/
def recordFault (s : State) (p : Nat) (agent : Nat) (va : Word) (f : PFault) : State :=
  let x := s.getPart p
  let lg := fieldNat x.frctl 0 5
  if x.frctl.getLsbD 63 && decide (4 ≤ lg) && decide (lg ≤ 16) then
    let die := coreDie s.cur
    let live := x.frOpen.filter fun o => recordOpen x o.n
    let unit := va.toNat / 2 ^ 17
    let base := x.frbase.toNat / 32 * 32
    match live.find? fun o => o.cause == f.cause && o.agent == agent && o.unit == unit with
    | some o =>
      (s.rawWrite (base + (o.n % 2 ^ lg) * 32 + 16) (leBytes 4 (o.count + 1))).modPart p fun x =>
        { x with frOpen := live.map fun q => if q.n == o.n then { q with count := o.count + 1 } else q }
    | none =>
      if (x.frtail + 2 ^ 32 - x.frhead) % 2 ^ 32 = 2 ^ lg then
        s.modPart p fun x => { x with frctl := x.frctl ||| (1#64 <<< 62) }
      else
        let core := if agent == 4 then 0xFF else s.cur
        let w8 := coreCluster s.cur * 2 ^ 56 + core * 2 ^ 48 + f.level * 2 ^ 20 + f.detail * 2 ^ 16 + agent * 2 ^ 12
          + f.cause
        let task := if agent ≤ 1 then s.core.task.getD 0 else s.core.gridTaskId
        let img := leBytes 8 va.toNat ++ leBytes 8 w8 ++ leBytes 8 (s.recordRin.toNat * 2 ^ 32 + 1) ++ leBytes 8 task
        let o : FaultOpen := ⟨x.frtail, f.cause, agent, unit, die, 1⟩
        (s.rawWrite (base + (x.frtail % 2 ^ lg) * 32) img).modPart p fun x =>
          { x with frtail := (x.frtail + 1) % 2 ^ 32
                   frOpen := if s.openOn die < 64 then live ++ [o] else live }
  else s

/-! ### Ending a task (R30, R367) -/

end State

/-- A core that stops running: its grid-side work is discarded (R367, R323). -/
def Core.discard (c : Core) : Core :=
  { c with giq := [], flight := [], blk := [], blkAt := 0, queues := Vector.replicate 8 [], streams := [], load := none, sbuf := [], older := [],
           wfi := false, drn := none, fetched := none, fw := { c.fw with block := [], blockAt := 0 } }

/-- A core after its task ended or was killed: idle, with no task. A seal request and a partition message stay pending on the core until
what ends them (R105, R309, R387; assumption log 69). -/
def Core.release (c : Core) : Core :=
  { c.discard with run := .idle, task := none, prev := none, front := none, preReq := false,
                   ctrs := Vector.replicate 32 Counter.init, awdecl := [], awins := Vector.replicate 4 none,
                   openN := 0, now := false, sealPtr := none, frame := none }

/-- The address after a core's halt marker: the SPC of the old task (R25, R26). -/
def Core.afterHalt (c : Core) : Word :=
  match (c.flight ++ c.giq).find? fun e => e.op == .halt with
  | some e => e.pc + 4
  | none => c.pc

/-- Entries up to and including the halt marker. -/
def toHalt : List Entry → List Entry
  | [] => []
  | e :: r => if e.op == .halt then [e] else e :: toHalt r

/-- Does a core in this state run, or is it being pre-empted: not idle, not stopped by a domain fault and not fenced (R322, R333,
R369). -/
def RunState.active : RunState → Bool
  | .running | .halting | .stop | .drain | .save | .gone => true
  | .idle | .halted | .fenced => false

/-- Bits 12 to 8 of FLAGS, which the scalar side merges (R82, R84). -/
def scalarFlags : Word := 0x1F00

/-- A core on which no old task is left before the task that runs (R26). -/
def Core.alone (c : Core) : Core := { c with prev := none, front := none }

/-- The core discards the run-ahead task with all its state (R26): a core that a domain fault stopped stays stopped; the old task's entries, windows,
declared accumulation windows, scalar flags and timer are its own again, and its x registers, which the launch unit wrote, hold free values
(assumption log 13). -/
def Core.dropAhead (k : Nat) (c : Core) : Core :=
  match c.prev, c.front with
  | some old, some f =>
    { c.alone with task := some old, run := if c.run.active then .halting else c.run, pc := c.afterHalt
                   giq := if c.flight.any fun e => e.op == .halt then [] else toHalt c.giq
                   wins := f.wins, awdecl := f.awdecl, flags := (c.flags &&& ~~~scalarFlags) ||| f.flags, timecmp := f.timecmp
                   regs := Vector.ofFn fun i : Fin 32 => if i.val = 0 then 0 else Config.lostReg i.val k }
  | _, _ => c

/-- The core whose old task is killed while a run-ahead task waits behind it: the old entries go (R26, R367). -/
def Core.cutOld (c : Core) : Core :=
  { c.alone with flight := [], queues := Vector.replicate 8 [], streams := []
                 giq := if c.flight.any fun e => e.op == .halt then c.giq else (c.giq.dropWhile fun e => e.op != .halt).drop 1 }

namespace State

/-- The notices in force: each is pending on the cores of its task whose halt has not retired (R105). -/
def setNotices (s : State) (ns : List Notice) : State :=
  if s.notices.isEmpty && ns.isEmpty then s
  else { s with notices := ns }.modCores allCores fun n c =>
    { c with preReq := ns.any fun x => (s.findTask x.task).any fun (t : Task) => t.cores.contains n && !t.halted.contains n }

/-- Return everything that a task holds (R30, R208, R290, R300): its commands are cancelled, its tag-table entries freed, a wait of
another device at one of its barrier objects gets cause 0x07 (R284), its notices end (R105), and the task leaves the list with its
reservations. -/
def dropTask (s : State) (id : Nat) : State :=
  let s1 : State := { s with rwaits := s.rwaits.filter fun w => w.2.1 != id
                             net := s.net ++ (s.rwaits.filter fun w => w.2.1 == id).map fun w => NetMsg.barAns w.1 7 0
                             tasks := s.tasks.filter fun t => t.id != id
                             tagtab := s.tagtab.filter fun e => e.task != id
                             cmds := s.cmds.filter fun c => c.task != id }
  s1.setNotices (s.notices.filter fun x => x.task != id)

/-- The writer of a store that waited, as it is performed (R306). -/
def storeWr (s : State) (n : Nat) (w : StoreWait) : Wr := ⟨w.part, w.rin.getD s.entryInterval, w.hold, coreDie n, none⟩

/-- The scalar stores of a core that are issued and wait are performed: what the core is stopped for does not undo them (R367, R428). They
are taken whatever the capacity of the log (assumption log 30). -/
def performStores (s : State) (n : Nat) : State :=
  if (s.getCore n).sbuf.isEmpty then s
  else ((s.getCore n).sbuf.foldl (fun s (w : StoreWait) => s.write (s.storeWr n w) w.pa w.bytes) s).modCores [n]
    fun _ c => { c with sbuf := [] }

/-- The notices to their peers of send and recv commands that are cancelled (R349). -/
def linkCancels (cs : List Cmd) : List NetMsg :=
  cs.filterMap fun c =>
    match c.op with
    | .send _ | .recv _ => some (NetMsg.cancel c.id)
    | .xfer _ _ _ _ _ | .xdz _ _ _ | .dztab _ _ => none

/-- Stop a task that does not end by itself: the issued stores of `cores` are performed, every core of its gang changes by `stop`, its
commands are cancelled, those of a link with notice to their peers (R349), and what it holds returns. -/
def stopTask (s : State) (t : Task) (cores : List Nat) (stop : Nat → Core → Core) : State :=
  let cancels := linkCancels (s.cmds.filter fun c => c.task == t.id)
  let s1 := ((cores.foldl performStores s).modCores t.cores stop).dropTask t.id
  { s1 with net := s1.net ++ cancels, free := s1.free + 1 }

/-- Kill a task (R367): its cores stop, its commands are cancelled, its resources return, the host is told. -/
def killTask (s : State) (id : Nat) : State :=
  match s.findTask id with
  | none => s
  | some t =>
    let s1 := (s.stopTask t t.cores fun n c =>
      if c.prev == some id then c.cutOld
      else if c.task != some id then c
      else if c.prev.isSome then c.dropAhead (s.free * 128 + n) else c.release).clearLstall t.part
    (s1.tell (.killed t.part id)).tell (.vector (t.part * 4))

/-! ### Domain faults (R322) -/

end State

/-- Does a device in this state take commits: no rollback is in progress (R323). -/
def RecState.commits : RecState → Bool
  | .run | .fault => true
  | .stop | .restore | .clean | .reported => false

namespace State

/-- The partitions that are not free. -/
def activeParts (s : State) : List Nat := (List.range 16).filter fun p => (s.getPart p).pstate != 0

/-- A vector of every active partition (R386). -/
def tellParts (s : State) (k : Nat) : State := s.activeParts.foldl (fun s p => s.tell (.vector (p * 4 + k))) s

/-- Raise a domain fault (R322): the device stops its tasks and reports to the meridian. `cause` numbers the events of R322 in
their order from 1: a stall, a machine check, a runtime's request, the loss of a device, of a link, management (assumption log 37).
Between STOP and RUN the device stays in its state until the meridian's next ROLLBACK (R323, R324). -/
def raiseDomainFault (s : State) (cause : Nat) : State :=
  let s1 := s.modCores allCores fun _ c => match c.run with
    | .idle | .fenced => c
    | .running | .halting | .stop | .drain | .save | .gone | .halted => { c with run := .halted }
  ({ s1 with dom := { s1.dom with state := if s1.dom.state.commits then .fault else s1.dom.state } }.sendMsg
    (.domainFault cause)).tellParts 3

/-! ### Taking a trap (R109) and returning from one (R111) -/

end State

/-- Entry into runtime level (R109): the status is saved and changed, CAUSE, TVAL, EPC and SPC are written and the pc goes
to the vector. Every trap writes ROWPROG (R375): here zero, which a stopped grid entry's trap replaces. -/
def Core.enterRuntime (c : Core) (async : Bool) (code : Nat) (tval epc spc : Word) : Core :=
  let pl := fieldNat c.status 0 2
  let ie := fieldNat c.status 4 1
  { c with
    status := setField (setField (setField (setField c.status 2 2 pl) 5 1 ie) 0 2 1) 4 1 0
    era := c.era + 1
    cause := BitVec.ofNat 64 ((if async then 2 ^ 63 else 0) + code)
    tval := tval
    epc := setField epc 0 1 0
    spc := setField spc 0 1 0
    pc := setField c.tvec 0 8 0 + (if async then 0x80 else 0)
    rowprog := 0
    run := .running
    load := none
    wfi := false
    drn := none
    resv := none }

/-- Entry into firmware level (R103, R111): Jorhin's own registers take the interrupted level, IE, resume address and held
block; no register of the lower level changes but PL. The rules give IE no value here, and it stays as it stood; at PL 2 it enables
nothing (R109; assumption log 6). -/
def Core.enterFirmware (c : Core) (resume : Word) (block : List Entry) (at_ : Nat) : Core :=
  { c with
    era := c.era + 1
    fw := ⟨fieldNat c.status 0 2, c.status.getLsbD 4, resume, block, at_⟩
    status := setField c.status 0 2 2
    pc := setField Config.firmwareEntry 0 1 0
    run := .running
    load := none
    wfi := false
    drn := none
    resv := none }

namespace State

/-- A synchronous fault at runtime level enters firmware level (R27, R109), where Jorhin kills the core's task and reports
(R390; assumption log 6): the core stays at firmware level, idle. -/
def runtimeFault (s : State) (code : Nat) (tval epc spc : Word) : State :=
  let id := s.core.task.getD 0
  let p := s.part
  let s1 := ((s.performStores s.cur).updCore fun c => (c.enterFirmware spc [] 0).release).killTask id
  (s1.tell (.rtFault p id code epc spc tval)).tell (.vector (p * 4 + 2))

/-- Take a synchronous trap (R109): into runtime level from task level, with the GIQ block `block` held; a fault at runtime
level goes to Jorhin (R390); the spec gives none at firmware level. -/
def trapWith (s : State) (block : List Entry) (code : Nat) (tval epc spc : Word) : Out :=
  if s.pl = 0 then
    .next (s.updCore fun c => { c.enterRuntime false code tval epc spc with blk := block, giq := [], flight := [] })
  else if s.pl = 1 then .next (s.runtimeFault code tval epc spc)
  else .fault (.firmwareTrap code)

/-- A precise slot-A trap (R90, R109): EPC and SPC are the instruction, whose GIQ entries have drained. -/
def trap (s : State) (code : Nat) (tval : Word) : Out := s.trapWith [] code tval s.core.pc s.core.pc

/-- A page or protection fault of the scalar side, with its record (R98, R229). -/
def trapPage (s : State) (agent : Nat) (va : Word) (f : PFault) : Out :=
  (s.recordFault s.part agent va f).trap f.cause va

/-- The record of a machine check (R328). -/
def mcRecord (c : Core) (kind : Nat) (lane row : Option Nat) (op : BitVec 32) (pc : Word) : Core :=
  { c with
    mckind := BitVec.ofNat 64 (2 ^ 63 + (let n := fieldNat c.mckind 8 8; if n = 255 then 255 else n + 1) * 256 + kind)
    mclane := match lane with | some l => BitVec.ofNat 64 (128 + l % 128) | none => 0
    mcrow := match row with | some r => BitVec.ofNat 64 (256 + r % 256) | none => 0
    mcop := zext op
    mcpc := setField pc 0 1 0 }

/-- A machine check (R327 to R329): the record is written, and the trap enters firmware level in hardware mode and runtime
level in host-assisted mode. In hardware mode a second one at an address whose instruction has not retired since the first fences
the core, and a domain fault follows; its stores that are issued are performed (R428). -/
def machineCheck (s : State) (block : List Entry) (kind : Nat) (lane row : Option Nat) (op : BitVec 32)
    (mpc epc spc : Word) : Out :=
  let s1 := s.updCore fun c => mcRecord c kind lane row op mpc
  if (s.getPart s.part).mcha then s1.trapWith block 0x0D 0 epc spc
  else if s.pl = 2 then .fault (.firmwareTrap 0x0D)
  else
    let s2 := (s1.updCore fun c =>
      { c.enterFirmware spc block s.nextCmd with lastMc := mpc :: c.lastMc, giq := [], flight := [] }).tell (.vector 66)
    .next (if s.core.lastMc.contains mpc then
        ((s2.performStores s2.cur).updCore fun c => { c.discard with run := .fenced }).raiseDomainFault 2
      else s2)

end State

/-- The asynchronous causes pending on a core, lowest code first (R105, R106). `time` is TIME as it reads. -/
def Core.asyncPending (c : Core) (time : Word) : Option Nat :=
  if c.preReq then some 0x20
  else if c.sealReq then some 0x21
  else if c.timecmp ≠ 0 && decide (c.timecmp.toNat ≤ time.toNat) then some 0x22
  else if c.msgReq then some 0x23
  else none

/-- Is a GIQ block held: GIQSAVE.V (R375). -/
def Core.blockHeld (c : Core) : Bool := !c.blk.isEmpty

/-- May an asynchronous cause enter now (R109). -/
def Core.asyncEnabled (c : Core) : Bool :=
  let pl := fieldNat c.status 0 2
  pl == 0 || (pl == 1 && c.status.getLsbD 4 && !c.blockHeld)

namespace State

/-- eret at firmware level (R111), without the drain and the re-issue of the held block, which the caller does. -/
def returnFirmware (s : State) : State :=
  s.updCore fun c =>
    { c with status := setField (setField c.status 0 2 c.fw.pl) 4 1 (natOfBool c.fw.ie)
             pc := c.fw.pc, resv := none, fw := { c.fw with block := [], blockAt := 0 }, instret := c.instret + 1 }

/-- eret at runtime level (R111), without the drain and the re-issue of the held block, which the caller does. -/
def returnRuntime (s : State) : State :=
  s.updCore fun c =>
    { c with status := setField (setField c.status 0 2 (fieldNat c.status 2 2)) 4 1 (fieldNat c.status 5 1)
             pc := c.spc, resv := none, blk := [], rowprog := setField c.rowprog 63 1 0
             instret := c.instret + 1 }

end State

end Sys2Proof.Machine
end

