-- ==== Sys2Proof/Machine/Tlb.lean ====
section
/-! DEFINITION. Sys2Proof/Machine/Tlb.lean: page tables and the walk (R216 to R219, R381) and the translation buffers with what they
hold (R221). -/

namespace Sys2Proof.Machine

/-- The five levels of the table: level, lowest index bit, index bits (R216). -/
def levels : List (Nat × Nat × Nat) := [(0, 41, 11), (1, 31, 10), (2, 26, 5), (3, 21, 5), (4, 17, 4)]

/-- The bytes of the table of a level (R216). -/
def tableBytes (level : Nat) : Nat :=
  match level with
  | 0 => 16384
  | 1 => 8192
  | 2 | 3 => 256
  | _ => 128

namespace State

/-- One bit of a partition's grant table (R381). -/
def grantBit (s : State) (p n : Nat) : Bool := (s.byteAt ((s.getPart p).grantbase.toNat + n / 8)).getLsbD (n % 8)

/-- Is the whole range granted to the partition, outside device-register space (R381). -/
def granted (s : State) (p lo size : Nat) : Bool :=
  match s.region lo with
  | .hbm => (unitsOf (2 ^ 17) lo size).all fun u => s.grantBit p (u / 2 ^ 17)
  | .tier2 => (unitsOf (2 ^ 21) (lo - tierBase) size).all fun u => s.grantBit p (4194304 + u / 2 ^ 21)
  | .host => (unitsOf (2 ^ 30) (lo - hostBase) size).all fun u => s.grantBit p (5767168 + u / 2 ^ 30)
  | .spad => (unitsOf spadBytes (lo - spadBase) size).all fun u => bitNat (s.getPart p).clusters (u / spadBytes)
  | .dev => true
  | .absent => false

/-- Is every byte of a page populated: both ends and, in the second tier, every port it touches (R213, R218). -/
def populated (s : State) (lo size : Nat) : Bool :=
  s.region lo == s.region (lo + size - 1) && s.region lo != .absent
    && (s.region lo != .tier2 || (unitsOf tierPort (lo - tierBase) size).all fun u => s.portPopulated (u / tierPort))

/-- Is a valid entry read at a level malformed (R217, R218, R381). -/
def malformed (s : State) (p level low : Nat) (e : Word) : Bool :=
  let common := fieldNat e 48 16 != 0 || e.getLsbD 6
  if e.getLsbD 1 then
    let base := fieldNat e 17 31 * 2 ^ 17
    common || level == 0 || fieldNat e 7 10 != 0 || base % 2 ^ low != 0 || !s.populated base (2 ^ low)
      || !s.granted p base (2 ^ low) || (e.getLsbD 5 && e.getLsbD 4 && e.getLsbD 3)
  else
    let base := fieldNat e 7 41 * 2 ^ 7
    let size := tableBytes (level + 1)
    common || level == 4 || fieldNat e 2 4 != 0 || base % size != 0
      || decide (hbmBytes < base + size) || !s.granted p base size

/-- The walk of R219 from a table at a level: a leaf with the bits of its page, or the detail and level of the failure. -/
def walkFrom (s : State) (p : Nat) (va : Word) : List (Nat × Nat × Nat) → Nat → Except (Nat × Nat) (Word × Nat)
  | [], _ => .error (1, 4)
  | (level, low, n) :: rest, base =>
    let at_ := base + 8 * fieldNat va low n
    if s.poisoned at_ then .error (5, level)
    else
      let e : Word := BitVec.ofNat 64 (s.readNat at_ 8)
      if !e.getLsbD 0 then .error (0, level)
      else if s.malformed p level low e then .error (1, level)
      else if e.getLsbD 1 then .ok (e, low)
      else walkFrom s p va rest (fieldNat e 7 41 * 2 ^ 7)

/-- The addresses of the entries that a walk from a table at a level reads. -/
def walkReads (s : State) (p : Nat) (va : Word) : List (Nat × Nat × Nat) → Nat → List Nat
  | [], _ => []
  | (level, low, n) :: rest, base =>
    let at_ := base + 8 * fieldNat va low n
    let e : Word := BitVec.ofNat 64 (s.readNat at_ 8)
    if s.poisoned at_ || !e.getLsbD 0 || s.malformed p level low e || e.getLsbD 1 then [at_]
    else at_ :: s.walkReads p va rest (fieldNat e 7 41 * 2 ^ 7)

/-- The hardware walk of a partition (R219). -/
def walk (s : State) (p : Nat) (va : Word) : Except (Nat × Nat) (Word × Nat) :=
  s.walkFrom p va levels (s.getPart p).ptroot.toNat

/-- Count the bytes that the walker reads for a partition (R384). -/
def meterWalk (s : State) (p : Nat) (va : Word) : State :=
  (s.walkReads p va levels (s.getPart p).ptroot.toNat).foldl (fun s a => s.meterMem p a 8 0) s

end State

/-! ### The buffers (R221) -/

/-- The probe bank of a core that an address selects. -/
def probeBank (core : Nat) (va : Word) : Nat := 20 * core + 4 + (fieldNat va 17 4 ^^^ fieldNat va 21 4)

/-- The TLB of a core's cluster. -/
def clusterTlb (cluster : Nat) : Nat := 1920 + cluster

/-- Entries of a buffer. -/
def tlbSize (buf : Nat) : Nat := if 1920 ≤ buf then 4096 else if buf % 20 < 4 then 64 else 32

namespace State

/-- The translation of an address that a buffer holds. -/
def tlbHit (s : State) (buf p : Nat) (va : Word) : Option TlbEnt :=
  s.tlb.find? fun e => e.buf == buf && e.part == p && decide (e.va ≤ va.toNat) && decide (va.toNat < e.va + 2 ^ e.log2)

/-- Install a translation in a buffer: one of the same page is replaced, and in a full buffer a free choice (assumption log 55). -/
def tlbInstall (s : State) (buf p : Nat) (va : Word) (leaf : Word) (low : Nat) : State :=
  let page := va.toNat / 2 ^ low * 2 ^ low
  let rest := s.tlb.filter fun e => !(e.buf == buf && e.part == p && e.va == page && e.log2 == low)
  let mine := rest.filter fun e => e.buf == buf
  if mine.length < tlbSize buf then { s with tlb := ⟨buf, p, page, low, leaf⟩ :: rest }
  else
    { s.tickFree with tlb := ⟨buf, p, page, low, leaf⟩ ::
        (match mine[Config.tlbVictim s.free % mine.length]? with
          | some v => rest.erase v
          | none => rest) }

end State

end Sys2Proof.Machine
end

