-- ==== Sys2Proof/Machine/Device.lean ====
section
/-! DEFINITION. Sys2Proof/Machine/Device.lean: device-register space (R213, R214, R381): translation control blocks (R226),
launch areas with their queue descriptors (R352, R355), task blocks (R365), partition control blocks (R380), the device
control block (R388), the route table (R337) and the link status registers (R338); what reading and writing each field
does, for runtime level and for management. -/

namespace Sys2Proof.Machine

/-- A register of device-register space, by its block. -/
inductive DevReg where
  | tcb (p off : Nat)
  | area (p off : Nat)
  | block (core off : Nat)
  | pcb (p off : Nat)
  | devctl
  | route (e : Nat)
  | linkstat (l : Nat)
  | absent
deriving DecidableEq, Repr

/-- The register at a physical address, its offset rounded down to 8 bytes. -/
def devReg (pa : Nat) : DevReg :=
  let o := pa - devBase
  if pa < devBase then .absent
  else if o < 0x10000 then .tcb (o / 0x1000) (o % 0x1000 / 8 * 8)
  else if 0x20000 ≤ o && o < 0x30000 then .area ((o - 0x20000) / 0x1000) (o % 0x1000 / 8 * 8)
  else if 0x30000 ≤ o && o < 0x36000 then .block ((o - 0x30000) / 0x100) (o % 0x100 / 8 * 8)
  else if 0x40000 ≤ o && o < 0x50000 then .pcb ((o - 0x40000) / 0x1000) (o % 0x1000 / 8 * 8)
  else if 0x50000 ≤ o && o < 0x50008 then .devctl
  else if 0x100000 ≤ o && o < 0x104000 then .route ((o - 0x100000) / 8 * 8)
  else if 0x110000 ≤ o && o < 0x110060 then .linkstat ((o - 0x110000) / 8)
  else .absent

namespace State

/-- May runtime level of partition `p` reach a register (R381). -/
def reaches (s : State) (p : Nat) (r : DevReg) : Bool :=
  match r with
  | .tcb q _ | .area q _ | .pcb q _ => q == p
  | .block n _ => bitNat (s.getPart p).clusters (n / 4)
  | .devctl | .route _ | .linkstat _ => true
  | .absent => false

/-! ### Reading -/

/-- The second doubleword of a queue descriptor (R352). -/
def queueCtl (q : LQueue) : Word :=
  BitVec.ofNat 64 (natOfBool q.en * 2 ^ 63 + q.state * 2 ^ 16 + q.fcause * 2 ^ 8 + q.log2sz)

/-- The CLASS field of a task (R357). -/
def classWord (t : Task) : Word :=
  BitVec.ofNat 64 (t.cls + natOfBool t.preempt * 2 ^ 8 + natOfBool t.runahd * 2 ^ 9 + natOfBool t.member * 2 ^ 10)

/-- A doubleword of the task block of a core (R365). -/
def taskBlock (s : State) (core off : Nat) : Word :=
  match s.coreTask core with
  | none => 0
  | some t =>
    let w (k : Nat) : Word × Word := t.waits.getD k (0, 0)
    match off with
    | 0x00 => BitVec.ofNat 64 t.id
    | 0x08 => BitVec.ofNat 64 (t.part + t.queue * 2 ^ 8)
    | 0x10 => t.entry
    | 0x18 => BitVec.ofNat 64 t.place
    | 0x20 => BitVec.ofNat 64 (t.place / 2 ^ 64)
    | 0x28 => t.argp
    | 0x30 => BitVec.ofNat 64 t.spad
    | 0x38 => classWord t
    | 0x40 => t.done
    | 0x48 => BitVec.ofNat 64 (t.nb + t.nw * 2 ^ 8)
    | 0x50 => t.resume
    | _ => if 0x58 ≤ off && off < 0x98 then
        (if (off - 0x58) % 16 = 0 then (w ((off - 0x58) / 16)).1 else (w ((off - 0x58) / 16)).2)
      else 0

/-- LINKSTAT (R338). -/
def linkstat (l : Link) : Word :=
  BitVec.ofNat 64 (l.replays % 2 ^ 32 * 2 ^ 32 + l.peer % 2 ^ 16 * 2 ^ 16 + l.retrains % 2 ^ 8 * 2 ^ 8 + l.state % 4)

/-- The value that a doubleword register reads as: reserved and write-only fields read as zero (R5). WALKCTL.HA reads as the mode in effect, not
as the value that management wrote and that waits for a whole-partition invalidation (R223, R226): DESIGN CHOICE (assumption log 66). -/
def devRead (s : State) (r : DevReg) : Word :=
  match r with
  | .absent => 0
  | .tcb p off =>
    let x := s.getPart p
    match off with
    | 0x000 => x.ptroot
    | 0x008 => ofBool x.ha
    | 0x010 => x.frbase
    | 0x018 => x.frctl
    | 0x020 => BitVec.ofNat 64 x.frtail
    | 0x028 => BitVec.ofNat 64 x.frhead
    | 0x030 => x.invva
    | 0x038 => BitVec.ofNat 64 (natOfBool x.invbusy * 2 ^ 62 + x.invpages)
    | 0x040 => x.invseq
    | _ => 0
  | .area p off =>
    let x := s.getPart p
    if off < 0x200 then
      let q := x.queues.getD (off / 0x40) LQueue.init
      match off % 0x40 with
      | 0x00 => q.qbase
      | 0x08 => queueCtl q
      | 0x10 => q.head
      | 0x18 => q.tail
      | 0x20 => q.faddr
      | 0x28 => q.ndisp
      | _ => 0
    else match off with
      | 0x210 => x.ctxbase
      | 0x218 => x.ctxsize
      | 0x220 => x.rtvec
      | _ => 0
  | .block n off => s.taskBlock n off
  | .pcb p off =>
    let x := s.getPart p
    match off with
    | 0x000 => BitVec.ofNat 64 (x.pstate * 2 ^ 32 + x.clusters)
    | 0x008 => x.grantbase
    | 0x010 => BitVec.ofNat 64 ((if x.schedw = 0 then 1 else x.schedw) * 2 ^ 16 + x.linkw * 2 ^ 8 + x.hbmw)
    | 0x018 => BitVec.ofNat 64 (x.stallms * 2 ^ 48 + x.holdkib * 2 ^ 32 + x.logmib)
    | 0x020 => BitVec.ofNat 64 (natOfBool x.mcha * 2 + natOfBool x.placeha)
    | 0x028 => x.dutybase
    | 0x030 => x.dutyctl
    | 0x038 => BitVec.ofNat 64 x.dutytail
    | 0x040 => BitVec.ofNat 64 x.dutyhead
    | 0x048 => BitVec.ofNat 64 x.anstag
    | 0x050 => x.ansval
    | 0x058 => x.msgbell
    | 0x070 => BitVec.ofNat 64 x.tenant
    | 0x0D8 => BitVec.ofNat 64 (natOfBool (x.stage != .none) * 2 ^ 62 + natOfBool x.release * 2)
    | _ =>
      if 0x080 ≤ off && off < 0x0D0 then x.meters.getD ((off - 0x080) / 8) 0
      else if 0x100 ≤ off && off < 0x140 then BitVec.ofNat 64 (fromLE ((x.msgin.drop (off - 0x100)).take 8))
      else if 0x140 ≤ off && off < 0x180 then BitVec.ofNat 64 (fromLE ((x.msgout.drop (off - 0x140)).take 8))
      else 0
  | .devctl => s.devctl
  | .route e => BitVec.ofNat 64 (fromLE ((List.range 8).map fun i => BitVec.ofNat 8 (Sp.get 0 s.routes (e + i))))
  | .linkstat l => linkstat (s.links.getD l Link.init)

/-! ### Queues (R353, R354, R377) -/

def getQueue (s : State) (p q : Nat) : LQueue := (s.getPart p).queues.getD q LQueue.init

def modQueue (s : State) (p q : Nat) (f : LQueue → LQueue) : State :=
  s.modPart p fun x => { x with queues := x.queues.setIfInBounds q (f (x.queues.getD q LQueue.init)) }

/-- Halt a queue with a code and report it (R354, R359). -/
def haltQueue (s : State) (p q code : Nat) (faddr : Word) : State :=
  ((s.modQueue p q fun x => { x with state := 2, fcause := code, faddr := faddr }).tell
    (.queueFault p q code faddr)).tell (.vector (p * 4))

/-- TAIL is written (R353): the records up to it arrive at the launch unit in step `now` (R374). -/
def publish (v : Word) (now : Nat) (q : LQueue) : LQueue := { q with tail := v, pubs := q.pubs ++ [(v, now)] }

/-- EN written from 0 to 1 (R353): HEAD and TAIL to 0, the held values to zero, the queue awaits its first record. R353 and R377 do not name
FCAUSE: DESIGN CHOICE, a destroyed queue keeps it and the enable clears it (assumption log 39). -/
def enableQueue (q : LQueue) : LQueue :=
  if 12 ≤ q.log2sz && q.log2sz ≤ 30 then
    { q with en := true, state := 1, fcause := 0, head := 0, tail := 0, faddr := 0, ndisp := 0, first := true,
             held := RecFields.zero, hs := .fetch, start := 0, behind := [], pubs := [], epoch := q.epoch + 1 }
  else q

/-- EN written to 0 (R377): a record in FETCH is finished in state 3; one in WAIT or RESERVE is dropped. -/
def destroyQueue (q : LQueue) : LQueue :=
  if q.state = 1 && q.hs == .fetch && q.head != q.tail then { q with en := false, state := 3 }
  else if q.state = 3 then { q with en := false }
  else { q with en := false, state := 0, hs := .fetch, behind := [] }

/-- A write of the descriptor's second doubleword (R352, R353, R377); `opens` says whether a queue may be enabled now. A write that leaves
EN out changes neither EN nor STATE (R5). A rollback halts a queue that is not enabled too (R378), and R354 asks for EN = 0 and then 1 where
R353 asks for a write from 0 to 1: DESIGN CHOICE, one write of EN = 1 enables it. Nor does the spec say what a write of EN = 1 does to a queue
in state 3: DESIGN CHOICE, it enables the queue at once, and the record being finished is dropped (assumption log 39). -/
def writeQueueCtl (opens : Bool) (q : LQueue) (mask v : Word) : LQueue :=
  let q1 := if q.state = 0 then { q with log2sz := fieldNat (blend mask (queueCtl q) v) 0 6 } else q
  let en := (blend mask (queueCtl q) v).getLsbD 63
  if en && !q.en then (if opens then enableQueue q1 else q1)
  else if !en && (q.en || (q.state == 2 && mask.getLsbD 63)) then destroyQueue q1 else q1

/-- A write of TAIL (R353). From STOP to CLEAN of a rollback TAIL keeps the value that it had when the rollback began (R378). -/
def writeTail (s : State) (p q : Nat) (v : Word) : State :=
  let x := s.getQueue p q
  if x.state = 2 || x.state = 3 || s.dom.state == .stop || s.dom.state == .restore then s
  else if v.toNat % 16 ≠ 0 || v.toNat < x.head.toNat || x.head.toNat + 2 ^ x.log2sz < v.toNat then
    s.haltQueue p q 5 x.head
  else s.modQueue p q (publish v s.ticks)

/-- May the queues of a partition be enabled. From STOP to CLEAN of a rollback HEAD and TAIL keep their values (R378), which an enable would
zero, and during a reset of the partition no queue is enabled again (R391, R392; assumption log 39): such a write leaves EN at 0. -/
def queuesOpen (s : State) (p : Nat) : Bool :=
  s.dom.state != .stop && s.dom.state != .restore && (s.getPart p).stage == .none

/-! ### Invalidation (R227) -/

/-- Do two ranges meet: a range of `n` 128 KiB units from `va` (all when n is 0) and a page. -/
def overlapsInv (va : Word) (n : Nat) (e : TlbEnt) : Bool :=
  n == 0 || (decide (e.va < va.toNat / 2 ^ 17 * 2 ^ 17 + n * 2 ^ 17) && decide (va.toNat / 2 ^ 17 * 2 ^ 17 < e.va + 2 ^ e.log2))

/-- Does a range meet the 128 KiB unit of an address. -/
def unitInv (va : Word) (n a : Nat) : Bool :=
  n == 0 || (decide (va.toNat / 2 ^ 17 ≤ a / 2 ^ 17) && decide (a / 2 ^ 17 < va.toNat / 2 ^ 17 + n))

/-- INVCTL written with GO = 1 (R227): every buffer drops the range from INVVA on, the walks in flight for it will install nothing, and BUSY
is set. A later write of INVVA does not change the range in progress. -/
def startInv (s : State) (p n : Nat) : State :=
  let va := (s.getPart p).invva
  let gone (e : TlbEnt) : Bool := e.part == p && overlapsInv va n e
  { s with tlb := s.tlb.filter fun e => !gone e
           walks := s.walks.map fun (w : WalkReq) =>
             if w.part == p && unitInv va n w.va.toNat then { w with stale := true } else w }.modPart p fun x =>
    { x with invbusy := true, invpages := n, invrun := va, invdrop := ((s.tlb.filter gone).map fun (e : TlbEnt) => (e.va, e.log2)).eraseDups
             answers := x.answers.filter fun a => !unitInv va n (a.unit * 2 ^ 17) }

/-- The management writes of INVCTL that waited are performed in turn, up to one that starts an invalidation (R227). -/
def serveInv (s : State) (p : Nat) : List (Word × Word) → State
  | [] => s.modPart p fun x => { x with invwait := [] }
  | (mask, v) :: rest =>
    let nv : Word := blend mask (BitVec.ofNat 64 (s.getPart p).invpages) v
    if (v &&& mask).getLsbD 63 then (s.startInv p (fieldNat nv 0 32)).modPart p fun x => { x with invwait := rest }
    else (s.modPart p fun x => { x with invpages := fieldNat nv 0 32 }).serveInv p rest

/-- The invalidation completes: INVSEQ counts, BUSY clears, a change of HA takes effect when it covered the partition
(R223, R227), and the writes that waited for it are served. -/
def finishInv (s : State) (p : Nat) : State :=
  if (s.getPart p).invbusy then
    (s.modPart p fun x => { x with invbusy := false, invseq := x.invseq + 1, invdrop := [],
                                   ha := if x.invpages = 0 then x.haNext else x.ha }).serveInv p (s.getPart p).invwait
  else s

/-! ### Messages, answers, reset -/

/-- Does a core in this state run its task, or the runtime of it (R387). -/
def runsTask (r : RunState) : Bool :=
  match r with
  | .running | .halting | .stop | .drain | .save => true
  | .idle | .gone | .halted | .fenced => false

/-- MSGBELL (R387): cause 0x23 on the named cores that run a task of the partition, or its runtime. -/
def ringBell (s : State) (p : Nat) (v : Word) : State :=
  let ns := if v.getLsbD 63 then allCores else [fieldNat v 0 7]
  let s1 := s.modPart p fun x => { x with msgbell := v &&& 0x8000_0000_0000_007F }
  s1.modCores (ns.filter fun n => match s.coreTask n with
    | some t => t.part == p && runsTask (s.getCore n).run
    | none => false)
    fun _ c => { c with msgReq := true }

/-- The page bits of a leaf that an answer gives for a level (R216). -/
def levelLow (level : Nat) : Nat := match level with | 1 => 31 | 2 => 26 | 3 => 21 | _ => 17

/-- Is an answer to a walk a valid leaf: V = 1 and not malformed, its level 1 to 4 in [50:48] (R217, R218, R223, R389). -/
def goodLeaf (s : State) (p : Nat) (v : Word) : Bool :=
  let level := fieldNat v 48 3
  let leaf := setField v 48 3 0
  leaf.getLsbD 0 && leaf.getLsbD 1 && decide (1 ≤ level) && decide (level ≤ 4) && !s.malformed p level (levelLow level) leaf

/-- A walk completes with the host's answer (R223): a leaf goes into the TLB of the cluster, no translation to the accesses that
waited. One that an invalidation overtook installs nothing, and its accesses walk again (R227); so does one that is answered between STOP and
RUN, since the grant table, which a leaf is checked against, is not read then (R324). -/
def answerWalk (s : State) (w : WalkReq) (v : Word) : State :=
  let s1 := { s with walks := s.walks.filter (· ≠ w) }
  if w.stale || !s.dom.state.commits then s1
  else if s1.goodLeaf w.part v then
    s1.tlbInstall (clusterTlb w.cluster) w.part w.va (setField v 48 3 0) (levelLow (fieldNat v 48 3))
  else s1.modPart w.part fun x => { x with answers := x.answers ++ [⟨w.cluster, w.va.toNat / 2 ^ 17, w.by_⟩] }

/-- A host answer to a duty request (R389). -/
def answer (s : State) (p : Nat) (tag : Nat) (v : Word) : State :=
  let x := s.getPart p
  match x.duties.find? fun d => d.tag == tag with
  | none => s
  | some d =>
    let s1 := s.modPart p fun x => { x with duties := x.duties.filter fun e => e.tag != tag }
    if d.kind == 1 then
      match s.walks.find? fun w => w.part == p && w.tag == some tag with
      | some w => s1.answerWalk w v
      | none => s1
    else s1.modPart p fun x => { x with placeAns := x.placeAns ++ [(d.queue, fieldNat v 0 24)] }

/-- GO of a partition reset (R391 QUIESCE): queues destroyed as R377 has it, tasks killed, duty requests withdrawn. The cores of its tasks enter
firmware level (R27). -/
def startReset (s : State) (p : Nat) (rel : Bool) : State :=
  if (s.getPart p).stage != .none then s
  else
    let ns := (s.tasks.filter fun t => t.part == p).flatMap fun t => t.cores.filter fun n => (s.getCore n).task == some t.id
    let s0 := { s with walks := s.walks.filter fun w => w.part != p }.modCores ns fun _ c =>
      if c.run.active then c.enterFirmware c.pc [] 0 else c
    let s1 := s0.modPart p fun x => { x with
      pstate := 2, stage := .quiesce, release := rel, duties := [], answers := [], placeAns := []
      queues := x.queues.map fun q => if q.en || q.state == 2 then destroyQueue q else q }
    ((s1.tasks.filter fun t => t.part == p).map (·.id)).foldl killTask s1

/-! ### Writing -/

/-- Replace bytes of a 64-byte message. -/
def patchMsg (m : List Byte) (off : Nat) (mask v : Word) : List Byte :=
  let old : Word := BitVec.ofNat 64 (fromLE ((m.drop off).take 8))
  m.take off ++ leBytes 8 (blend mask old v).toNat ++ m.drop (off + 8)

/-- Management allots clusters to a partition. A cluster belongs to at most one partition, so one allotted here leaves the
partition that had it (R379, R380; assumption log 45). -/
def allot (s : State) (p st clusters : Nat) : State :=
  { s with parts := s.parts.mapFinIdx fun i x _ =>
      if i = p then { x with pstate := st, clusters := clusters }
      else { x with clusters := x.clusters &&& (0xFFFFFF ^^^ clusters) } }

/-- The RETRAIN bits of DEVCTL that a write changes (R388): W1C, a written 1 clears a bit that is set, and where retraining is
host-assisted the host's 1 starts the retraining of a link that trains and has the bit clear (assumption log 56). -/
def retrainBits (s : State) (ha : Bool) (w : Word) : Word :=
  (List.range 12).foldl (fun (m : Word) l =>
    if w.getLsbD (16 + l) && (s.devctl.getLsbD (16 + l) || (ha && (s.links.getD l Link.init).state == 1))
    then m ||| (1#64 <<< (16 + l)) else m) 0

/-- Retraining of a link is over (R388). -/
def clearRetrain (s : State) (l : Nat) : State := { s with devctl := s.devctl &&& ~~~(1#64 <<< (16 + l)) }

/-- A deficit of a class is never above the partition's weight times 2^20 (R363): so it is after management has written the weight. -/
def capWeight (s : State) (p : Nat) : State :=
  let w := if (s.getPart p).schedw = 0 then 1 else (s.getPart p).schedw
  (List.range 4).foldl (fun s cls =>
    { s with deficit := Sp.put 0 s.deficit (p * 4 + cls) (min (Sp.get 0 s.deficit (p * 4 + cls)) (w * 2 ^ 20 : Nat)) }) s

/-- A write to a doubleword register, of the bits that `mask` holds: by runtime level, or by management when `mgmt` is
set. The Bool is false when the write has to wait (R227: a write of INVCTL while an invalidation is in progress); one of management
is kept until it can be performed. DEVCTL.RETRAIN is W1C in the Access column of R388, while its Meaning has a write of 1 start
retraining: DEDUCED, a 1 clears a set bit and starts a retrain where the bit is clear (assumption log 56). A write of INVCTL leaves BUSY
as it is: DESIGN CHOICE, the bit shows whether an invalidation is in progress, whoever writes it (assumption log 66). -/
def devWrite (s : State) (mgmt : Bool) (r : DevReg) (mask v : Word) : State × Bool :=
  let nv : Word := blend mask (s.devRead r) v
  let w : Word := v &&& mask
  match r with
  | .absent | .block _ _ => (s, true)
  | .tcb p off =>
    match off with
    | 0x000 => (if mgmt then s.modPart p fun x => { x with ptroot := setField nv 0 14 0 } else s, true)
    | 0x008 => (if mgmt then s.modPart p fun x => { x with haNext := nv.getLsbD 0 } else s, true)
    | 0x010 => (s.modPart p fun x => { x with frbase := setField nv 0 5 0 }, true)
    | 0x018 =>
      (s.modPart p fun x =>
        let keep := x.frctl.getLsbD 62 && !w.getLsbD 62
        { x with frctl := (nv &&& 0x8000_0000_0000_001F) ||| (if keep then 1#64 <<< 62 else 0) }, true)
    | 0x020 => (if mgmt then s.modPart p fun x => { x with frtail := fieldNat nv 0 32 } else s, true)
    | 0x028 => (s.modPart p fun x => { x with frhead := fieldNat nv 0 32 }, true)
    | 0x030 => (s.modPart p fun x => { x with invva := setField nv 0 17 0 }, true)
    | 0x038 =>
      if (s.getPart p).invbusy then
        if mgmt then (s.modPart p fun x => { x with invwait := x.invwait ++ [(mask, v)] }, true) else (s, false)
      else if w.getLsbD 63 then (s.startInv p (fieldNat nv 0 32), true)
      else (s.modPart p fun x => { x with invpages := fieldNat nv 0 32 }, true)
    | 0x040 => (if mgmt then s.modPart p fun x => { x with invseq := nv } else s, true)
    | _ => (s, true)
  | .area p off =>
    if off < 0x200 then
      let q := off / 0x40
      match off % 0x40 with
      | 0x00 => (s.modQueue p q fun x => if x.state = 0 then { x with qbase := setField nv 0 12 0 } else x, true)
      | 0x08 => (s.modQueue p q fun x => writeQueueCtl (s.queuesOpen p) x mask v, true)
      | 0x18 => (s.writeTail p q nv, true)
      | _ => (s, true)
    else match off with
      | 0x200 => (if mgmt then
          (match s.findTask w.toNat with | some t => if t.part = p then s.killTask t.id else s | none => s) else s, true)
      | 0x210 => (if mgmt then s.modPart p fun x => { x with ctxbase := setField nv 0 12 0 } else s, true)
      | 0x218 => (if mgmt then s.modPart p fun x => { x with ctxsize := nv } else s, true)
      | 0x220 => (s.modPart p fun x => { x with rtvec := setField nv 0 8 0 }, true)
      | _ => (s, true)
  | .pcb p off =>
    match off with
    | 0x060 => (if mgmt then s else s.updCore fun c => { c with msgReq := false }, true)
    | 0x068 => (s.tell (.vector (p * 4 + 2)), true)
    | _ =>
      if 0x140 ≤ off && off < 0x180 then (s.modPart p fun x => { x with msgout := patchMsg x.msgout (off - 0x140) mask v }, true)
      else if !mgmt then (s, true)
      else match off with
        | 0x000 => (s.allot p (fieldNat nv 32 3) (fieldNat nv 0 24), true)
        | 0x008 => (s.modPart p fun x => { x with grantbase := setField nv 0 12 0 }, true)
        | 0x010 => ((s.modPart p fun x =>
            { x with schedw := fieldNat nv 16 8, linkw := fieldNat nv 8 8, hbmw := fieldNat nv 0 8 }).capWeight p, true)
        | 0x018 => ((s.modPart p fun x =>
            { x with stallms := fieldNat nv 48 16, holdkib := fieldNat nv 32 16, lstall := false }).setShare p (fieldNat nv 0 32), true)
        | 0x020 => (s.modPart p fun x => { x with mcha := nv.getLsbD 1, placeha := nv.getLsbD 0 }, true)
        | 0x028 => (s.modPart p fun x => { x with dutybase := setField nv 0 5 0 }, true)
        | 0x030 => (s.modPart p fun x => { x with dutyctl := nv &&& 0x8000_0000_0000_001F }, true)
        | 0x038 => (s.modPart p fun x => { x with dutytail := fieldNat nv 0 32 }, true)
        | 0x040 => (s.modPart p fun x => { x with dutyhead := fieldNat nv 0 32 }, true)
        | 0x048 => (s.modPart p fun x => { x with anstag := fieldNat nv 0 32 }, true)
        | 0x050 => ((s.modPart p fun x => { x with ansval := nv }).answer p (s.getPart p).anstag nv, true)
        | 0x058 => (s.ringBell p nv, true)
        | 0x070 => (s.modPart p fun x => { x with tenant := fieldNat nv 0 32 }, true)
        | 0x0D0 => (if w.getLsbD 0 then s.modPart p fun x => { x with meters := Vector.replicate 10 0 } else s, true)
        | 0x0D8 => (if w.getLsbD 63 then s.startReset p (w.getLsbD 1) else s, true)
        | _ => (if 0x100 ≤ off && off < 0x140 then
            s.modPart p fun x => { x with msgin := patchMsg x.msgin (off - 0x100) mask v } else s, true)
  | .devctl =>
    (if mgmt then { s with devctl := (nv &&& 0xF000_0000_0000_0003) |||
                                       ((s.devctl &&& 0x0000_0000_0FFF_0000) ^^^ s.retrainBits (nv.getLsbD 1) w) }
     else s, true)
  | .route e =>
    (if mgmt then
      { s with routes := (List.range 8).foldl (fun m i => Sp.put 0 m (e + i) (fieldNat nv (8 * i) 8)) s.routes } else s, true)
  | .linkstat l =>
    (if mgmt then
      let s1 := { s with links := s.links.setIfInBounds l { (s.links.getD l Link.init) with
          replays := fieldNat nv 32 32, peer := fieldNat nv 16 16, retrains := fieldNat nv 8 8, state := fieldNat nv 0 2 } }
      if 2 ≤ fieldNat nv 0 2 then s1.clearRetrain l else s1
     else s, true)

/-- Read 4 or 8 bytes of device registers (R214). -/
def devLoad (s : State) (pa n : Nat) : Nat :=
  (s.devRead (devReg pa)).toNat >>> (8 * (pa % 8)) % 2 ^ (8 * n)

/-- Write 4 or 8 bytes of device registers at runtime level or above (R214). -/
def devStore (s : State) (pa n : Nat) (v : Nat) : State × Bool :=
  let sh := 8 * (pa % 8)
  s.devWrite false (devReg pa) (BitVec.ofNat 64 ((2 ^ (8 * n) - 1) <<< sh)) (BitVec.ofNat 64 ((v % 2 ^ (8 * n)) <<< sh))

end State

end Sys2Proof.Machine
end

