-- ==== Sys2Proof/Machine/Translate.lean ====
section
/-! DEFINITION. Sys2Proof/Machine/Translate.lean: virtual addresses, page-table walks, permission, the aperture and the
checks on physical targets (R195, R214 to R223, R381, R389). -/

namespace Sys2Proof.Machine

/-- The kinds of access of R220. -/
inductive Acc where
  | fetch
  | load
  | store
  | amo
deriving DecidableEq, Repr

/-- The agent of an access: its core, partition, level and task, AGENT of R230, and whether the access is one of the scalar
accesses that device registers accept (R214). `stlb` is the stream TLB that serves it, none for the probe banks (R221); `id` tells the
accesses of one agent apart that can wait on a walk at once: an entry's place, a stream's or a command's number (R222). -/
structure Who where
  core  : Nat
  part  : Nat
  pl    : Nat
  task  : Nat
  agent : Nat
  dev   : Bool
  stlb  : Option Nat := none
  id    : Nat := 0
deriving DecidableEq, Repr

/-- What a translation gives: a physical address, a fault, or a wait for the host's answer (R223). -/
inductive TRes where
  | ok (pa : Nat)
  | fault (f : PFault)
  | wait
deriving DecidableEq, Repr

/-- The cause of an address without translation (R220). -/
def Acc.pageCause : Acc → Nat
  | .fetch => 0x04
  | .load => 0x05
  | .store | .amo => 0x06

/-- The cause of an access that the leaf denies (R220). -/
def Acc.denyCause : Acc → Nat
  | .fetch => 0x04
  | .load | .store | .amo => 0x07

namespace State

/-! ### Host-assisted walks (R223, R389) -/

/-- Write a duty record and raise the vector; nothing while the ring is off or full (R389). -/
def postDuty (s : State) (p : Nat) (d : DutyReq) (w0 w1 w2 w3 : Nat) : State :=
  let x := s.getPart p
  let lg := fieldNat x.dutyctl 0 5
  if x.dutyctl.getLsbD 63 && decide (4 ≤ lg) && decide (lg ≤ 12)
      && decide ((x.dutytail + 2 ^ 32 - x.dutyhead) % 2 ^ 32 < 2 ^ lg) then
    let base := x.dutybase.toNat / 32 * 32 + (x.dutytail % 2 ^ lg) * 32
    let s1 := s.rawWrite base (leBytes 8 w0 ++ leBytes 8 w1 ++ leBytes 8 w2 ++ leBytes 8 w3)
    let s2 := s1.modPart p fun x => { x with dutytail := (x.dutytail + 1) % 2 ^ 32, duties := x.duties ++ [d],
                                             nextTag := (x.nextTag + 1) % 2 ^ 32 }
    if x.dutytail = x.dutyhead then s2.tell (.vector (p * 4 + 1)) else s2
  else s

def Acc.code : Acc → Nat
  | .fetch => 0
  | .load => 1
  | .store => 2
  | .amo => 3

/-- The buffer that serves an access (R221): engines use the TLB of their cluster. R221 names no buffer for gsave, grest, amerge, the reads of
tensor maps and descriptors, a resume record's header and the launch unit: DESIGN CHOICE, the probe bank of the core that moves
(assumption log 55). -/
def buffer (w : Who) (va : Word) : Nat :=
  if w.agent = 4 then clusterTlb (coreCluster w.core)
  else match w.stlb with
    | some n => 20 * w.core + n
    | none => probeBank w.core va

/-- Fill the buffers of an access: that of its cluster and its own. -/
def tlbFill (s : State) (w : Who) (va leaf : Word) (low : Nat) : State :=
  let s1 := s.tlbInstall (clusterTlb (coreCluster w.core)) w.part va leaf low
  if w.agent = 4 then s1 else s1.tlbInstall (buffer w va) w.part va leaf low

/-- Open the duty requests of a cluster's first 32 walks where none is open yet (R222, R389). -/
def openWalks (s : State) (cluster : Nat) : State :=
  ((s.walks.filter fun x => x.cluster == cluster).take 32).foldl (fun s x =>
    if x.tag.isSome then s
    else
      let n := (s.getPart x.part).nextTag
      let s1 := s.postDuty x.part ⟨n, 1, x.va, x.acc, 0⟩ (2 ^ 56 + n) x.va.toNat (x.acc * 16 + x.agent) x.task
      if (s1.getPart x.part).nextTag = n then s1
      else { s1 with walks := s1.walks.map fun (y : WalkReq) => if y = x then { y with tag := some n } else y }) s

/-- What names an access among those merged into a walk (R222). -/
def walker (w : Who) : Nat × Nat × Nat := (w.core, w.task, w.agent + 16 * w.id)

/-- Ask the host for a walk (R222, R389): a miss to a unit whose walk is in flight in the cluster is merged into it, and any other
takes its place in arrival order. R222 merges misses to one page, whose size nobody knows before the host answers: DESIGN CHOICE, the page is
the 128 KiB unit, so two units of a larger page are two walks (assumption log 55). -/
def askWalk (s : State) (w : Who) (k : Acc) (va : Word) : State :=
  let q := coreCluster w.core
  let me := walker w
  let same (x : WalkReq) : Bool := x.cluster == q && x.part == w.part && x.va.toNat / 2 ^ 17 == va.toNat / 2 ^ 17
  (if s.walks.any same then
      { s with walks := s.walks.map fun (x : WalkReq) => if same x && !x.by_.contains me then { x with by_ := x.by_ ++ [me] } else x }
    else { s with walks := s.walks ++ [(⟨q, w.part, va, Acc.code k, w.agent, w.task, [me], none, false⟩ : WalkReq)] }).openWalks q

/-- A miss in host-assisted mode: an access whose walk found no translation takes that once, any other asks and waits. -/
def walkHost (s : State) (w : Who) (k : Acc) (va : Word) : State × Option (Except (Nat × Nat) (Word × Nat)) :=
  let me := walker w
  let mine (a : WalkAns) : Bool := a.cluster == coreCluster w.core && a.unit == va.toNat / 2 ^ 17 && a.by_.contains me
  if (s.getPart w.part).answers.any mine then
    (s.modPart w.part fun x => { x with answers := (x.answers.map fun (a : WalkAns) =>
        if mine a then { a with by_ := a.by_.filter (· != me) } else a).filter fun a => !a.by_.isEmpty },
     some (.error (4, 15)))
  else (s.askWalk w k va, none)

/-- The leaf for an address (R221 to R223): held in the buffer of the access, held in the TLB of its cluster, or found by a
walk. -/
def leafFor (s : State) (w : Who) (k : Acc) (va : Word) : State × Option (Except (Nat × Nat) (Word × Nat)) :=
  match s.tlbHit (buffer w va) w.part va with
  | some e => (s, some (.ok (e.leaf, e.log2)))
  | none =>
    match s.tlbHit (clusterTlb (coreCluster w.core)) w.part va with
    | some e => (s.tlbInstall (buffer w va) w.part va e.leaf e.log2, some (.ok (e.leaf, e.log2)))
    | none =>
      if (s.getPart w.part).ha then s.walkHost w k va
      else match s.walk w.part va with
        | .ok (leaf, low) => ((s.meterWalk w.part va).tlbFill w va leaf low, some (.ok (leaf, low)))
        | .error d => (s.meterWalk w.part va, some (.error d))

/-! ### The whole check of one access (R98, R195, R214, R215, R220, R251) -/

/-- Does a leaf allow the access (R220). -/
def leafAllows (k : Acc) (pl : Nat) (leaf : Word) : Bool :=
  (pl != 0 || leaf.getLsbD 5) && (match k with
    | .fetch => leaf.getLsbD 4
    | .load => leaf.getLsbD 2
    | .store => leaf.getLsbD 3
    | .amo => leaf.getLsbD 2 && leaf.getLsbD 3)

/-- Is a physical address unpopulated (R213, R214). -/
def unpopulated (s : State) (pa : Nat) : Bool :=
  s.region pa == .absent || (s.region pa == .dev && devReg pa == .absent)

/-- The check on the physical target (R214, R251, R381). An engine command meets an unpopulated target only when it reaches it
(R214, R259). -/
def physCheck (s : State) (w : Who) (k : Acc) (pa : Nat) : TRes :=
  match s.region pa with
  | .absent => if w.agent = 4 then .ok pa else .fault ⟨0x07, 7, 15⟩
  | .dev =>
    if w.agent = 4 && devReg pa == .absent then .ok pa
    else if !w.dev || k == .amo || k == .fetch || w.pl == 0 then .fault ⟨0x07, 7, 15⟩
    else if devReg pa == .absent || (w.pl == 1 && !s.reaches w.part (devReg pa)) then .fault ⟨0x07, 7, 15⟩
    else .ok pa
  | .host => if k == .amo then .fault ⟨0x07, 7, 15⟩ else .ok pa
  | .hbm | .tier2 | .spad => .ok pa

/-- The reservation of a task in a cluster, as (offset, size) (R194). -/
def reservation (s : State) (task cluster : Nat) : Option (Nat × Nat) :=
  (s.findTask task).bind fun t => (t.resv.find? fun r => r.1 == cluster).map (·.2)

/-- Translate and check one access (R215, R220). -/
def translate (s : State) (w : Who) (k : Acc) (va : Word) : State × TRes :=
  let a := va.toNat
  if w.pl = 2 then (s, s.physCheck w k a)
  else if apertureBase ≤ a && a < apertureBase + spadBytes then
    (s, if k == .fetch then .fault ⟨0x04, 6, 15⟩
        else match s.reservation w.task (coreCluster w.core) with
          | some r => if a - apertureBase < r.2 then
              .ok (spadBase + coreCluster w.core * spadBytes + r.1 + (a - apertureBase))
            else .fault ⟨0x07, 6, 15⟩
          | none => .fault ⟨0x07, 6, 15⟩)
  else if apertureBase ≤ a then (s, .fault ⟨k.pageCause, 2, 15⟩)
  else
    match s.leafFor w k va with
    | (s1, none) => (s1, .wait)
    | (s1, some (.error d)) => (s1, .fault ⟨k.pageCause, d.1, d.2⟩)
    | (s1, some (.ok (leaf, low))) =>
      if leafAllows k w.pl leaf then (s1, s1.physCheck w k (fieldNat leaf 17 31 * 2 ^ 17 / 2 ^ low * 2 ^ low + a % 2 ^ low))
      else (s1, .fault ⟨k.denyCause, 3, 15⟩)

/-- The scalar side of the core that moves, as an agent: an access that a trap has cut off waits for no answer any more (R223). -/
def scalarWho (s : State) (dev : Bool) : Who :=
  { core := s.cur, part := s.part, pl := s.pl, task := s.core.task.getD 0, agent := 1, dev := dev, id := 2 * s.core.era + 1 }

/-- PAGE_WALK (R219, R221, R222): a walk of the current core's partition completes; a translation fills the core's probe bank and
the TLB of its cluster, and an address without one installs nothing. -/
def pageWalk (s : State) (va : Word) : State :=
  if (s.getPart s.part).ha then s
  else match s.walk s.part va with
    | .ok (leaf, low) =>
      if va.toNat < apertureBase then (s.meterWalk s.part va).tlbFill (s.scalarWho false) va leaf low else s
    | .error _ => s.meterWalk s.part va

end State

end Sys2Proof.Machine
end

