-- ==== Sys2Proof/Machine/Slot.lean ====
section
/-! DEFINITION. Sys2Proof/Machine/Slot.lean: what every slot-A instruction shares (R16, R17, R25, R26, R33, R89, R90): pending
registers, the drain before a trap, and scalar accesses to memory. -/

namespace Sys2Proof.Machine

/-- The x register that an entry writes, 0 for none (R16). -/
def GOp.dest : GOp → Nat
  | .win _ a => a.xd
  | .kop op d _ _ _ _ => match op with
    | .pop | .first | .getl | .geth => d
    | .bound | .and | .or | .xor | .andn | .not | .mov | .set | .zero | .one => 0
  | .wrd xd _ | .crd _ xd | .slook _ xd | .sins _ _ xd => xd
  | .stream _ _ _ _ _ xd => xd
  | .barArrive _ _ xd => xd
  | .wset _ _ | .ofill _ _ _ | .copy _ _ | .gimage _ _ _ _ _ | .gls _ _ _ _ _ _ _ | .oacc _ | .cinc _ _ | .cwait _ _
  | .cset _ _ | .ipost _ _ | .iwait _ _ | .barInit _ _ | .barWait _ _ | .awin _ _ _ _ | .ascat _ _ _ _ | .amerge _
  | .arel _ | .sinv _ | .xfer _ _ _ _ | .xferb _ _ _ _ | .xdz _ _ _ _ | .dztab _ _ _ | .send _ _ _ _ | .recv _ _ _
  | .fence _ _ | .seal _ | .irrev _ | .halt | .gridReset => 0

/-- The entries of a core that have not completed (R15). -/
def Core.outstanding (c : Core) : List Entry := (c.flight ++ c.giq).filter fun e => !e.fin

/-- Is register `n` pending (R16). -/
def Core.pendingReg (c : Core) (n : Nat) : Bool := n != 0 && c.outstanding.any fun e => e.op.dest == n

/-- Have all GIQ entries retired (R17, R25). -/
def Core.drained (c : Core) : Bool := c.giq.isEmpty && c.flight.isEmpty

/-- Does a marker hold back later scalar loads, stores and AMOs (R241, R312). -/
def Core.scalarHeld (c : Core) : Bool :=
  c.outstanding.any fun e => match e.op with
    | .fence k _ => k == 1 || k == 3
    | .seal _ | .irrev _ => true
    | _ => false

/-- A run-ahead task whose grid-reset entry is still to come (R26): its memory and CSR accesses stall. -/
def Core.runAhead (c : Core) : Bool := c.prev.isSome || c.resetting

namespace State

/-- The instruction bits that TVAL receives (R33). -/
def rawBits (i : Instr) : Word := match i.encode with | some c => c.raw | none => 0

/-- A slot-A trap, after every earlier GIQ entry has drained (R25, R90): until then the instruction waits. -/
def trapA (s : State) (code : Nat) (tval : Word) : Out := if s.core.drained then s.trap code tval else .next s

/-- The same for a page or protection fault that translation found on the way from `s` to `s1`, with its record. An instruction that still
waits for the drain leaves the machine as it was, and a host's answer that there is no translation stays for it (R223). -/
def trapPageA (s s1 : State) (va : Word) (f : PFault) : Out := if s1.core.drained then s1.trapPage 1 va f else .next s

/-- The same for poison: RESTIDX := 0 (R98, R331). -/
def trapPoisonA (s : State) (va : Word) : Out :=
  if s.core.drained then (s.updCore fun c => { c with restidx := 0 }).trap 0x0C va else .next s

/-- An illegal instruction (cause 0x01). -/
def illegal (s : State) (i : Instr) : Out := s.trapA 0x01 (rawBits i)

/-- A slot-A instruction that reads or writes the given registers: it stalls while one is pending (R16). -/
def slotA (s : State) (rs : List Reg) (k : State → Out) : Out :=
  if rs.any fun r => s.core.pendingReg r.toNat then .next s else k s

/-- A slot-A instruction that writes one register and moves on. -/
def slotAWrite (s : State) (rs : List Reg) (d : Reg) (v : Word) (len : Nat) : Out :=
  s.slotA (d :: rs) fun s => .next ((s.setReg d v).advance len)

/-- The virtual address of the first poisoned unit of an access (R104, R331). -/
def poisonVa (s : State) (va : Word) (pa n : Nat) : Word :=
  let u := ((unitsOf (poisonUnit (s.region pa)) pa n).find? s.poisoned).getD pa
  if u ≤ pa then va - BitVec.ofNat 64 (pa - u) else va + BitVec.ofNat 64 (u - pa)

/-- Extend `n` loaded bytes (R40, R97). -/
def extend (sgn : Bool) (n v : Nat) : Word :=
  if sgn then BitVec.ofInt 64 (signedNat (8 * n) v) else BitVec.ofNat 64 v

/-- The scalar stores of the core that are not yet performed are performed in order, up to one that waits for capacity (R99,
R309). -/
def landStores (s : State) : List StoreWait → State
  | [] => s.updCore fun c => { c with sbuf := [] }
  | w :: rest =>
    let wr := s.storeWr s.cur w
    if s.writeStalls wr w.pa w.bytes.length then (s.setLstall w.part).updCore fun c => { c with sbuf := w :: rest }
    else (s.write wr w.pa w.bytes).landStores rest

/-- Perform every scalar store of the core that waits: what follows is ordered behind them (R99, R237, R250). -/
def landAll (s : State) : State := if s.core.sbuf.isEmpty then s else s.landStores s.core.sbuf

/-- Does a scalar store wait that comes before place `ord` in program order (R241). -/
def storesBefore (s : State) (ord : Nat) : Bool := s.core.sbuf.any fun w => decide (w.ord ≤ ord)

/-- Perform the scalar stores of the core that come before place `ord` in program order; later ones stay behind them (R241). -/
def landBefore (s : State) (ord : Nat) : State :=
  if s.storesBefore ord then
    let after := s.core.sbuf.filter fun w => decide (ord < w.ord)
    (s.landStores (s.core.sbuf.filter fun w => decide (w.ord ≤ ord))).updCore fun c => { c with sbuf := c.sbuf ++ after }
  else s

/-- Does a store that waits touch the granules of an access. -/
def behindStore (s : State) (pa n : Nat) : Bool :=
  s.core.sbuf.any fun w => decide (w.pa / 64 * 64 < pa + n) && decide (pa < (w.pa + w.bytes.length + 63) / 64 * 64)

/-- The same when one of them touches the granules of a relaxed atomic, which may come before the others (R234, R237). -/
def landFor (s : State) (pa n : Nat) : State :=
  if s.behindStore pa n then s.landAll else s

/-- The data of a scalar read that passed its checks: device registers, or memory (R97, R214). -/
def scalarData (s : State) (pa n : Nat) : Nat := if s.region pa == .dev then s.devLoad pa n else s.readNat pa n

/-- The writes of the core's own grid side and engine commands that a load of a range may come before, oldest first, each with the bytes of the
range that it replaced (R246). -/
def olderOf (s : State) (pa n : Nat) : List (List (Nat × Byte)) :=
  (s.core.older.map fun e => e.filter fun p => decide (pa ≤ p.1) && decide (p.1 < pa + n)).filter fun e => !e.isEmpty

/-- The bytes of a range before some of those writes: of each byte, what the first of them replaced. -/
def olderData (s : State) (pa n : Nat) (ws : List (List (Nat × Byte))) : Nat :=
  fromLE ((s.readBytes pa n).mapIdx fun i b =>
    match ws.flatten.find? fun p => p.1 == pa + i with
    | some p => p.2
    | none => b)

/-- A load has read past the first `k` writes to its range: no later load of those bytes comes before them (R234). -/
def readPast (pa n : Nat) : Nat → List (List (Nat × Byte)) → List (List (Nat × Byte))
  | 0, es => es
  | _, [] => []
  | k + 1, e :: es =>
    let out := e.filter fun p => !(decide (pa ≤ p.1) && decide (p.1 < pa + n))
    if out.length = e.length then e :: readPast pa n (k + 1) es
    else if out.isEmpty then readPast pa n k es else out :: readPast pa n k es

/-- The data of a scalar load in the paced mode, and the machine after it (R234, R246, R415): a load may come before any of its core's own
grid-side and engine writes to its range that nothing has ordered before it (assumption log 30). -/
def loadData (s : State) (pa n : Nat) : State × Nat :=
  if s.lagLoads && !(s.olderOf pa n).isEmpty then
    let k := Config.olderPick s.free % ((s.olderOf pa n).length + 1)
    (s.tickFree.updCore fun c => { c with older := readPast pa n k c.older }, s.olderData pa n ((s.olderOf pa n).drop k))
  else (s, s.scalarData pa n)

/-- A load's data returns (R89, R98): poison traps, otherwise the register is written. -/
def loadReturn (s : State) (d : Reg) (va : Word) (pa n : Nat) (sgn : Bool) (len : Nat) : Out :=
  if s.poisonedRange pa n then s.trapPoisonA (s.poisonVa va pa n)
  else
    let r := s.loadData pa n
    .next (((r.1.meterMem s.part pa n 0).setReg d (extend sgn n r.2)).advance len)

/-- A scalar load (R97, R98), behind every earlier store of the core (R24, R99). -/
def load (s : State) (d : Reg) (va : Word) (n : Nat) (sgn : Bool) (len : Nat) : Out :=
  if s.core.scalarHeld || s.core.runAhead then .next s
  else if va.toNat % n ≠ 0 then s.trapA 0x03 va
  else
    match s.translate (s.scalarWho (n == 8 || n == 4)) .load va with
    | (s1, .wait) => .next s1
    | (s1, .fault f) => s.trapPageA s1 va f
    | (s1, .ok pa) =>
      let s2 := s1.landAll
      if !s2.core.sbuf.isEmpty then .next s2
      else if s2.lagLoads then .next (s2.updCore fun c => { c with load := some ⟨d.toNat, va, pa, n, sgn, len⟩ })
      else s2.loadReturn d va pa n sgn len

/-- Is a write to an address held until its interval commits (R319, R320). -/
def holds (s : State) (w : Wr) (pa : Nat) : Bool := w.hold && s.region pa == .host

/-- A checked scalar store to memory is issued: it is performed at once, or waits in the paced mode (R237, R306). A held one enters the
hold buffer in the order of issue (R237, R320). -/
def storeIssue (s : State) (va : Word) (pa n : Nat) (v : Word) (len : Nat) : Out :=
  if s.lost pa then s.trapPoisonA (s.poisonVa va pa n)
  else if s.writeStalls s.writer pa n then .next (s.setLstall s.part)
  else if s.lagStores && !s.holds s.writer pa then
    .next ((s.updCore fun c =>
      { c with sbuf := c.sbuf ++ [⟨s.nextCmd, pa, leBytes n v.toNat, s.writer.part,
                                   if s.memberCore s.cur then some s.writer.rin else none, s.writer.hold⟩] }).advance len)
  else .next ((s.write s.writer pa (leBytes n v.toNat)).advance len)

/-- A scalar store of the low `n` bytes of a value (R97, R98, R214). A store to a device register is performed behind the earlier
ones. -/
def store (s : State) (va : Word) (n : Nat) (v : Word) (len : Nat) : Out :=
  if s.core.scalarHeld || s.core.runAhead then .next s
  else if va.toNat % n ≠ 0 then s.trapA 0x03 va
  else
    match s.translate (s.scalarWho (n == 8 || n == 4)) .store va with
    | (s1, .wait) => .next s1
    | (s1, .fault f) => s.trapPageA s1 va f
    | (s1, .ok pa) =>
      if s1.region pa == .dev then
        if !s1.landAll.core.sbuf.isEmpty then .next s1.landAll
        else
          match s1.landAll.devStore pa n v.toNat with
          | (s2, true) => .next (s2.advance len)
          | (s2, false) => .next s2
      else s1.storeIssue va pa n v len

end State

end Sys2Proof.Machine
end

