-- ==== Sys2Proof/Machine/Atomic.lean ====
section
/-! DEFINITION. Sys2Proof/Machine/Atomic.lean: the atomic memory operations (R41, R248 to R253). -/

namespace Sys2Proof

/-- The width in bytes of an atomic (R41, R249). -/
def AmoF.n (f : AmoF) : Nat := if f.width = 1 then 8 else 4

/-- Is the atomic relaxed (R237, R250): it may be performed before an earlier store. -/
def AmoF.relaxed (f : AmoF) : Bool := f.order == 0

end Sys2Proof

namespace Sys2Proof.Machine

/-- The value that xd receives when it is not the status of sc: the old value, sign-extended for .w (R249). -/
def amoOld (n old : Nat) : Word := State.extend (n == 4) n old

/-- The reservation that an access names: its aligned 64-byte granule and width (R252). -/
def resvOf (pa n : Nat) : Nat × Nat := (pa / 64 * 64, n)

/-- The tail of every AMO once its access is checked: the value `new` is stored if there is one, the reservation becomes
`resv` (unless it is kept) and xd receives `res` (R249, R252). -/
def State.amoFinish (s : State) (f : AmoF) (pa : Nat) (new : Option Nat) (resv : Option (Option (Nat × Nat))) (res : Word) :
    Out :=
  let fin (t : State) : Out :=
    let t1 := match resv with
      | some r => t.updCore fun c => { c with resv := r }
      | none => t
    .next (((t1.meterMem t1.part pa f.n 0).setReg f.d res).advance 4)
  match new with
  | none => fin s
  | some v =>
    if s.writeStalls s.writer pa f.n then .next (s.setLstall s.part)
    else fin (s.write s.writer pa (leBytes f.n v))

/-- An atomic reads memory as it stands, and so does every later load (R99, R246): where loads are paced, the older bytes go. -/
def State.orderLoads (s : State) : State := if s.lagLoads then s.dropOlder else s

/-- The checks of an AMO in the order of R251, then `k` on the checked address. A relaxed one comes behind
the earlier stores to its granule, any other behind all of them (R99, R237, R250). -/
def State.amoAccess (s : State) (f : AmoF) (k : State → Nat → Out) : Out :=
  s.slotA [f.a, f.b, f.d] fun s =>
    let va := s.reg f.a
    if s.core.scalarHeld || s.core.runAhead then .next s
    else if va.toNat % f.n ≠ 0 then s.trapA 0x03 va
    else
      match s.translate (s.scalarWho false) .amo va with
      | (s1, .wait) => .next s1
      | (s1, .fault e) => s.trapPageA s1 va e
      | (s1, .ok pa) =>
        let s2 := (if f.relaxed then s1.landFor pa f.n else s1.landAll).orderLoads
        if if f.relaxed then s2.behindStore pa f.n else !s2.core.sbuf.isEmpty then .next s2
        else if s2.poisonedRange pa f.n then s2.trapPoisonA (s2.poisonVa va pa f.n) else k s2 pa

/-- A read-modify-write AMO: `g` gives the new value from the old one and the operand, in 8n bits (R249). -/
def State.amoRmw (s : State) (f : AmoF) (g : Nat → Nat → Nat → Nat) : Out :=
  s.amoAccess f fun s pa =>
    let old := s.readNat pa f.n
    s.amoFinish f pa (some (g f.n old ((s.reg f.b).toNat % 2 ^ (8 * f.n)))) none (amoOld f.n old)


def execAmoadd (f : AmoF) (s : State) : Out := s.amoRmw f fun n a b => (a + b) % 2 ^ (8 * n)
def execAmoand (f : AmoF) (s : State) : Out := s.amoRmw f fun _ a b => a &&& b
def execAmoor (f : AmoF) (s : State) : Out := s.amoRmw f fun _ a b => a ||| b
def execAmoxor (f : AmoF) (s : State) : Out := s.amoRmw f fun _ a b => a ^^^ b
def execAmomin (f : AmoF) (s : State) : Out := s.amoRmw f fun n a b => if signedNat (8 * n) b < signedNat (8 * n) a then b else a
def execAmomax (f : AmoF) (s : State) : Out := s.amoRmw f fun n a b => if signedNat (8 * n) a < signedNat (8 * n) b then b else a
def execAmominn (f : AmoF) (s : State) : Out := s.amoRmw f fun _ a b => if b < a then b else a
def execAmomaxn (f : AmoF) (s : State) : Out := s.amoRmw f fun _ a b => if a < b then b else a
def execAmoswap (f : AmoF) (s : State) : Out := s.amoRmw f fun _ _ b => b

/-- cas compares with the low bytes of xd and stores xs2 when equal; xd receives the old value (R249). -/
def execCas (f : AmoF) (s : State) : Out :=
  s.amoAccess f fun s pa =>
    let old := s.readNat pa f.n
    let new := if old = (s.reg f.d).toNat % 2 ^ (8 * f.n) then some ((s.reg f.b).toNat % 2 ^ (8 * f.n)) else none
    s.amoFinish f pa new none (amoOld f.n old)

/-- lr reads and reserves the granule at its width (R249, R252). -/
def execLr (f : AmoF) (s : State) : Out :=
  s.amoAccess f fun s pa => s.amoFinish f pa none (some (some (resvOf pa f.n))) (amoOld f.n (s.readNat pa f.n))

/-- sc stores when the reservation of its granule and width holds; xd is 0 stored, 1 not stored; the reservation ends
(R249, R252). -/
def execSc (f : AmoF) (s : State) : Out :=
  s.amoAccess f fun s pa =>
    let holds := s.core.resv == some (resvOf pa f.n)
    let new := if holds then some ((s.reg f.b).toNat % 2 ^ (8 * f.n)) else none
    s.amoFinish f pa new (some none) (if holds then 0 else 1)

end Sys2Proof.Machine
end

