-- ==== Sys2Proof/Machine/Entropy.lean ====
section
/-! DEFINITION. Sys2Proof/Machine/Entropy.lean: the Wirvale entropy-coded blocks and their code tables (R268 to R273). -/

namespace Sys2Proof.Machine

/-- A valid code table: the code length of each of the 271 symbols, 0 for an absent one (R273). -/
abbrev CodeTable := List Nat

/-- A little-endian field of a byte string. -/
def leField (bs : List Byte) (off n : Nat) : Nat := fromLE ((bs.drop off).take n)

def allZero (bs : List Byte) : Bool := bs.all (· == 0)

/-- The code lengths of a valid table image of 320 bytes; none when the image is invalid (R273). -/
def parseTable (img : List Byte) : Option CodeTable :=
  let lens := ((img.drop 16).take 271).map (·.toNat)
  let present := lens.filter (· != 0)
  let kraft := present.foldl (fun acc l => acc + 2 ^ (15 - l)) 0
  if img.length == 320 && leField img 0 4 == 0x31544457 && leField img 4 1 == 1 && allZero ((img.drop 5).take 11)
    && lens.all (· ≤ 15) && allZero ((img.drop 287).take 29) && leField img 316 4 == crc32c (img.take 316)
    && (kraft == 32768 || present == [1])
  then some lens else none

/-- The symbols of one length, ascending, with their codes from `code` up. -/
def codesOfLen (len : Nat) : List (Nat × Nat) → Nat → List (Nat × Nat × Nat) × Nat
  | [], code => ([], code)
  | (s, l) :: r, code =>
    if l == len then
      let t := codesOfLen len r (code + 1)
      ((s, len, code) :: t.1, t.2)
    else codesOfLen len r code

/-- Canonical codes as (symbol, length, code), taken in ascending (length, symbol) (R273): moving from one length to
the next multiplies the next code by 2 for each bit. -/
def codesFrom (syms : List (Nat × Nat)) : Nat → Nat → Nat → List (Nat × Nat × Nat)
  | 0, _, _ => []
  | k + 1, len, code =>
    let t := codesOfLen len syms code
    t.1 ++ codesFrom syms k (len + 1) (2 * t.2)

def canonicalCodes (lens : CodeTable) : List (Nat × Nat × Nat) :=
  codesFrom ((lens.mapIdx fun s l => (s, l)).filter fun p => p.2 != 0) 15 1 0

/-- The bits of a coded string in reading order: bit q is bit (q mod 8) of byte q / 8 (R270). -/
def bitsOf (bs : List Byte) : List Bool :=
  (bs.map fun b => (List.range 8).map fun i => b.getLsbD i).flatten

/-- Read one symbol, most significant code bit first: the symbol and the remaining bits (R270). -/
def readSym (codes : List (Nat × Nat × Nat)) : Nat → Nat → Nat → List Bool → Option (Nat × List Bool)
  | 0, _, _, _ => none
  | _, _, _, [] => none
  | fuel + 1, len, code, b :: r =>
    let code' := 2 * code + natOfBool b
    match codes.find? fun c => c.2.1 == len + 1 && c.2.2 == code' with
    | some c => some (c.1, r)
    | none => readSym codes fuel (len + 1) code' r

/-- Decode until `need` bytes are emitted (R270): the bytes in order, or none when the image is malformed. `acc` holds the
bytes emitted so far, last first. -/
def decodeSyms (codes : List (Nat × Nat × Nat)) : Nat → Nat → List Byte → List Bool → Option (List Byte)
  | 0, need, acc, bs => if need == 0 && bs.all (!·) then some acc.reverse else none
  | fuel + 1, need, acc, bs =>
    if need == 0 then (if bs.all (!·) then some acc.reverse else none)
    else
      match readSym codes 15 0 0 bs with
      | none => none
      | some (s, r) =>
        if s < 256 then decodeSyms codes fuel (need - 1) (BitVec.ofNat 8 s :: acc) r
        else
          let run := 2 ^ (s - 256 + 1)
          if run > need then none else decodeSyms codes fuel (need - run) (List.replicate run 0 ++ acc) r

/-- A block header (R268). -/
structure BlockHdr where
  magicOk : Bool
  table : Nat
  fmt   : Nat
  last  : Bool
  dlen  : Nat
  clen  : Nat
  crc   : Nat
deriving DecidableEq, Repr

/-- Read a header from its 32 bytes; `magicOk` is check 1 of R271. -/
def parseHdr (h : List Byte) : BlockHdr :=
  let table := leField h 5 1
  let fmt := leField h 6 1
  let flags := leField h 7 1
  let dlen := leField h 8 4
  let clen := leField h 12 4
  { magicOk := leField h 0 4 == 0x315A4457 && leField h 4 1 == 1 && table < 4 && fmt < 28 && flags < 2
      && dlen != 0 && dlen ≤ 65536 && clen != 0 && allZero ((h.drop 20).take 12)
    table := table % 4, fmt := fmt, last := flags % 2 == 1, dlen := dlen, clen := clen, crc := leField h 16 4 }

/-- Where the header of the next block lies, from this one's (R269). -/
def BlockHdr.span (h : BlockHdr) : Nat := 32 + 32 * ((h.clen + 31) / 32)

/-- Checks 2 to 6 of R271 on a block whose header passed check 1, with the table the id names: the decoded image, or the
cause of the first failure. `expect` is none when any format is accepted. -/
def decodeBlock (h : BlockHdr) (expect : Option Nat) (ratio : Nat) (table : Option CodeTable) (coded : List Byte) :
    Except Nat (List Byte) :=
  if (match expect with | some f => f != h.fmt | none => false) then .error 0x08
  else if h.dlen > ratio * h.clen then .error 0x0A
  else
    match table with
    | none => .error 0x0B
    | some t =>
      match decodeSyms (canonicalCodes t) (h.dlen + 1) h.dlen [] (bitsOf coded) with
      | none => .error 0x0B
      | some img => if crc32c img == h.crc then .ok img else .error 0x0B

end Sys2Proof.Machine
end

