-- ==== Sys2Proof/Machine/GridOps.lean ====
section
/-! DEFINITION. Sys2Proof/Machine/GridOps.lean: what the grid side computes on its own state: masks (R135), copies (R127),
grid images (R128), the cells of an outer-product step (R76, R77, R183, R184), absent rows (R125) and merging flags (R84);
and the results that running an entry can have. -/

namespace Sys2Proof.Machine

/-- What one unit of an entry's work gives: more to do, completion, a wait with the progress made, or a fault. -/
inductive RunRes where
  | more (e : Entry)
  | done (e : Entry)
  | wait (e : Entry)
  | fault (e : Entry) (f : GFault)
deriving DecidableEq, Repr

/-! ### Masks (R135) -/

/-- The mask that a mask instruction writes, from its source masks and captured registers. -/
def kopMask (op : KOp) (a b : Mask) (x y : Word) : Mask :=
  match op with
  | .bound => maskOf fun j => decide (x.toInt + j < y.toInt)
  | .and => a &&& b
  | .or => a ||| b
  | .xor => a ^^^ b
  | .andn => a &&& ~~~b
  | .not => ~~~a
  | .mov => a
  | .set => y ++ x
  | .zero => 0
  | .one => BitVec.allOnes 128
  | .pop | .first | .getl | .geth => 0

/-- The register value of the mask instructions with an x destination. -/
def kopWord (op : KOp) (a : Mask) : Word :=
  match op with
  | .pop => BitVec.ofNat 64 (countBits a.toNat 128)
  | .first => BitVec.ofNat 64 ((lowestBit a.toNat 128 0).getD 128)
  | .getl => bits a 0 64
  | .geth => bits a 64 64
  | _ => 0

/-- Does the instruction write an x register instead of a mask. -/
def KOp.toReg : KOp → Bool
  | .pop | .first | .getl | .geth => true
  | _ => false

/-! ### Copies (R127) -/

/-- The origins, sizes and halves of a copy in cells: (dst half, src half, rows, cols, dst row, dst col, src row, src col). -/
structure CopyBox where
  dh : Nat
  sh : Nat
  n  : Nat
  m  : Nat
  dr : Nat
  dc : Nat
  sr : Nat
  sc : Nat
deriving DecidableEq, Repr

def copyBox (f : CopyF) : CopyBox :=
  { dh := f.dh.toNat, sh := f.sh.toNat, n := 8 * (f.rows.toNat + 1), m := 8 * (f.cols.toNat + 1),
    dr := 8 * f.dr.toNat, dc := 8 * f.dc.toNat, sr := 8 * f.sr.toNat, sc := 8 * f.sc.toNat }

/-- Do both rectangles lie within their halves (R127). -/
def copyOk (tr : Bool) (f : CopyF) : Bool :=
  let b := copyBox f
  decide (b.sr + b.n ≤ 128) && decide (b.sc + b.m ≤ 128)
    && decide (b.dr + (if tr then b.m else b.n) ≤ 128) && decide (b.dc + (if tr then b.n else b.m) ≤ 128)

/-- gcopy and gtrans: every read before any write (R127). -/
def copyGrid (tr : Bool) (f : CopyF) (g : Grid) : Grid :=
  let b := copyBox f
  let rows := if tr then b.m else b.n
  let cols := if tr then b.n else b.m
  (List.range rows).foldl (fun acc i =>
    acc.writeRow b.dh (b.dr + i) fun c =>
      if b.dc ≤ c && c < b.dc + cols then
        some (if tr then g.cell b.sh (b.sr + (c - b.dc)) (b.sc + i) else g.cell b.sh (b.sr + i) (b.sc + (c - b.dc)))
      else none) g

/-- One vector of ofill (R126). -/
def fillVec (w : Window) (m : Mask) (v : Cell) (g : Grid) (k : Nat) : Grid :=
  w.write g k fun j => if active m j then some v else none

/-! ### Grid images (R128 to R130) -/

/-- The 512 bytes of a row: zero for an invalid row (R129). -/
def rowImage (g : Grid) (half r : Nat) : List Byte :=
  ((List.range 128).map fun c => leBytes 4 (g.cell half r c).toNat).flatten

/-- The 64-byte header of an image. -/
def imageHeader (g : Grid) (half first n : Nat) : List Byte :=
  leBytes 16 (packBits 1 ((List.range n).map fun i => natOfBool (g.row half (first + i)).valid))
    ++ [BitVec.ofNat 8 half, BitVec.ofNat 8 first, BitVec.ofNat 8 (n - 1)] ++ List.replicate 45 0

/-- A row as an image holds it: the cells of 512 bytes. -/
def cellsOf (bs : List Byte) : Vector Cell 128 :=
  Vector.ofFn fun c : Fin 128 => BitVec.ofNat 32 (fromLE ((bs.drop (4 * c.val)).take 4))

/-- Restore a row from an image (R124, R130): valid and dirty with the image's cells, or invalid and dirty. -/
def restoreRow (g : Grid) (half r : Nat) (valid : Bool) (bs : List Byte) : Grid :=
  g.setRow half r (if valid then { valid := true, dirty := true, absent := false, cells := cellsOf bs }
    else { GridRow.init with dirty := true })

/-! ### Outer-product steps (R76, R77, R183, R184) -/

/-- The accumulation state of one cell over the products of a step (R76). -/
structure Acc76 where
  nan : Bool
  pos : Bool
  neg : Bool
  nv  : Bool
  num : Int
  ex  : Int
  any : Bool
deriving DecidableEq, Repr

/-- Add an exact product to the exact sum. -/
def addProd (s : Int × Int) (neg : Bool) (m : Nat) (e : Int) : Int × Int :=
  let lo := if s.2 ≤ e then s.2 else e
  let a := s.1 * (2 ^ (s.2 - lo).toNat : Nat)
  let b : Int := ((m * 2 ^ (e - lo).toNat : Nat) : Int)
  (a + (if neg then -b else b), lo)

/-- One product of a float step (R76). -/
def addPair (t : Acc76) (a b : FV) : Acc76 :=
  if a.isNaN || b.isNaN then { t with nan := true, any := true }
  else if (a.isInf && b.isZero) || (b.isInf && a.isZero) then { t with nan := true, nv := true, any := true }
  else if a.isInf || b.isInf then
    if a.isNeg != b.isNeg then { t with neg := true, any := true } else { t with pos := true, any := true }
  else
    match a, b with
    | .fin n1 m1 e1, .fin n2 m2 e2 =>
      let s := addProd (t.num, t.ex) (n1 != n2) (m1 * m2) (e1 + e2)
      { t with num := s.1, ex := s.2, any := true }
    | _, _ => t

/-- The new f32 cell and its flags after one step's products (R76). -/
def floatCell (c : Cell) (ps : List (FV × FV)) : Cell × Fl :=
  let x := fmtF32.decode c.toNat
  let t := ps.foldl (fun t p => addPair t p.1 p.2)
    { nan := x.isNaN, pos := x == .inf false, neg := x == .inf true, nv := false, num := 0, ex := 0, any := false }
  if !t.any then (c, {})
  else
    let nv := t.nv || (t.pos && t.neg && !x.isNaN)
    if t.nan || (t.pos && t.neg) then (0x7FC0_0000, { nv := nv })
    else if t.pos then (0x7F80_0000, { nv := nv })
    else if t.neg then (0xFF80_0000, { nv := nv })
    else if t.num = 0 then (c, { nv := nv })
    else
      let r := roundTo fmtF32 .ieee .rne false
        (match x with
          | .fin n m e => addFV .rne (.fin n m e) (.fin (decide (t.num < 0)) t.num.natAbs t.ex)
          | y => y.exact)
      (BitVec.ofNat 32 r.1, { r.2 with nv := r.2.nv || nv })

/-- The new i32 cell and its flags (R77). -/
def intCell (c : Cell) (ps : List (Int × Int)) : Cell × Fl :=
  let v := c.toInt + (ps.map fun p => p.1 * p.2).sum
  if ps.isEmpty then (c, {}) else (BitVec.ofInt 32 v, { iov := decide (v < -(2 ^ 31 : Nat)) || decide ((2 ^ 31 : Nat) ≤ v) })

/-- The products of two operand lists by k-offset: an absent value gives none (R76, R171). -/
def pairsF : List (Option OVal) → List (Option OVal) → List (FV × FV)
  | some (.f a) :: as, some (.f b) :: bs => (a, b) :: pairsF as bs
  | _ :: as, _ :: bs => pairsF as bs
  | _, _ => []

def pairsI : List (Option OVal) → List (Option OVal) → List (Int × Int)
  | some (.i a) :: as, some (.i b) :: bs => (a, b) :: pairsI as bs
  | _ :: as, _ :: bs => pairsI as bs
  | _, _ => []

/-- The rectangle of an oacc: first row, rows, first column, columns (R49). -/
def oaccRect (f : OaccF) : Nat × Nat × Nat × Nat :=
  (8 * f.rorg.toNat, 8 * (f.rows.toNat + 1), 8 * f.corg.toNat, 8 * (f.cols.toNat + 1))

/-- Apply one step to the rectangle (R184): operands by row and by column; `clr` is the clear of step 0. -/
def stepGrid (f : OaccF) (isInt clr : Bool) (a b : Nat → List (Option OVal)) (g : Grid) (r : FlagRec) : Grid × FlagRec :=
  let (r0, nr, c0, nc) := oaccRect f
  (List.range nr).foldl (fun (p : Grid × FlagRec) i =>
    let row := r0 + i
    let av := a row
    let cells := (List.range nc).map fun j =>
      let old : Cell := if clr then 0 else g.cell f.half.toNat row (c0 + j)
      if isInt then intCell old (pairsI av (b (c0 + j))) else floatCell old (pairsF av (b (c0 + j)))
    let rec_ := (cells.foldl (fun (q : Nat × FlagRec) x => (q.1 + 1, q.2.add x.2.oaccOnly row (c0 + q.1))) (0, {})).2
    (p.1.writeRow f.half.toNat row fun c => if c0 ≤ c && c < c0 + nc then (cells[c - c0]?).map (·.1) else none,
     p.2.then_ rec_)) (g, r)

/-- A grid-sourced operand cell (R183): f32 is rounded to bf16. -/
def gridOperand (f : OFmt) (c : Cell) : Option OVal :=
  match f with
  | .f32 => some (.f (fmtBf16.decode (roundTo fmtBf16 .ieee .rne false (fmtF32.decode c.toNat).exact).1))
  | .f19 => some (.f (fmtF19.decode (c.toNat >>> 13)))
  | .bf16 => some (.f (fmtBf16.decode (c.toNat % 2 ^ 16)))
  | .f16 => some (.f (fmtF16.decode (c.toNat % 2 ^ 16)))
  | .i16 => some (.i (signedNat 16 (c.toNat % 2 ^ 16)))
  | _ => none

/-- The formats that a grid side may have (R183). -/
def gridFmtOk (f : OFmt) : Bool :=
  match f with
  | .f32 | .f19 | .bf16 | .f16 | .i16 => true
  | _ => false

/-- The two formats of an oacc (R70); well-formed fields name one each. -/
def oaccFmts (f : OaccF) : OFmt × OFmt :=
  ((OFmt.ofCode f.aFmt.toNat).getD .f32, (OFmt.ofCode f.bFmt.toNat).getD .f32)

/-- Are the operands of an oacc legal at dispatch (R49, R74, R75, R185). -/
def oaccOk (f : OaccF) : Bool :=
  let (a, b) := oaccFmts f
  let ga := f.aSrc.toNat == 1
  let gb := f.bSrc.toNat == 1
  let a' := if ga && a == .f32 then OFmt.bf16 else a
  let b' := if gb && b == .f32 then OFmt.bf16 else b
  let (r0, nr, c0, nc) := oaccRect f
  decide (r0 + nr ≤ 128) && decide (c0 + nc ≤ 128) && !b.isSparse && a'.pairs b'
    && (!ga || gridFmtOk a) && (!gb || gridFmtOk b) && !(a.isSparse && gb) && !(a == .spbf16 && f.steps.toNat % 2 == 0)

/-! ### Flags (R83, R84) -/

/-- Merge the flags of an entry into FLAGS and EIDX (R83, R84). -/
def Core.mergeFlags (c : Core) (oacc : Bool) (r : FlagRec) : Core :=
  let fl := c.flags.toNat
  { c with
    eidxNv := eidxNext (bitNat fl 4) r.fl.nv oacc r.nv c.eidxNv
    eidxDz := eidxNext (bitNat fl 3) r.fl.dz oacc r.dz c.eidxDz
    eidxOf := eidxNext (bitNat fl 2) r.fl.ov oacc r.ov c.eidxOf
    eidxUf := eidxNext (bitNat fl 1) r.fl.uf oacc r.uf c.eidxUf
    eidxSat := eidxNext (bitNat fl 5) r.fl.sat oacc r.sat c.eidxSat
    flags := c.flags ||| BitVec.ofNat 64 r.fl.toNat }

def GOp.isOacc : GOp → Bool
  | .oacc _ => true
  | _ => false

/-! ### Absent rows (R125, R373) -/

/-- The address of a row in the core frame (R371). -/
def frameRow (frame half r : Nat) : Nat := frame + (if half = 0 then 0x2_4000 else 0x3_4040) + 64 + 512 * r

namespace State

/-- Fetch an absent row from the core frame (R124, R125). A poisoned line of it goes to the entry that needs the row, as cause 0x0C
(R331); the frame has no virtual address, so TVAL is the line's physical one (assumption log 58). -/
def fetchRow (s : State) (half r : Nat) : State × Option GFault :=
  if (s.core.grid.row half r).absent then
    match s.core.frame with
    | some fr =>
      let pa := frameRow fr half r
      (match (unitsOf 256 pa 512).find? s.poisoned with
        | some line => (s, some { code := 0x0C, tval := BitVec.ofNat 64 line })
        | none =>
          let row : GridRow := { valid := true, dirty := false, absent := false, cells := cellsOf (s.readBytes pa 512) }
          ((s.meterMem s.part pa 512 0).updCore fun c => { c with grid := c.grid.setRow half r row }, none))
    | none => (s, none)
  else (s, none)

/-- Fetch every absent row among some rows, numbered half × 128 + row, up to a poisoned one (R125). -/
def fetchRows (s : State) : List Nat → State × Option GFault
  | [] => (s, none)
  | k :: rest =>
    match s.fetchRow (k / 128) (k % 128) with
    | (s1, none) => s1.fetchRows rest
    | r => r

/-- A grid-side agent of the core that moves (R230). -/
def gridWho (s : State) (pl agent : Nat) : Who :=
  { core := s.cur, part := s.part, pl := pl, task := s.core.gridTaskId, agent := agent, dev := false }

/-- A GIQ entry of the core that moves as an agent: 2 for its own accesses, 4 for the probe of a command (R230, R264). -/
def entryWho (s : State) (e : Entry) (agent : Nat) : Who := { s.gridWho e.pl agent with id := e.ord + 1 }

/-- A grid-side access of `n` bytes: misaligned, translation, protection (R203); poison is the caller's. -/
def gridAccess (s : State) (w : Who) (k : Acc) (va : Word) (n : Nat) : State × Except (Option GFault) Nat :=
  if va.toNat % n ≠ 0 then (s, .error (some { code := 0x03, tval := va }))
  else
    match s.translate w k va with
    | (s1, .ok pa) => (s1, .ok pa)
    | (s1, .fault f) => (s1, .error (some { code := f.cause, tval := va, page := some (w.agent, f) }))
    | (s1, .wait) => (s1, .error none)

end State

end Sys2Proof.Machine
end

