-- ==== Sys2Proof/Machine/Streams.lean ====
section
/-! DEFINITION. Sys2Proof/Machine/Streams.lean: reads over several pages, entropy-coded blocks as an agent reads them (R269,
R271, R273), stream specs (R172, R173, R179) and forming and placing the entries of a stream (R170, R171, R174 to R180). -/

namespace Sys2Proof.Machine

/-! ### Reads over pages -/

/-- The lowest address of each 128 KiB page among some addresses, pages ascending. -/
def pageHeads (addrs : List Nat) : Sp Nat :=
  addrs.foldl (fun m a =>
    let p := a / 2 ^ 17
    match m.find? fun e => e.1 == p with
    | some e => if a < e.2 then Sp.ins (Sp.del m p) p a else m
    | none => Sp.ins m p a) []

namespace State

/-- Translate one address per page, lowest first (R180, R264): the physical base of each page, the first fault, or a wait. -/
def mapPages (s : State) (w : Who) (k : Acc) : List (Nat × Nat) → State × Except (Option (Nat × PFault)) (List (Nat × Nat))
  | [] => (s, .ok [])
  | (p, a) :: rest =>
    match s.translate w k (BitVec.ofNat 64 a) with
    | (s1, .ok pa) =>
      match s1.mapPages w k rest with
      | (s2, .ok m) => (s2, .ok ((p, pa - a % 2 ^ 17) :: m))
      | (s2, .error e) => (s2, .error e)
    | (s1, .fault f) => (s1, .error (some (a, f)))
    | (s1, .wait) => (s1, .error none)

end State

/-- The physical address of a mapped virtual one. -/
def mapped (m : List (Nat × Nat)) (a : Nat) : Nat :=
  match m.find? fun e => e.1 == a / 2 ^ 17 with
  | some e => e.2 + a % 2 ^ 17
  | none => 0

namespace State

/-- The lowest poisoned unit among mapped addresses, as the virtual address of its line. -/
def poisonAmong (s : State) (m : List (Nat × Nat)) (addrs : List Nat) : Option Word :=
  (addrs.foldl (fun (b : Option Nat) a =>
    let pa := mapped m a
    if s.poisoned pa then
      let line := a - pa % poisonUnit (s.region pa)
      match b with
      | some x => some (if line < x then line else x)
      | none => some line
    else b) none).map (BitVec.ofNat 64)

/-- The first tag mismatch among mapped addresses at a first touch of a scratchpad granule (R180, R212). -/
def tagMismatch (s : State) (tag : Nat) (m : List (Nat × Nat)) (addrs : List Nat) : Option Word :=
  (addrs.find? fun a => s.region (mapped m a) == .spad && s.seqtag (mapped m a) != tag).map (BitVec.ofNat 64)

/-- Check a mapped read: the sequence tags when one is expected, then poison. Where one read shows several faults the spec gives no
order among them: DESIGN CHOICE, the lowest failing page comes first, then the first tag mismatch in the order of the addresses, then
the lowest poisoned line (R180; assumption log 57). -/
def checkRead (s : State) (tag : Option Nat) (m : List (Nat × Nat)) (addrs : List Nat) : Option GFault :=
  match tag.bind fun t => s.tagMismatch t m addrs with
  | some a => some { code := 0x08, tval := a }
  | none => (s.poisonAmong m addrs).map fun l => { code := 0x0C, tval := l }

/-- Read some bytes by virtual address for a grid-side agent: translation, permission, the expected tag if any, then poison. -/
def readVirt (s : State) (w : Who) (addrs : List Nat) (tag : Option Nat := none) :
    State × Except (Option GFault) (List (Nat × Nat)) :=
  match s.mapPages w .load (pageHeads addrs) with
  | (s1, .error none) => (s1, .error none)
  | (s1, .error (some (a, f))) =>
    (s1, .error (some { code := f.cause, tval := BitVec.ofNat 64 a, page := some (w.agent, f) }))
  | (s1, .ok m) =>
    match addrs.find? fun a => s1.unpopulated (mapped m a) with
    | some a => (s1, .error (some { code := 0x07, tval := BitVec.ofNat 64 a, page := some (w.agent, ⟨0x07, 7, 15⟩) }))
    | none =>
      match s1.checkRead tag m addrs with
      | some f => (s1, .error (some f))
      | none => (s1, .ok m)

/-- The addresses of `n` bytes from `a`, modulo 2^64. -/
def span (a n : Nat) : List Nat := (List.range n).map fun (i : Nat) => (a + i) % 2 ^ 64

/-- Read a run of bytes by virtual address, which a caller counts where the command or entry is known to have made the read once. -/
def peekRun (s : State) (w : Who) (va : Word) (n : Nat) (tag : Option Nat := none) :
    State × Except (Option GFault) (List Byte) :=
  match s.readVirt w (span va.toNat n) tag with
  | (s1, .error e) => (s1, .error e)
  | (s1, .ok m) => (s1, .ok ((span va.toNat n).map fun a => s1.byteAt (mapped m a)))

/-- Count bytes that an agent has read, by virtual address, at the memory controllers (R384). -/
def meterVirt (s : State) (w : Who) (addrs : List Nat) : State :=
  match (s.mapPages w .load (pageHeads addrs)).2 with
  | .ok m => s.meterReads w.part (addrs.map (mapped m))
  | .error _ => s

/-- Read a run of bytes by virtual address, and count it (R384). -/
def readRun (s : State) (w : Who) (va : Word) (n : Nat) (tag : Option Nat := none) :
    State × Except (Option GFault) (List Byte) :=
  match s.peekRun w va n tag with
  | (s1, .ok bs) => (s1.meterVirt w (span va.toNat n), .ok bs)
  | r => r

/-! ### Blocks (R268 to R273) -/

/-- A task's code table in a cluster; none when invalid (R273). -/
def codeTable (s : State) (task cluster id : Nat) : Option CodeTable :=
  match s.findTask task with
  | some t => match Sp.get [] t.tables (cluster * 4 + id) with
    | [] => none
    | l => some l
  | none => none

/-- Is a dztab of the table, accepted before command or stream `seq`, outstanding in the cluster (R274). -/
def tableBusy (s : State) (task cluster id seq : Nat) : Bool :=
  s.cmds.any fun c => c.task == task && decide (c.id < seq) && coreCluster c.core == cluster
    && (match c.op with | .dztab n _ => n == id | .xfer _ _ _ _ _ | .xdz _ _ _ | .send _ | .recv _ => false)

/-- Read more of the block whose header is at `hdr` than the bytes held: its header, then its coded bytes (R272). The bytes held after it, and
what kept the rest from being read: a fault, or a wait. `tag` is the sequence tag that the reads expect (R212). -/
def scoutBlock (s : State) (w : Who) (tag : Option Nat) (hdr : Word) (held : List Byte) : State × List Byte × Option (Option GFault) :=
  match if held.isEmpty then s.readRun w hdr 32 tag else (s, .ok held) with
  | (s1, .error f) => (s1, [], some f)
  | (s1, .ok bs) =>
    let h := parseHdr (bs.take 32)
    if !h.magicOk || decide (32 + h.clen ≤ bs.length) then (s1, bs, none)
    else
      match s1.readRun w (hdr + 32) h.clen tag with
      | (s2, .error f) => (s2, bs, some f)
      | (s2, .ok coded) => (s2, bs ++ coded, none)

/-- Check and decode the block whose header, at `hdr`, is `hb` (R271, R272): its header and decoded image. `coded` are its coded bytes, or why
they are not read. -/
def blockOf (s : State) (w : Who) (seq : Nat) (hdr : Word) (hb : List Byte) (expect : Option Nat) (ratio : Nat)
    (coded : Except (Option GFault) (List Byte)) : Except (Option GFault) (BlockHdr × List Byte) :=
  let h := parseHdr hb
  let bad (c : Nat) : Except (Option GFault) (BlockHdr × List Byte) := .error (some { code := c, tval := hdr })
  if !h.magicOk then bad 0x0B
  else
    let tab := s.codeTable w.task (coreCluster w.core) h.table
    match expect.any (· != h.fmt), decide (ratio * h.clen < h.dlen) with
    | true, _ => bad 0x08
    | false, true => bad 0x0A
    | false, false =>
      if s.tableBusy w.task (coreCluster w.core) h.table seq then .error none
      else if tab.isNone then bad 0x0B
      else
        match coded with
        | .error e => .error e
        | .ok cs =>
          match decodeBlock h expect ratio tab cs with
          | .error c => bad c
          | .ok img => .ok (h, img)

end State

/-- The coded bytes among those that a scout holds of a block; `flt` is the fault that kept it from them, none while they wait (R272). -/
def codedOf (bs : List Byte) (flt : Option GFault) : Except (Option GFault) (List Byte) :=
  if 32 + (parseHdr (bs.take 32)).clen ≤ bs.length then .ok (bs.drop 32) else .error flt

/-- The fault that a scout holds for the block whose header is at `hdr` (R272). -/
def scoutFault (l : List (Nat × GFault)) (hdr : Word) : Option GFault := (l.find? fun p => p.1 == hdr.toNat).map (·.2)

/-- The format code of R70. -/
def OFmt.code (f : OFmt) : Nat := ((List.range 28).find? fun k => OFmt.ofCode k == some f).getD 0

/-! ### Stream specs (R172, R173, R179) -/

/-- The slots of an entry (R170): queue 0 to 3 is the A side. -/
def entrySlots (f : OFmt) (q : Nat) (dbl : Bool) : Nat :=
  match f with
  | .f32 => if q < 4 then 2 else 1
  | .f19 => if q < 4 || dbl then 2 else 1
  | _ => 1

/-- k-positions of an entry (R170). -/
def SSpec.r (p : SSpec) : Nat := if p.dbl then 2 * p.fmt.rank else p.fmt.rank

/-- Element bytes of a format of 8 bits or more; 0 for a narrower one (R175). -/
def elemBytes (f : OFmt) : Nat := if f.elemBits < 8 then 0 else f.elemBits / 8

/-- The view of a stream: the qldt view for qldt and for qldz with TVIEW (R176, R179). -/
def tView (k : SKind) (p : SSpec) : Bool :=
  match k with
  | .qldt => true
  | .qldz => p.tview
  | .qld | .qldff | .qldx => false

/-- Is `v` a multiple of `n` (anything is a multiple of 0 bytes here). -/
def multipleOf (v : Int) (n : Nat) : Bool := n == 0 || v % n == 0

/-- The limits of a qldz (R173, R179). -/
def qldzOk (addr : Word) (p : SSpec) : Bool :=
  let eb := elemBytes p.fmt
  decide (addr.toNat % 32 = 0) && decide (0 ≤ p.stride) && decide (0 ≤ p.estride) && multipleOf p.stride eb
    && (p.tview || multipleOf p.estride eb)
    && (if p.tview then
          decide (((p.len : Int) - 1) * p.stride + (p.fmt.vecBytes (p.steps * p.r) : Nat) ≤ 131072)
        else if eb = 0 then true
        else decide ((((p.r * p.len : Nat) : Int) - 1) * p.estride + eb ≤ 131072))

/-- Parse and check a stream spec for a queue (R172, R173): none is an illegal operand. -/
def parseSpec (k : SKind) (q : Nat) (addr lo hi : Word) : Option SSpec :=
  match OFmt.ofCode (fieldNat lo 0 5) with
  | none => none
  | some f =>
    let p : SSpec :=
      { fmt := f, dbl := lo.getLsbD 18, tview := lo.getLsbD 17, tagen := lo.getLsbD 16, ratio := fieldNat lo 12 4,
        len := 8 * (fieldNat lo 8 4 + 1), steps := fieldNat lo 32 16 + 1, tag := fieldNat lo 48 16,
        estride := signedNat 32 (fieldNat hi 32 32), stride := signedNat 32 (fieldNat hi 0 32) }
    let dz := k == .qldz
    let ok := fieldNat lo 19 13 == 0 && fieldNat lo 5 3 == 0
      && !(f.isSparse && decide (4 ≤ q)) && !(p.dbl && (decide (q < 4) || f == .f32 || f.isSparse))
      && (if dz then p.ratio != 0 else p.ratio == 0 && !p.tview)
      && (tView k p || !(f.isMX || f.tlBits.isSome || f.isSparse))
      && (!tView k p || (p.steps * p.r) % f.blockLen == 0)
      && !(f == .spbf16 && p.steps % 2 == 1)
      && (!dz || qldzOk addr p)
    if ok then some p else none

/-! ### The bytes of a step (R175 to R177) -/

/-- The byte offsets that a run of bits touches. -/
def bitBytes (lo n : Nat) : List Nat := (List.range ((lo + n - 1) / 8 - lo / 8 + 1)).map (lo / 8 + ·)

/-- The byte offsets of k-position `k` in a block vector of `n` k-positions: values, scales, exponents, indices (R71 to
R74, R176). -/
def kBytes (f : OFmt) (n k : Nat) : List Nat :=
  match f.tlBits with
  | some mb =>
    let b := (2 + 2 * (1 + mb)) * (k / 16)
    [b, b + 1] ++ (bitBytes (16 + (1 + mb) * (k % 16)) (1 + mb)).map (b + ·)
  | none =>
    if f.isMX then bitBytes (f.elemBits * k) f.elemBits ++ [n * f.elemBits / 8 + k / 32]
    else if f == .sptl5 then
      let b := 9 * (k / 16)
      let g := k % 16 / 4
      [b, b + 1] ++ (bitBytes (16 + 10 * g) 10).map (b + ·) ++ [b + (56 + 4 * g) / 8]
    else if f.isSparse then
      let g := k / 4
      bitBytes (f.elemBits * 2 * g) (2 * f.elemBits) ++ [(n / 2 * f.elemBits + 4 * g) / 8]
        ++ (if f == .spmxe2m1 then [(n / 2 * 4 + n) / 8 + k / 32] else [])
    else bitBytes (f.elemBits * k) f.elemBits

/-- The k-positions whose values step `s` of a stream in the qldt view forms: of an spbf16 pair the second entry holds all
four (R74, R170). -/
def stepKs (p : SSpec) (s : Nat) : List Nat :=
  if p.fmt == .spbf16 then (List.range 4).map (s / 2 * 4 + ·) else (List.range p.r).map (s * p.r + ·)

/-- The address of element (q, i) of a step in the qld view, as an offset from the base (R175). -/
def elemOff (p : SSpec) (s q i : Nat) : Int := (s : Int) * p.stride + ((q * p.len + i : Nat) : Int) * p.estride

/-- Modulo 2^64. -/
def wrap64 (v : Int) : Nat := wrapInt 64 v

/-- The bytes that step `s` reads, in touch order, given the first address of each k-line of a qldx (R175 to R177): in the order
(q, i) in the qld view; in the qldt view, where the spec gives none, position by position (DESIGN CHOICE, assumption log 57). -/
def stepAddrs (st : Stream) (s : Nat) (lines : List Int) : List Nat :=
  let p := st.spec
  let base : Int := if st.kind == .qldz then 0 else st.addr.toNat
  let eb := elemBytes p.fmt
  if tView st.kind p then
    (List.range p.len).flatMap fun (i : Nat) =>
      (((stepKs p s).flatMap (kBytes p.fmt (p.steps * p.r))).eraseDups).map fun (o : Nat) => wrap64 (base + (i : Int) * p.stride + o)
  else if st.kind == .qldx then
    lines.flatMap fun l =>
      if eb = 0 then (List.range ((p.len * p.fmt.elemBits + 7) / 8)).map fun (o : Nat) => wrap64 (l + o)
      else (List.range p.len).flatMap fun (i : Nat) => (List.range eb).map fun (b : Nat) => wrap64 (l + (i : Int) * p.estride + b)
  else if eb = 0 then
    (List.range ((p.len * p.r * p.fmt.elemBits + 7) / 8)).map fun (o : Nat) => wrap64 (base + (s : Int) * p.stride + o)
  else
    (List.range p.r).flatMap fun (q : Nat) => (List.range p.len).flatMap fun (i : Nat) =>
      (List.range eb).map fun (b : Nat) => wrap64 (base + elemOff p s q i + b)

/-- The first misaligned element of a step (R180), for formats of 8 bits or more outside qldz. R180 does not say which step faults where STRIDE
or ESTRIDE is misaligned and the elements of a step are aligned all the same: DESIGN CHOICE, each step is judged by the addresses of its own
elements, and one whose elements are aligned is delivered (assumption log 57). -/
def stepMisaligned (st : Stream) (s : Nat) (lines : List Int) : Option Word :=
  let p := st.spec
  let eb := elemBytes p.fmt
  if eb = 0 || st.kind == .qldz then none
  else
    let starts : List Nat :=
      if tView st.kind p then (List.range p.len).map fun (i : Nat) => wrap64 ((st.addr.toNat : Int) + (i : Int) * p.stride)
      else if st.kind == .qldx then
        lines.flatMap fun l => (List.range p.len).map fun (i : Nat) => wrap64 (l + (i : Int) * p.estride)
      else (List.range p.r).flatMap fun (q : Nat) => (List.range p.len).map fun (i : Nat) => wrap64 ((st.addr.toNat : Int) + elemOff p s q i)
    (starts.find? fun a => a % eb != 0).map (BitVec.ofNat 64)

/-- The operands of a step by position and k-offset, from a byte reader over the same addresses (R170, R171, R175, R176). -/
def stepVals (st : Stream) (s : Nat) (lines : List Int) (rd : Nat → Byte) : List (List (Option OVal)) :=
  let p := st.spec
  let base : Int := if st.kind == .qldz then 0 else st.addr.toNat
  let eb := elemBytes p.fmt
  let le (as : List Nat) : Nat := fromLE (as.map rd)
  (List.range p.len).map fun (i : Nat) =>
    if tView st.kind p then
      if p.fmt == .spbf16 && s % 2 == 0 then []
      else
        let offs := ((stepKs p s).flatMap (kBytes p.fmt (p.steps * p.r))).eraseDups
        let img := offs.foldl (fun (m o : Nat) => m + (rd (wrap64 (base + (i : Int) * p.stride + o))).toNat <<< (8 * o)) 0
        (stepKs p s).map fun k => blockElem p.fmt (p.steps * p.r) img k
    else if st.kind == .qldx then
      lines.map fun l =>
        if eb = 0 then
          let lo := i * p.fmt.elemBits
          let v := le ((bitBytes lo p.fmt.elemBits).map fun (o : Nat) => wrap64 (l + o))
          some (elemVal p.fmt ((v >>> (lo % 8)) % 2 ^ p.fmt.elemBits))
        else some (elemVal p.fmt (le ((List.range eb).map fun (b : Nat) => wrap64 (l + (i : Int) * p.estride + b))))
    else
      (List.range p.r).map fun q =>
        if eb = 0 then
          let lo := (q * p.len + i) * p.fmt.elemBits
          let v := le ((bitBytes lo p.fmt.elemBits).map fun (o : Nat) => wrap64 (base + (s : Int) * p.stride + o))
          some (elemVal p.fmt ((v >>> (lo % 8)) % 2 ^ p.fmt.elemBits))
        else some (elemVal p.fmt (le ((List.range eb).map fun (b : Nat) => wrap64 (base + elemOff p s q i + b))))

/-- The sequence tag that a stream's reads expect (R172, R212). -/
def Stream.expects (st : Stream) : Option Nat := if st.spec.tagen then some st.spec.tag else none

/-- Does STRIDE 0 repeat one step, which is read once (R175, R238). -/
def Stream.repeats (st : Stream) : Bool :=
  (st.kind == .qld || st.kind == .qldff) && st.spec.stride == 0

namespace State

/-- The stream's agent (R230), served by the stream TLB of its queue's number (R221). -/
def streamWho (s : State) (st : Stream) : Who :=
  { s.gridWho st.pl 3 with stlb := some (st.q % 4), id := 2 * (st.seq + 1 + st.era * 2 ^ 64) }

/-- The stream's agent as it asks which bytes it has still to read, which is no access (R238). -/
def aheadWho (s : State) (st : Stream) : Who := { s.streamWho st with id := (s.streamWho st).id + 1 }

/-- The index addresses of a step of a qldx (R177). -/
def idxAddrs (st : Stream) (s : Nat) : List Nat :=
  (List.range st.spec.r).map fun q => wrap64 ((st.idx.toNat : Int) + 4 * ((s * st.spec.r + q : Nat) : Int))

/-- The k-lines of a step of a qldx, from its index list (R177); a probe bank serves the index reads (R221). -/
def qldxLines (s : State) (st : Stream) (k : Nat) : State × Except (Option GFault) (List Int) :=
  if st.kind == .qldx then
    match s.readVirt { s.streamWho st with stlb := none } ((idxAddrs st k).flatMap fun a => span a 4) st.expects with
    | (s1, .error e) => (s1, .error e)
    | (s1, .ok m) =>
      (s1, .ok ((idxAddrs st k).map fun a =>
        (st.addr.toNat : Int) + signedNat 32 (fromLE ((span a 4).map fun b => s1.byteAt (mapped m b))) * st.spec.stride))
  else (s, .ok [])

end State

/-- Are the k-lines of every step known that the stream can reach: each is read, or the index of one faulted. -/
def Stream.indexed (st : Stream) : Bool :=
  st.kind != .qldx || decide (st.spec.steps ≤ st.lines.length) || st.lines.any fun l => l.1.isSome

namespace State

/-- A qldx reads its index list, step by step up to a fault or a wait (R177). The rules do not say when: DESIGN CHOICE, as soon as it can, so that
the bytes of its steps are known and do not change while later stores wait for them (R238; assumption log 21). -/
def readIndex (s : State) (st : Stream) : Nat → State × Stream
  | 0 => (s, st)
  | fuel + 1 =>
    if st.indexed then (s, st)
    else
      let k := st.lines.length
      match s.qldxLines st k with
      | (s1, .error none) => (s1, st)
      | (s1, .error (some f)) => (s1, { st with lines := st.lines ++ [(some f, [])] })
      | (s1, .ok l) =>
        (s1.meterVirt { s.streamWho st with stlb := none } ((idxAddrs st k).flatMap fun a => span a 4)).readIndex
          { st with lines := st.lines ++ [(none, l)] } fuel

/-- Every outstanding qldx that is not parked reads on in its index list. -/
def readIndices (s : State) : State :=
  if s.core.streams.all fun st => st.parked || st.indexed then s
  else (List.range s.core.streams.length).foldl (fun s i =>
    match s.core.streams[i]? with
    | some st =>
      if st.parked then s
      else
        let r := s.readIndex st st.spec.steps
        r.1.updCore fun c => { c with streams := c.streams.set i r.2 }
    | none => s) s

end State

/-- Does a decoded block of D hold the offset. -/
def Stream.dzHolds (st : Stream) (a : Nat) : Bool := st.dzImg.any fun p => decide (p.1 ≤ a) && decide (a < p.1 + p.2.length)

/-- A byte of D among the decoded blocks (R179). -/
def Stream.dzByte (st : Stream) (a : Nat) : Byte :=
  match st.dzImg.find? fun p => decide (p.1 ≤ a) && decide (a < p.1 + p.2.length) with
  | some p => p.2.getD (a - p.1) 0
  | none => 0

/-- The header of a block of the directory. -/
def dirHdr (b : Nat × Word × List Byte) : BlockHdr := parseHdr (b.2.2.take 32)

/-- Does a block of the directory hold a needed offset that is not decoded. -/
def Stream.dzLacks (st : Stream) (needs : List Nat) (b : Nat × Word × List Byte) : Bool :=
  needs.any fun a => decide (b.1 ≤ a) && decide (a < b.1 + (dirHdr b).dlen) && !st.dzHolds a

/-- The first block of the directory that holds a needed offset and is not decoded. -/
def Stream.dzWants (st : Stream) (needs : List Nat) : Option (Nat × Word × List Byte) := st.dzDir.find? (st.dzLacks needs)

/-- One more than the greatest offset of D that the stream reads: its last step reads it, since no step moves backwards (R179). -/
def Stream.dzLimit (st : Stream) : Nat := (stepAddrs st (st.spec.steps - 1) []).foldl (fun m a => max m (a + 1)) 0

namespace State

/-- The scout goes on with the blocks whose headers are read: it reads their coded bytes (R272). -/
def scoutCoded (s : State) (st : Stream) : State × Stream :=
  st.dzDir.foldl (fun (p : State × Stream) b =>
    if decide (32 + (dirHdr b).clen ≤ b.2.2.length) || (scoutFault p.2.dzFlt b.2.1).isSome then p
    else
      let r := p.1.scoutBlock (p.1.streamWho st) st.expects b.2.1 b.2.2
      (r.1, { p.2 with dzDir := p.2.dzDir.map fun x => if x.1 == b.1 then (x.1, x.2.1, r.2.1) else x
                       dzFlt := match r.2.2 with
                         | some (some f) => p.2.dzFlt ++ [(b.2.1.toNat, f)]
                         | some none | none => p.2.dzFlt })) (s, st)

/-- The scout of a qldz reads blocks in chain order until its directory has `n` of them, the stream needs no more, the LAST one is read, or
a header cannot be read; it holds the faults that it meets (R272). -/
def scoutHeads (s : State) (st : Stream) (n limit : Nat) : Nat → State × Stream
  | 0 => (s, st)
  | fuel + 1 =>
    if n ≤ st.dzDir.length || limit ≤ st.dzPos || st.dzLast.isSome || (scoutFault st.dzFlt st.dzNext).isSome then (s, st)
    else
      let r := s.scoutBlock (s.streamWho st) st.expects st.dzNext []
      let h := parseHdr (r.2.1.take 32)
      let flt := match r.2.2 with
        | some (some f) => st.dzFlt ++ [(st.dzNext.toNat, f)]
        | some none | none => st.dzFlt
      if r.2.1.isEmpty then (r.1, { st with dzFlt := flt })
      else if !h.magicOk then (r.1, { st with dzFlt := st.dzFlt ++ [(st.dzNext.toNat, { code := 0x0B, tval := st.dzNext })] })
      else r.1.scoutHeads { st with dzNext := st.dzNext + BitVec.ofNat 64 h.span, dzPos := st.dzPos + h.dlen
                                    dzLast := if h.last then some st.dzNext else none
                                    dzDir := st.dzDir ++ [(st.dzPos, st.dzNext, r.2.1)], dzFlt := flt } n limit fuel

/-- Bring a qldz on until D holds the offsets that a step needs (R179, R269, R272), and as it then stands: the scout reads the block being decoded
and up to 16 beyond it, and a block is decoded, from what the scout has read, when the step needs its bytes. R272 sets no least distance:
DESIGN CHOICE, the scout goes as far as it may (assumption log 73). -/
def dzFill (s : State) (st : Stream) (needs : List Nat) : Nat → State × Stream × Except (Option GFault) Unit
  | 0 => (s, st, .ok ())
  | fuel + 1 =>
    let n := (match st.dzDir.findIdx? (st.dzLacks needs) with | some i => i | none => st.dzDir.length) + 17
    let p := s.scoutCoded st
    let (s1, st1) := p.1.scoutHeads p.2 n st.dzLimit n
    match st1.dzWants needs with
    | some (o, hdr, bs) =>
      (match s1.blockOf (s1.streamWho st1) st1.seq hdr (bs.take 32) (some st1.spec.fmt.code) st1.spec.ratio
          (codedOf bs (scoutFault st1.dzFlt hdr)) with
        | .error e => (s1, st1, .error e)
        | .ok (_, img) => s1.dzFill { st1 with dzImg := st1.dzImg ++ [(o, img)] } needs fuel)
    | none =>
      if needs.all fun a => decide (a < st1.dzPos) then (s1, st1, .ok ())
      else
        match st1.dzLast, scoutFault st1.dzFlt st1.dzNext with
        | some h, _ => (s1, st1, .error (some { code := 0x08, tval := h }))
        | none, some f => (s1, st1, .error (some f))
        | none, none => if st1.dzDir.length = st.dzDir.length then (s1, st1, .error none) else s1.dzFill st1 needs fuel

/-- The pages of a step: those that a qldff's probe found (R178), or found now. -/
def stepPages (s : State) (st : Stream) (addrs : List Nat) : State × Except (Option (Nat × PFault)) (List (Nat × Nat)) :=
  if st.kind == .qldff then (s, .ok st.maps) else s.mapPages (s.streamWho st) .load (pageHeads addrs)

/-- Form the entry of step `k` (R170, R174 to R180): the stream as it then stands, and the values of its positions, or a fault, or none while
something waits. -/
def formStep (s : State) (st : Stream) (k : Nat) : State × Stream × Except (Option GFault) (List (List (Option OVal))) :=
  match st.once with
  | some vals => (s, st, .ok vals)
  | none =>
    match if st.kind == .qldx then st.lines[k]? else some (none, []) with
    | none => (s, st, .error none)
    | some (some f, _) => (s, st, .error (some f))
    | some (none, lines) =>
      let addrs := stepAddrs st k lines
      if st.kind == .qldz then
        let need := addrs.foldl (fun m a => if m < a + 1 then a + 1 else m) 0
        match s.dzFill st addrs (2 * (need + st.dzDir.length) + 2) with
        | (s1, st1, .error e) => (s1, st1, .error e)
        | (s1, st1, .ok ()) => (s1, st1, .ok (stepVals st k lines st1.dzByte))
      else
        match stepMisaligned st k lines with
        | some a => (s, st, .error (some { code := 0x03, tval := a }))
        | none =>
          match s.stepPages st addrs with
          | (s1, .error none) => (s1, st, .error none)
          | (s1, .error (some (a, f))) =>
            (s1, st, .error (some { code := f.cause, tval := BitVec.ofNat 64 a, page := some (3, f) }))
          | (s1, .ok m) =>
            match s1.checkRead st.expects m addrs with
            | some f => (s1, st, .error (some f))
            | none =>
              let vals := stepVals st k lines fun a => s1.byteAt (mapped m a)
              (s1.meterReads s.part (addrs.map (mapped m)), { st with once := if st.repeats then some vals else none }, .ok vals)

end State

/-- A stream as it parks (R180): a qldz will read the first block that is not decoded, and what follows it, again (R189, R272). -/
def Stream.parkAs (st : Stream) : Stream :=
  match st.dzDir.findIdx? fun b => !st.dzHolds b.1 with
  | some i =>
    match st.dzDir[i]? with
    | some b => { st with parked := true, era := st.era + 1, dzDir := st.dzDir.take i, dzPos := b.1, dzNext := b.2.1, dzLast := none
                          dzFlt := [], dzImg := st.dzImg.filter fun p => decide (p.1 < b.1) }
    | none => { st with parked := true, era := st.era + 1, dzFlt := [] }
  | none => { st with parked := true, era := st.era + 1, dzFlt := [] }

namespace State

/-! ### Placing entries (R169, R174, R180) -/

/-- Slots in use in a queue. -/
def queueUsed (c : Core) (q : Nat) : Nat := ((c.queues.getD q []).map (·.slots)).sum

def pushEntry (s : State) (q : Nat) (e : QEntry) : State :=
  s.updCore fun c => { c with queues := c.queues.setIfInBounds q (c.queues.getD q [] ++ [e]) }

/-- Replace the serviced stream of a queue, or drop it once it has placed its last entry. -/
def putStream (s : State) (st : Stream) : State :=
  s.updCore fun c =>
    match c.streams.findIdx? fun x => x.q == st.q with
    | some i => { c with streams := if st.next < st.spec.steps then c.streams.set i st else c.streams.eraseIdx i }
    | none => c

/-- Park the serviced stream of a queue behind a fault entry, with the fault's record (R180, R229). -/
def parkStream (s : State) (st : Stream) (f : GFault) : State :=
  let s1 := match f.page with
    | some (ag, pf) => s.recordFault s.part ag f.tval pf
    | none => s
  (s1.pushEntry st.q ⟨st.ord, st.spec.fmt, st.spec.r, 0, st.next, some (f.code, f.tval), []⟩).putStream st.parkAs

end State

/-- A marker that waits for the earlier grid-side accesses (R242): fence.vs, fence.vv, fence.all, seal and irrev (R312, R314). -/
def GOp.awaitsGrid : GOp → Bool
  | .fence k _ => k != 0
  | .seal _ | .irrev _ => true
  | _ => false

/-- The entries that an oacc in flight has still to take from a queue (R187). -/
def Entry.takes (e : Entry) (q : Nat) : Nat :=
  match e.op with
  | .oacc f =>
    if e.fin || e.faulted then 0
    else if if q < 4 then f.aSrc.toNat != 1 && f.aIdx.toNat % 4 == q else f.bSrc.toNat != 1 && 4 + f.bIdx.toNat % 4 == q
    then f.steps.toNat + 1 - e.prog else 0
  | _ => 0

/-- Does a waiting marker hold back the remaining reads of an earlier stream (R242): those that no oacc ahead of the marker takes are
performed after it retires, as later reads. -/
def Core.markerHolds (c : Core) (st : Stream) : Bool :=
  c.flight.any fun x => x.op.awaitsGrid && !x.fin && decide (st.ord < x.ord)
    && decide (((c.flight.filter fun y => decide (y.ord < x.ord)).map fun y => y.takes st.q).sum ≤ (c.queues.getD st.q []).length)

namespace State

/-- Is a stream of the queue outstanding that comes before place `ord` in program order: it has left the GIQ, be it that it still
waits at the port, and has not retired (R174, R190). -/
def streamOut (c : Core) (q ord : Nat) : Bool :=
  (c.streams.any fun x => x.q == q && decide (x.ord < ord))
    || c.flight.any fun x => !x.fin && decide (x.ord < ord) && (match x.op with
      | .stream _ p _ _ _ _ => p == q
      | _ => false)

/-- Restart every parked stream at the step of its fault entry, which is removed (R189): a qldx reads the index of that step, and of those behind
it, again. -/
def restartStreams (c : Core) : Core :=
  { c with queues := c.queues.map fun l => l.filter fun e => e.fault.isNone
           streams := c.streams.map fun x => if x.parked then { x with parked := false, lines := x.lines.take x.next } else x }

/-- The granted count of a qldff (R178): the pages found, each once, and the leading steps whose pages and alignment pass with the first
fault; none while a translation waits. -/
def grantedSteps (s : State) (st : Stream) : Nat → Nat → List (Nat × Nat) → State × List (Nat × Nat) × Option (Nat × Option GFault)
  | 0, k, ms => (s, ms, some (k, none))
  | fuel + 1, k, ms =>
    match stepMisaligned st k [] with
    | some a => (s, ms, some (k, some { code := 0x03, tval := a }))
    | none =>
      match s.mapPages (s.streamWho st) .load ((pageHeads (stepAddrs st k [])).filter fun p => !ms.any fun q => q.1 == p.1) with
      | (s1, .error none) => (s1, ms, none)
      | (s1, .error (some (a, f))) =>
        (s1, ms, some (k, some { code := f.cause, tval := BitVec.ofNat 64 a, page := some (3, f) }))
      | (s1, .ok m) => s1.grantedSteps st fuel (k + 1) (ms ++ m)

/-- Add a stream to the core: at runtime level it replaces a parked stream of its queue and takes its place (R189). -/
def addStream (s : State) (st : Stream) : State :=
  s.updCore fun c =>
    if st.pl == 1 && c.streams.any fun x => x.q == st.q && x.parked then
      let q' := (c.queues.getD st.q []).filter fun e => e.fault.isNone
      match c.streams.findIdx? fun x => x.q == st.q && x.parked with
      | some i => { c with queues := c.queues.setIfInBounds st.q q', streams := c.streams.set i { st with ord := (c.streams.getD i st).ord } }
      | none => c
    else { c with streams := c.streams ++ [st] }

/-- Decompressors of the cluster in use by streams and commands (R179, R257). -/
def dzInUse (s : State) (cluster : Nat) : Nat :=
  ((List.range 4).map fun (i : Nat) =>
      ((s.getCore (cluster * 4 + i)).streams.filter fun x => x.kind == .qldz).length).sum
    + (s.cmds.filter fun c => coreCluster c.core == cluster && c.state == .running
        && (match c.op with | .xdz _ _ _ => true | .xfer _ _ _ _ _ | .dztab _ _ | .send _ | .recv _ => false)).length

end State

end Sys2Proof.Machine
end

