-- ==== Sys2Proof/Machine/GridMem.lean ====
section
/-! DEFINITION. Sys2Proof/Machine/GridMem.lean: grid loads and stores (R200 to R206), gsave and grest (R128 to R131), as work
of a grid-side entry. -/

namespace Sys2Proof.Machine

namespace State

/-- Write bytes at mapped virtual addresses; none when a piece of the write has to wait for capacity. -/
def writeVirt (s : State) (w : Wr) (m : List (Nat × Nat)) (va : Nat) (bs : List Byte) : Nat → Option State
  | 0 => some s
  | fuel + 1 =>
    if bs.isEmpty then some s
    else
      let n := min bs.length (2 ^ 17 - va % 2 ^ 17)
      let pa := mapped m va
      if s.writeStalls w pa n then none
      else (s.write w pa (bs.take n)).writeVirt w m ((va + n) % 2 ^ 64) (bs.drop n) fuel

end State

/-! ### Grid loads and stores -/

def GlsKind.isLoad : GlsKind → Bool
  | .ld | .ldff | .ldx => true
  | .st | .stx | .stxo => false

/-- The address of element (v, j) (R201). -/
def glsAddr (g : Grid) (z : Nat) (base str : Word) (wi : Option Window) (v j : Nat) : Nat :=
  match wi with
  | none => wrap64 ((base.toNat : Int) + (v : Int) * signedNat 32 (fieldNat str 32 32) + (j : Int) * signedNat 32 (fieldNat str 0 32))
  | some w => wrap64 ((base.toNat : Int) + signedNat 32 (w.read g v j).toNat * z)

/-- The active elements of one vector from a given number on, with their addresses, in element order (R201, R202). -/
def vecItems (g : Grid) (z : Nat) (m : Mask) (base str : Word) (wi : Option Window) (start v : Nat) : List (Nat × Nat) :=
  ((List.range 128).filter fun j => active m j && decide (start ≤ v * 128 + j)).map fun j =>
    (v * 128 + j, glsAddr g z base str wi v j)

/-- The active elements from a given number on, with their addresses, in element order (R201, R202). -/
def glsItems (g : Grid) (z : Nat) (w : Window) (m : Mask) (base str : Word) (wi : Option Window) (start : Nat) :
    List (Nat × Nat) :=
  (List.range w.count).flatMap (vecItems g z m base str wi start)

namespace State

/-- The probe pass (R203) with the pages `m` that it has found: those that it has then, each translated once, and the first failing element; none
while a translation waits. -/
def probeItems (s : State) (w : Who) (z : Nat) (k : Acc) (m : List (Nat × Nat)) :
    List (Nat × Nat) → State × List (Nat × Nat) × Option (Option (Nat × GFault))
  | [] => (s, m, some none)
  | (n, a) :: rest =>
    if a % z ≠ 0 then (s, m, some (some (n, { code := 0x03, tval := BitVec.ofNat 64 a })))
    else if m.any fun p => p.1 == a / 2 ^ 17 then s.probeItems w z k m rest
    else
      match s.gridAccess w k (BitVec.ofNat 64 a) z with
      | (s1, .ok pa) => s1.probeItems w z k (m ++ [(a / 2 ^ 17, pa - a % 2 ^ 17)]) rest
      | (s1, .error (some f)) => (s1, m, some (some (n, f)))
      | (s1, .error none) => (s1, m, none)

/-- Write the element `n` of a data window with the zero-extended bytes read (R202). -/
def loadElem (s : State) (w : Window) (n : Nat) (bs : List Byte) : State :=
  let v : Cell := BitVec.ofNat 32 (fromLE bs)
  s.updCore fun c => { c with grid := w.write c.grid (n / 128) fun j => if j = n % 128 then some v else none }

/-- Load elements in order up to the first poisoned one (R204), which is answered with its fault. `one` says that a single access
serves an element together with the one before it (R199), and `held` are the bytes of one that has been read and serves them all. -/
def loadItems (s : State) (w : Window) (z : Nat) (one : Nat → Bool) (held : List Byte) :
    List (Nat × Nat × Nat) → State × Option (Nat × GFault)
  | [] => (s, none)
  | (n, a, pa) :: rest =>
    if !held.isEmpty then (s.loadElem w n held).loadItems w z one held rest
    else if s.poisonedRange pa z then
      (s, some (n, { code := 0x0C, tval := s.poisonVa (BitVec.ofNat 64 a) pa z, rest := some n }))
    else ((if one n then s else s.meterMem s.part pa z 0).loadElem w n (s.readBytes pa z)).loadItems w z one held rest

/-- Store elements in order (R202, R238): the element at which a store has to wait, or that lies in the memory of a fenced
die, if any. `seen` holds the addresses written, for the free order of a gstx. -/
def storeItems (s : State) (ordered : Bool) (w : Window) (z : Nat) (seen : List Nat) :
    List (Nat × Nat × Nat) → State × Option (Nat × Option GFault)
  | [] => (s, none)
  | (n, a, pa) :: rest =>
    if s.lost pa then (s, some (n, some { code := 0x0C, tval := s.poisonVa (BitVec.ofNat 64 a) pa z, rest := some n }))
    else if s.writeStalls s.gridWriter pa z then (s.setLstall s.part, some (n, none))
    else
      let bs := leBytes z (w.read s.core.grid (n / 128) (n % 128)).toNat
      if !ordered && seen.contains a then
        let s1 := s.tickFree
        if Config.scatterPick s.free then s1.storeItems ordered w z seen rest
        else (s1.write s1.gridWriter pa bs).storeItems ordered w z seen rest
      else (s.write s.gridWriter pa bs).storeItems ordered w z (a :: seen) rest

/-- The FFI value of a gldff that an element stops, or none does (R136, R205). -/
def ffiWord (stop : Option Nat) : Word :=
  match stop with
  | none => BitVec.ofNat 64 (2 ^ 15)
  | some n => BitVec.ofNat 64 (n / 128 % 128 * 2 ^ 8 + n % 128)

end State

/-- The elements of one vector that a single access serves together with the one before them: those of active elements that all have one
address (R199). -/
def sameAccess (items : List (Nat × Nat × Nat)) (n : Nat) : Bool :=
  match items with
  | [] => false
  | x :: r => n != x.1 && r.all fun y => y.2.1 == x.2.1

/-- Do two windows share a row. -/
def sharesRows (a b : Window) : Bool := a.rows.any fun r => b.rows.contains r

/-- The index window of a gather that shares rows with its data window. -/
def sharedIdx (k : GlsKind) (w : Window) (wi : Option Window) : Option Window :=
  if k == .ldx then wi.filter (sharesRows w) else none

/-- The element that a probe pass found first: what a gldff traps on, and whose read serves every element of a load with element stride and
pitch 0 (R199, R205). -/
def Entry.firstItem (e : Entry) : Option Nat := e.pend.head?.map (·.1)

/-- The bytes of that read, none before it is made. -/
def Entry.firstBytes (e : Entry) : List Byte := (e.pend.head?.map (·.2.2)).getD []

/-- The element before which a gldff stops by its probe pass (R205). -/
def Entry.stopItem (e : Entry) : Option Nat := (e.pend.drop 1).head?.map (·.1)

namespace State

/-- The probe pass of a GLS entry, over every active element (R203): the entry keeps the pages found, its first element and, for a gldff, the
element that stops it; or how the entry ends without an access. -/
def glsProbe (s : State) (e : Entry) (k : GlsKind) (z : Nat) (items : List (Nat × Nat)) : State × Except RunRes Entry :=
  match s.probeItems (s.entryWho e 2) z (if k.isLoad then .load else .store) e.maps items with
  | (s1, m, none) => (s1, .error (.wait { e with maps := m }))
  | (s1, m, some pf) =>
    let first := (items.take 1).map fun p => (p.1, p.2, (e.pend.head?.map (·.2.2)).getD [])
    let e1 : Entry := { e with maps := m, probed := true, pend := if k.isLoad then first else [] }
    match pf with
    | none => (s1, .ok e1)
    | some (n, f) =>
      if k == .ldff && items.head?.map (·.1) != some n then (s1, .ok { e1 with pend := e1.pend ++ [(n, 0, [])] })
      else (s1, .error (.fault e f))

/-- The vector of a GLS entry is done: the next one follows, or the entry is complete, a gldff with ALL = 1 (R205). -/
def glsNext (s : State) (e : Entry) (k : GlsKind) (w : Window) : State × RunRes :=
  let e1 : Entry := { e with prog := 128 * (e.prog / 128 + 1) }
  if e.prog / 128 + 1 < w.count then (s, .more e1)
  else (if k == .ldff then s.updCore fun c => { c with ffi := ffiWord none } else s, .done e1)

/-- The read that serves every element of a load with element stride and pitch 0 (R199, R201, R238): its bytes stay with the entry. It is made
once, and not where its line is poisoned. -/
def readOnce (s : State) (e : Entry) (z : Nat) : List (Nat × Nat × Nat) → State × Entry
  | [] => (s, e)
  | (_, _, pa) :: _ =>
    if !e.firstBytes.isEmpty || s.poisonedRange pa z then (s, e)
    else (s.meterMem s.part pa z 0, { e with pend := match e.pend with
      | (n, a, _) :: r => (n, a, s.readBytes pa z) :: r
      | [] => [] })

/-- The loads of one vector (R202, R204, R205): poison stops them, and a gldff ends before the element that stops it. Of a load with element stride
and pitch 0 the first element is read, and its bytes stay with the entry for every other (R201, R238). -/
def loadVec (s : State) (e0 : Entry) (k : GlsKind) (z : Nat) (w : Window) (whole : Bool) (xs : List (Nat × Nat × Nat)) : State × RunRes :=
  let mine := match e0.stopItem with | some n => xs.filter fun x => decide (x.1 < n) | none => xs
  let (s0, e) := if whole then s.readOnce e0 z mine else (s, e0)
  match s0.loadItems w z (sameAccess mine) (if whole then e.firstBytes else []) mine with
  | (s1, some p) =>
    if k == .ldff && e.firstItem != some p.1 then (s1.updCore fun c => { c with ffi := ffiWord (some p.1) }, .done e)
    else (s1, .fault { e with prog := p.1, stop := .poison } p.2)
  | (s1, none) =>
    match e.stopItem with
    | some n => if n / 128 = e.prog / 128 then (s1.updCore fun c => { c with ffi := ffiWord (some n) }, .done e) else s1.glsNext e k w
    | none => s1.glsNext e k w

/-- The stores of one vector (R202, R238). The addresses that a gstx has stored to stay with the entry, for the free order of its elements. -/
def storeVec (s : State) (e : Entry) (k : GlsKind) (z : Nat) (w : Window) (xs : List (Nat × Nat × Nat)) : State × RunRes :=
  let upto (n : Nat) : Entry :=
    { e with pend := if k == .stx then e.pend ++ ((xs.filter fun x => decide (x.1 < n)).map fun x => (x.1, x.2.1, [])) else [] }
  match s.storeItems (k != .stx) w z (e.pend.map fun p => p.2.1) xs with
  | (s1, none) => s1.glsNext (upto (128 * (e.prog / 128 + 1))) k w
  | (s1, some (n, none)) => (s1, .wait { upto n with prog := n })
  | (s1, some (n, some f)) => (s1, .fault { e with prog := n, stop := .poison } f)

/-- One vector of a gather whose index window shares cells with its data window: each vector reads the cells that the vectors before it have
written (R118, R202). The probe pass covered the addresses of the cells as they stood; an element of a later vector whose
address has changed is checked when it is reached, and its fault stops the load there as a poisoned element does, the elements before it being
loaded (DESIGN CHOICE, assumption log 58). -/
def gatherVec (s : State) (e : Entry) (z : Nat) (w : Window) (items : List (Nat × Nat)) : State × RunRes :=
  match s.probeItems (s.entryWho e 2) z .load e.maps items with
  | (s1, m, none) => (s1, .wait { e with maps := m })
  | (s1, m, some bad) =>
    let e : Entry := { e with maps := m }
    let xs := (items.filter fun p => match bad with | some b => decide (p.1 < b.1) | none => true).map fun p => (p.1, p.2, mapped m p.2)
    match s1.loadItems w z (sameAccess xs) [] xs, bad with
    | (s2, some p), _ => (s2, .fault { e with prog := p.1, stop := .poison } p.2)
    | (s2, none), some (n, f) => (s2, .fault { e with prog := n, stop := .poison } { f with rest := some n })
    | (s2, none), none => s2.glsNext e .ldx w

/-- One vector of a GLS entry whose probe pass is over (R202 to R206). -/
def glsVec (s : State) (e : Entry) (k : GlsKind) (z : Nat) (w : Window) (km : KField) (base str : Word) (wi : Option Window) :
    State × RunRes :=
  let items := vecItems s.core.grid z (s.core.masks.governing km) base str wi e.prog (e.prog / 128)
  if (sharedIdx k w wi).isSome then s.gatherVec e z w items
  else
    let xs := items.map fun p => (p.1, p.2, mapped e.maps p.2)
    if k.isLoad then s.loadVec e k z w (wi.isNone && str == 0) xs else s.storeVec e k z w xs

/-- One unit of a GLS entry (R202 to R206): one vector, with the probe pass over every active element before the first. A gather over its own
index cells that has begun goes on without one. -/
def runGls (s : State) (e : Entry) (k : GlsKind) (z : Nat) (w : Window) (km : KField) (base str : Word)
    (wi : Option Window) : State × RunRes :=
  if e.probed || ((sharedIdx k w wi).isSome && e.prog != 0) then s.glsVec e k z w km base str wi
  else
    let items := glsItems s.core.grid z w (s.core.masks.governing km) base str wi e.prog
    if items.isEmpty then s.glsNext { e with prog := 128 * (w.count - 1) } k w
    else
      match s.glsProbe e k z items with
      | (s1, .error r) => (s1, r)
      | (s1, .ok e1) => s1.glsVec e1 k z w km base str wi

/-! ### gsave and grest (R129 to R131) -/

/-- Map a range for a grid-side access, with its first fault. -/
def mapRun (s : State) (w : Who) (k : Acc) (va : Word) (n : Nat) : State × Except (Option GFault) (List (Nat × Nat)) :=
  match s.mapPages w k (pageHeads (span va.toNat n)) with
  | (s1, .ok m) => (s1, .ok m)
  | (s1, .error none) => (s1, .error none)
  | (s1, .error (some (a, f))) =>
    (s1, .error (some { code := f.cause, tval := BitVec.ofNat 64 a, page := some (w.agent, f) }))

/-- Store one piece of an image: `some none` when it has to wait, `some (some f)` on a fault. A store into the memory of a fenced die
is cause 0x0C (R333); for a gsave the spec gives it neither RESTIDX nor the byte that TVAL names: DESIGN CHOICE, RESTIDX 0 and
the start of the piece (assumption log 58). -/
def saveRun (s : State) (w : Who) (va : Word) (bs : List Byte) : State × Option (Option GFault) :=
  match s.mapRun w .store va bs.length with
  | (s1, .error f) => (s1, some f)
  | (s1, .ok m) =>
    if (span va.toNat bs.length).any fun a => s1.lost (mapped m a) then
      (s1, some (some { code := 0x0C, tval := va, rest := some 0 }))
    else
      match s1.writeVirt s1.gridWriter m va.toNat bs 4 with
      | some s2 => (s2, none)
      | none => (s1.setLstall s1.part, some none)

/-- A row of an image is done: the next one follows, or the entry is complete. -/
def imageNext (s : State) (e : Entry) (n : Nat) : State × RunRes :=
  let e1 : Entry := { e with prog := e.prog + 1 }
  (s, if e1.prog < n then .more e1 else .done e1)

/-- One row of a gsave, fetched first where it is absent (R125). -/
def saveRow (s : State) (e : Entry) (half first n : Nat) (addr : Word) : State × RunRes :=
  match s.fetchRow half ((first + e.prog) % 128) with
  | (s1, some f) => (s1, .fault e f)
  | (s1, none) =>
    match s1.saveRun (s1.entryWho e 2) (addr + BitVec.ofNat 64 (64 + 512 * e.prog)) (rowImage s1.core.grid half (first + e.prog)) with
    | (s2, none) => s2.imageNext e n
    | (s2, some none) => (s2, .wait e)
    | (s2, some (some f)) => (s2, .fault e f)

/-- One row of a grest, whose bitmap the entry holds. -/
def restRow (s : State) (e : Entry) (half first n : Nat) (addr : Word) : State × RunRes :=
  let i := e.prog
  let va := addr + BitVec.ofNat 64 (64 + 512 * i)
  match s.mapRun (s.entryWho e 2) .load va 512 with
  | (s1, .error none) => (s1, .wait e)
  | (s1, .error (some f)) => (s1, .fault e f)
  | (s1, .ok m) =>
    let as := span va.toNat 512
    match as.findIdx? fun a => s1.poisoned (mapped m a) with
    | some k =>
      (s1, .fault { e with stop := .poison }
        { code := 0x0C, tval := (s1.poisonAmong m as).getD va, rest := some (i * 128 + k / 4) })
    | none =>
      let bs := as.map fun a => s1.byteAt (mapped m a)
      ((s1.meterReads s1.part (as.map (mapped m))).updCore fun c =>
        { c with grid := restoreRow c.grid half (first + i) (bitNat e.vp.acc.toNat i) bs }).imageNext e n

/-- The header of an image comes first: a grest keeps its bitmap (R130), and a gsave that starts at its first row writes it (R129). R131 gives
RESTIDX for a poisoned image row; for poison in the header of a grest: DESIGN CHOICE, the first cell of the row at which it stands
(assumption log 58). -/
def imageHead (s : State) (e : Entry) (rest : Bool) (half first n : Nat) (addr : Word) : State × Except RunRes Entry :=
  let e1 : Entry := { e with pend := [(0, 0, [])] }
  if !e.pend.isEmpty then (s, .ok e)
  else if rest then
    match s.readRun (s.entryWho e 2) addr 16 with
    | (s1, .error none) => (s1, .error (.wait e))
    | (s1, .error (some f)) =>
      (s1, .error (.fault { e with stop := if f.code = 0x0C then .poison else e.stop }
        (if f.code = 0x0C then { f with rest := some (e.prog * 128) } else f)))
    | (s1, .ok bm) => (s1, .ok { e1 with vp := { e1.vp with acc := BitVec.ofNat 128 (fromLE bm) } })
  else if e.prog = 0 then
    match s.saveRun (s.entryWho e 2) addr (imageHeader s.core.grid half first n) with
    | (s1, none) => (s1, .ok e1)
    | (s1, some none) => (s1, .error (.wait e))
    | (s1, some (some f)) => (s1, .error (.fault e f))
  else (s, .ok e1)

/-- One unit of a gsave or grest (R129 to R131): one row from its progress on, behind the header; none where nothing is left of it (R376). -/
def runImage (s : State) (e : Entry) (rest : Bool) (half first n : Nat) (addr : Word) : State × RunRes :=
  if addr.toNat % 64 ≠ 0 then (s, .fault e { code := 0x03, tval := addr })
  else if n ≤ e.prog then (s, .done e)
  else
    match s.imageHead e rest half first n addr with
    | (s1, .error r) => (s1, r)
    | (s1, .ok e1) => if rest then s1.restRow e1 half first n addr else s1.saveRow e1 half first n addr

end State

end Sys2Proof.Machine
end

