-- ==== Sys2Proof/Machine/Engine.lean ====
section
/-! DEFINITION. Sys2Proof/Machine/Engine.lean: completion counters (R254 to R256), acceptance, completion, parking and restart
of engine commands (R257 to R259), tensor maps and xfer (R260 to R265), xferb (R267), dztab (R274) and xdz (R275). -/

namespace Sys2Proof.Machine

/-! ### Counters -/

def Core.ctr (c : Core) (n : Nat) : Counter := c.ctrs.getD n Counter.init

def Core.setCtr (c : Core) (n : Nat) (x : Counter) : Core := { c with ctrs := c.ctrs.setIfInBounds n x }

namespace State

/-- Act as core `n`, then return to the core that moves. -/
def asCore (s : State) (n : Nat) (f : State → State) : State := (f (s.switchTo n)).switchTo s.cur

def setCmd (s : State) (c : Cmd) : State := { s with cmds := s.cmds.map fun x => if x.id == c.id then c else x }

def dropCmd (s : State) (id : Nat) : State := { s with cmds := s.cmds.filter fun x => x.id != id }

/-- The value of crd (R256). -/
def crdWord (s : State) (c : Nat) : Word :=
  let x := s.core.ctr c
  let parked := (s.cmds.filter fun m => m.core == s.cur && m.task == s.core.gridTaskId && m.ctr == c &&
    (match m.state with | .parked _ _ => true | .running | .waiting => false)).length
  BitVec.ofNat 64 (natOfBool x.f * 2 ^ 63 + (if x.f then x.cause % 256 else 0) * 2 ^ 48 + parked % 65536 * 2 ^ 32 + x.count)

/-- The counter of a command: on its core, or in the saved context of its pre-empted task (R369). -/
def modCtr (s : State) (c : Cmd) (f : Counter → Counter) : State :=
  if (s.getCore c.core).gridTaskId = c.task then s.modCore c.core fun k => k.setCtr c.ctr (f (k.ctr c.ctr))
  else s.modTask c.task fun t => { t with saved := t.saved.map fun (v : SavedCore) =>
    if v.core = c.core then { v with ctrs := v.ctrs.setIfInBounds c.ctr (f (v.ctrs.getD c.ctr Counter.init)) } else v }

/-- A command completes: its counter falls by one, to no lower than 0, and it is gone (R258). R235 has a held store to host memory performed at
the commit, and R258 has a command complete when its writes are performed; the rules do not say whether it waits for the commit: DESIGN CHOICE,
a held write of an engine counts as performed once the hold buffer has taken it (assumption log 72). -/
def completeCmd (s : State) (c : Cmd) : State :=
  (s.modCtr c fun (x : Counter) => { x with count := x.count - 1 }).dropCmd c.id

/-- Record a fault of a command on its core, under its own task. -/
def recordCmd (s : State) (c : Cmd) (ag : Nat) (tval : Word) (pf : PFault) : State :=
  s.asCore c.core fun s =>
    let old := s.core
    ((s.updCore fun k => { k with task := some c.task, prev := none }).recordFault c.part ag tval pf).updCore fun k =>
      { k with task := old.task, prev := old.prev }

/-- A run-time fault (R259): the command is parked at its point, the counter latches the first fault, and a page or
protection fault is recorded with AGENT 4. -/
def parkCmd (s : State) (c : Cmd) (f : GFault) : State :=
  let s1 := match f.page with
    | some (ag, pf) => s.recordCmd c ag f.tval pf
    | none => s
  let s2 := s1.modCtr c fun (x : Counter) => if x.f then x else { x with f := true, cause := f.code, tval := f.tval }
  s2.setCmd { c with state := .parked f.code f.tval }

/-- A command as an agent (R230). -/
def cmdWho (c : Cmd) : Who := { core := c.core, part := c.part, pl := c.pl, task := c.task, agent := 4, dev := false, id := c.id + 1 }

end State

/-- What the scout of an xdz holds of the block whose header is at `hdr` (R272). -/
def Cmd.scouted (c : Cmd) (hdr : Word) : List Byte := ((c.snap.find? fun p => p.1 == hdr.toNat).map (·.2)).getD []

/-- Does a page of physical memory meet a reservation of the task that is saved in a cluster frame (R370). -/
def Task.pageSaved (t : Task) (base : Nat) : Bool :=
  t.spads.any fun v =>
    let lo := spadBase + v.1.cluster * spadBytes + v.1.off
    decide (base < lo + v.1.size) && decide (lo < base + 2 ^ 17)

namespace State

/-- Does a run of virtual addresses reach a saved reservation of the task: through the aperture of the command's own cluster, or through a
mapping (R195, R370). -/
def runSaved (s : State) (c : Cmd) (t : Task) (k : Acc) (va : Word) (n : Nat) : Bool :=
  (pageHeads (span va.toNat n)).any fun p =>
    if apertureBase ≤ p.2 && p.2 < apertureBase + spadBytes then t.spads.any fun v => v.1.cluster == coreCluster c.core
    else match (s.translate (cmdWho c) k (BitVec.ofNat 64 p.2)).2 with
      | .ok pa => t.pageSaved (pa / 2 ^ 17 * 2 ^ 17)
      | .fault _ | .wait => false

/-- Does the next block of an xdz reach a saved reservation: its header, its coded bytes or what its image is written to. -/
def blockSaved (s : State) (c : Cmd) (t : Task) (dst : Word) : Bool :=
  let held := c.scouted c.dz
  (held.isEmpty && s.runSaved c t .load c.dz 32)
    || (match if held.isEmpty then (s.peekRun (cmdWho c) c.dz 32).2 else .ok (held.take 32) with
    | .ok hb =>
      let h := parseHdr hb
      (decide (held.length < 32 + h.clen) && s.runSaved c t .load (c.dz + 32) h.clen) || s.runSaved c t .store (dst + BitVec.ofNat 64 c.next) h.dlen
    | .error _ => false)

/-- Does a command reach scratchpad of its pre-empted task that is saved in a frame (R370): it goes on once the range is back
(R196). -/
def reachesSaved (s : State) (c : Cmd) : Bool :=
  match s.findTask c.task with
  | some t => !t.spads.isEmpty && (match c.op with
    | .xfer _ _ _ sm dm => (sm ++ dm).any fun p => t.pageSaved p.2
    | .send x => ((x.smap ++ x.rmap).any fun p => t.pageSaved p.2) || s.runSaved c t .store (x.desc + 0x18) 8
    | .recv x => (x.dmap.any fun p => t.pageSaved p.2) || s.runSaved c t .store (x.desc + 0x18) 8
    | .xdz dst _ _ => s.blockSaved c t dst
    | .dztab _ a => s.runSaved c t .load a 320)
  | none => false

/-- The writer of a command (R306): a member task's command keeps the interval and the hold of its acceptance, any other carries
the entry interval of the moment. -/
def cmdWriter (s : State) (c : Cmd) : Wr :=
  if (match s.findTask c.task with | some t => t.member | none => false) then
    ⟨c.part, c.rin, c.hold, coreDie c.core, some c.core⟩
  else ⟨c.part, s.entryInterval, c.hold, coreDie c.core, some c.core⟩

/-- Accept a command on a counter (R257 step 5). -/
def acceptCmd (s : State) (e : Entry) (ctr : Nat) (op : CmdOp) (dz : Word) : State :=
  let w := s.gridWriter
  let c : Cmd :=
    { id := s.nextCmd, core := s.cur, ctr := ctr, op := op, pc := e.pc, word := e.word, pl := e.pl, part := s.part,
      task := s.core.gridTaskId, rin := w.rin, hold := w.hold, state := .running, next := 0, dz := dz }
  { s with cmds := s.cmds ++ [c], nextCmd := s.nextCmd + 1 }.updCore fun k =>
    k.setCtr ctr { k.ctr ctr with count := (k.ctr ctr).count + 1 }

/-- Step 4 of R257. -/
def ctrFull (s : State) (ctr : Nat) : Bool := decide (65535 < (s.core.ctr ctr).count + 1)

/-- Is the table loader of a cluster in use (R257). -/
def loaderInUse (s : State) (cluster : Nat) : Bool :=
  s.cmds.any fun c => coreCluster c.core == cluster && c.state == .running
    && (match c.op with | .dztab _ _ => true | .xfer _ _ _ _ _ | .xdz _ _ _ | .send _ | .recv _ => false)

/-- Transfer engines of a cluster in use. -/
def xferInUse (s : State) (cluster : Nat) : Nat :=
  (s.cmds.filter fun c => coreCluster c.core == cluster && c.state == .running
    && (match c.op with | .xfer _ _ _ _ _ => true | .xdz _ _ _ | .dztab _ _ | .send _ | .recv _ => false)).length

/-! ### Tensor maps (R260 to R262) -/

end State

/-- A map from its 64 bytes (R260). -/
def parseMap (bs : List Byte) : TMap :=
  let f (off lo n : Nat) : Nat := (leField bs off 8 >>> lo) % 2 ^ n
  { base := BitVec.ofNat 64 (leField bs 0 8)
    sizeM1 := (List.range 4).map fun d => f (8 + 8 * d) 40 24
    stride := (List.range 4).map fun d => signedNat 40 (f (8 + 8 * d) 0 40)
    boxM1 := (List.range 4).map fun d => f 0x28 (16 * d) 16
    tag := f 0x30 48 16, fixed := f 0x30 46 1 == 1, tagen := f 0x30 45 1 == 1, scope := f 0x30 42 3
    transp := f 0x30 41 1 == 1, swz := f 0x30 39 2, ndims := f 0x30 37 2 + 1, ty := f 0x30 32 4, fill := f 0x30 0 32
    origin := (List.range 4).map fun d => signedNat 16 (f 0x38 (16 * d) 16) }

/-- Row 2 of R262: type, scope, reserved bits, unused dimensions. -/
def mapBad (bs : List Byte) (m : TMap) : Bool :=
  let w6 := leField bs 0x30 8
  decide (12 ≤ m.ty) || decide (5 ≤ m.scope) || bitNat w6 47 || bitNat w6 36
    || (List.range 4).any fun d => decide (m.ndims ≤ d) &&
        (m.sizeM1.getD d 0 != 0 || m.stride.getD d 0 != 0 || m.boxM1.getD d 0 != 0)

/-- Element width in bytes. -/
def TMap.w (m : TMap) : Nat := ((ETy.ofCode m.ty).map fun t => t.width / 8).getD 1

def TMap.b (m : TMap) (d : Nat) : Nat := m.boxM1.getD d 0 + 1

/-- Elements of the box. -/
def TMap.count (m : TMap) : Nat := m.b 0 * m.b 1 * m.b 2 * m.b 3

/-- The coordinates of an element number (R261). -/
def TMap.coord (m : TMap) (n d : Nat) : Nat :=
  match d with
  | 0 => n % m.b 0
  | 1 => n / m.b 0 % m.b 1
  | 2 => n / (m.b 0 * m.b 1) % m.b 2
  | _ => n / (m.b 0 * m.b 1 * m.b 2)

/-- The address of an element with coordinates `i` (R261); none out of bounds. -/
def TMap.addr (m : TMap) (x3 : Word) (i : Nat → Nat) : Option Nat :=
  let x (d : Nat) : Int :=
    (m.origin.getD d 0 + (if m.fixed then 0 else signedNat 16 (fieldNat x3 (16 * d) 16))) * (m.b d : Nat) + (i d : Nat)
  if (List.range 4).all fun d => decide (0 ≤ x d) && decide (x d ≤ (m.sizeM1.getD d 0 : Nat)) then
    let off := wrap64 ((List.range 4).map fun d => x d * m.stride.getD d 0).sum
    let p := 5 + m.swz
    let off' := if m.swz = 0 then off else off ^^^ (((off >>> p) % 2 ^ (p - 4)) <<< 4)
    some ((m.base.toNat + off') % 2 ^ 64)
  else none

/-- Exchange dimensions 0 and 1. -/
def trDim (tr : Bool) (d : Nat) : Nat := if tr then (match d with | 0 => 1 | 1 => 0 | k => k) else d

/-- The source and destination addresses of element `n` (R263). -/
def xferElem (dst src : TMap) (x3 : Word) (n : Nat) : Option Nat × Option Nat :=
  let tr := src.transp != dst.transp
  (src.addr x3 (src.coord n), dst.addr x3 fun d => src.coord n (trDim tr d))

/-- The checks of R262 on two maps at `da` and `sa`, without the overlap: the cause and TVAL of the first that applies. -/
def xferCheck (da sa : Word) (db sb : List Byte) (dst src : TMap) : Option GFault :=
  let tr := src.transp != dst.transp
  let f (c : Nat) (t : Word) : Option GFault := some { code := c, tval := t }
  let w := src.w
  let baseBad (m : TMap) : Bool :=
    m.base.toNat % w != 0 || ((List.range m.ndims).any fun d => m.stride.getD d 0 % w != 0)
      || (m.swz != 0 && m.base.toNat % 2 ^ (5 + m.swz) != 0)
  if sa.toNat % 64 ≠ 0 then f 0x03 sa
  else if da.toNat % 64 ≠ 0 then f 0x03 da
  else if mapBad sb src then f 0x02 sa
  else if mapBad db dst then f 0x02 da
  else if dst.w ≠ w then f 0x02 sa
  else if (List.range 4).any fun d => dst.b d != src.b (trDim tr d) then f 0x02 da
  else if 16777216 < src.count then f 0x02 sa
  else if baseBad src then f 0x03 src.base
  else if baseBad dst then f 0x03 dst.base
  else none

/-- The lowest and highest-plus-width addresses of some elements (R265). -/
def spanOf (w : Nat) (as : List Nat) : Option (Nat × Nat) :=
  as.foldl (fun b a => match b with
    | none => some (a, a + w)
    | some p => some (if a < p.1 then a else p.1, if p.2 < a + w then a + w else p.2)) none

/-- How a copy overlaps (R265): whether the spans share a byte, whether it is an identity copy, and whether the destination
starts above the source. -/
structure Overlap where
  shared : Bool
  ident  : Bool
  above  : Bool
  low    : Nat
deriving DecidableEq, Repr

def overlap (dst src : TMap) (x3 : Word) : Overlap :=
  let els := (List.range src.count).map (xferElem dst src x3)
  let nd := if src.ndims < dst.ndims then dst.ndims else src.ndims
  let ident := src.transp == dst.transp && src.swz == 0 && dst.swz == 0
    && (List.range nd).all fun d => src.stride.getD d 0 == dst.stride.getD d 0
  match spanOf src.w (els.filterMap (·.1)), spanOf src.w (els.filterMap (·.2)) with
  | some a, some b => ⟨decide (a.1 < b.2) && decide (b.1 < a.2), ident, decide (a.1 < b.1), b.1⟩
  | _, _ => ⟨false, ident, false, 0⟩

/-- The element numbers in processing order (R263). -/
def xferOrder (dst src : TMap) (x3 : Word) : List Nat :=
  let o := overlap dst src x3
  if o.shared && o.ident && o.above then (List.range src.count).reverse else List.range src.count

namespace State

/-- The probe of R264: one translation per page, the first failing element in element order. -/
def probeOrder (s : State) (w : Who) (k : Acc) (as : List Nat) :
    State × Except (Option (Nat × PFault)) (List (Nat × Nat)) :=
  s.mapPages w k
    (as.foldl (fun (m : List (Nat × Nat)) a => if m.any fun p => p.1 == a / 2 ^ 17 then m else m ++ [(a / 2 ^ 17, a)]) [])

/-- Count the 64 bytes of each descriptor that a command has read in step 1 of R257 (R384). -/
def readMaps (s : State) (e : Entry) (as : List Word) : State :=
  as.foldl (fun s a => s.meterVirt (s.entryWho e 2) (span a.toNat 64)) s

/-- Steps 1 to 3 of R257 for an xfer: the maps and the pages of source and destination, or the fault. -/
def prepXfer (s : State) (e : Entry) (da sa x3 : Word) :
    State × Except (Option GFault) (TMap × TMap × List (Nat × Nat) × List (Nat × Nat)) :=
  match s.peekRun (s.entryWho e 2) sa 64 with
  | (s1, .error f) => (s1, .error f)
  | (s1, .ok sb) =>
    match s1.peekRun (s1.entryWho e 2) da 64 with
    | (s2, .error f) => (s2, .error f)
    | (s2, .ok db) =>
      let src := parseMap sb
      let dst := parseMap db
      match xferCheck da sa db sb dst src with
      | some f => (s2, .error (some f))
      | none =>
        let o := overlap dst src x3
        if o.shared && !o.ident && decide (262144 < src.count * src.w) then
          (s2, .error (some { code := 0x09, tval := BitVec.ofNat 64 o.low }))
        else
          let els := (List.range src.count).map (xferElem dst src x3)
          let fault (a : Nat) (f : PFault) : Except (Option GFault) (TMap × TMap × List (Nat × Nat) × List (Nat × Nat)) :=
            .error (some { code := f.cause, tval := BitVec.ofNat 64 a, page := some (4, f) })
          match s2.probeOrder (s2.entryWho e 4) .load (els.filterMap (·.1)) with
          | (s3, .error none) => (s3, .error none)
          | (s3, .error (some (a, f))) => (s3, fault a f)
          | (s3, .ok sm) =>
            match s3.probeOrder (s3.entryWho e 4) .store (els.filterMap (·.2)) with
            | (s4, .error none) => (s4, .error none)
            | (s4, .error (some (a, f))) => (s4, fault a f)
            | (s4, .ok dm) => (s4, .ok (dst, src, sm, dm))

/-- Set the tags of the scratchpad granules that a write touched, of those that `whole` names by number: the others take the tag with a later
write of the command, after all its bytes within them (R211). -/
def setTags (s : State) (tagen : Bool) (tag pa n : Nat) (whole : Nat → Bool := fun _ => true) : State :=
  if tagen && s.region pa == .spad then
    { s with seqtags := (((unitsOf 4096 (pa - spadBase) n).map (· / 4096)).filter whole).foldl (fun m g => Sp.put 0 m g tag) s.seqtags }
  else s

/-- The last place in processing order, counted from 1, at which an xfer writes into each scratchpad granule (R211). -/
def lastWrites (s : State) (dst src : TMap) (x3 : Word) (dm : List (Nat × Nat)) (els : List (Nat × Nat)) : Sp Nat :=
  if !dst.tagen then []
  else els.foldl (fun m p => match (xferElem dst src x3 p.2).2 with
    | some a =>
      let pa := mapped dm a
      if s.region pa == .spad then (unitsOf 4096 (pa - spadBase) src.w).foldl (fun m u => Sp.put 0 m (u / 4096) (p.1 + 1)) m else m
    | none => m) []

/-- A run-time fault at an unpopulated address (R214). -/
def unpopFault (a : Nat) : GFault := { code := 0x07, tval := BitVec.ofNat 64 a, page := some (4, ⟨0x07, 7, 15⟩) }

/-- Read one source element of an xfer: its bytes, or its run-time fault. The tag of a scratchpad granule is compared at the first
read of it by the command (R212); the granules compared are answered too. -/
def xferRead (s : State) (src : TMap) (sm : List (Nat × Nat)) (tchd : List Nat) (a : Option Nat) :
    Except GFault (List Byte) × List Nat :=
  match a with
  | none => (.ok (leBytes src.w src.fill), tchd)
  | some a =>
    let pa := mapped sm a
    let check := src.tagen && s.region pa == .spad && !tchd.contains (pa / 4096)
    if s.unpopulated pa then (.error (unpopFault a), tchd)
    else if check && s.seqtag pa != src.tag then (.error { code := 0x08, tval := BitVec.ofNat 64 a }, tchd)
    else
      (if s.poisonedRange pa src.w then .error { code := 0x0C, tval := s.poisonVa (BitVec.ofNat 64 a) pa src.w }
        else .ok (s.readBytes pa src.w),
       if check then tchd ++ [pa / 4096] else tchd)

/-- What writing one element gives. -/
inductive PutRes where
  | ok (s : State)
  | stall (s : State)
  | fault (f : GFault)

/-- Write one destination element of an xfer (R263): it may have to wait for capacity (R309, R320); an unpopulated target and the
memory of a fenced die are run-time faults (R214, R333). `whole` names the granules whose last bytes these are. -/
def xferWrite (s : State) (c : Cmd) (dst : TMap) (dm : List (Nat × Nat)) (whole : Nat → Bool) (a : Option Nat) (bs : List Byte) : PutRes :=
  match a with
  | none => .ok s
  | some a =>
    let pa := mapped dm a
    if s.unpopulated pa then .fault (unpopFault a)
    else if s.lost pa then .fault { code := 0x0C, tval := s.poisonVa (BitVec.ofNat 64 a) pa bs.length }
    else if s.writeStalls (s.cmdWriter c) pa bs.length then .stall (s.setLstall c.part)
    else .ok ((s.write (s.cmdWriter c) pa bs).setTags dst.tagen dst.tag pa bs.length whole)

/-- Count a source element that an xfer has read (R384). -/
def meterElem (s : State) (c : Cmd) (src : TMap) (sm : List (Nat × Nat)) (fresh : Bool) (a : Option Nat) : State :=
  match fresh, a with
  | true, some a => s.meterMem c.part (mapped sm a) src.w 0
  | true, none | false, _ => s

/-- Read and write element by element in processing order (R263): a value that an overlapping copy has read already is taken from
what it holds (R265). The command parks at its first fault. `last` tells when a granule takes its tag. -/
def xferLoop (s : State) (c : Cmd) (dst src : TMap) (x3 : Word) (sm dm : List (Nat × Nat)) (last : Sp Nat) : List (Nat × Nat) → State
  | [] => s.completeCmd c
  | (k, n) :: rest =>
    let p := xferElem dst src x3 n
    let held := (c.snap.find? fun x => x.1 == k).map (·.2)
    match c.flt.filter fun x => x.1 == k with
    | some x => s.parkCmd { c with next := k, flt := none } x.2
    | none =>
      let rd : Except GFault (List Byte) × List Nat := match held with
        | some bs => (.ok bs, c.tchd)
        | none => s.xferRead src sm c.tchd p.1
      match rd.1 with
      | .error f => s.parkCmd { c with next := k, tchd := rd.2 } f
      | .ok bs =>
        match s.xferWrite c dst dm (fun g => Sp.get 0 last g == k + 1) p.2 bs with
        | .fault f => s.parkCmd { c with next := k, tchd := rd.2 } f
        | .stall s1 => s1.setCmd { c with next := k, tchd := rd.2 }
        | .ok s1 => (s1.meterElem c src sm held.isNone p.1).xferLoop { c with tchd := rd.2 } dst src x3 sm dm last rest

/-- An overlapping copy reads every element before its first write (R265, R266): the values of the elements not read yet, and the
first fault. What can be read is read once, be it behind a fault: a restart at that fault reads it no second time (DEDUCED,
assumption log 59). -/
def xferSnap (s : State) (c : Cmd) (dst src : TMap) (x3 : Word) (sm : List (Nat × Nat)) (els : List (Nat × Nat)) : Cmd :=
  (els.filter fun p => !c.snap.any fun x => x.1 == p.1).foldl (fun c p =>
    match s.xferRead src sm c.tchd (xferElem dst src x3 p.2).1 with
    | (.ok bs, t) => { c with snap := c.snap ++ [(p.1, bs)], tchd := t }
    | (.error f, t) => { c with flt := match c.flt with | some x => some x | none => some (p.1, f), tchd := t }) c

/-- Run an accepted xfer from its recorded element (R263) with the pages that its probe found (R264). `bad` is a place in processing order at which
a residue mismatch stops it, unless a fault does so before. -/
def runXfer (s : State) (c : Cmd) (dst src : TMap) (x3 : Word) (sm dm : List (Nat × Nat)) (bad : Option Nat := none) : State :=
  let els := ((xferOrder dst src x3).mapIdx fun k n => (k, n)).drop c.next
  let c1 := if (overlap dst src x3).shared && c.flt.isNone then s.xferSnap c dst src x3 sm els else c
  let new := (c1.snap.drop c.snap.length).map (·.1)
  let c2 : Cmd := match bad with
    | some k => { c1 with flt := match c1.flt.filter fun x => decide (x.1 < k) with
                    | some x => some x
                    | none => some (k, { code := 0x0D, tval := 0 }) }
    | none => c1
  (els.foldl (fun s p => s.meterElem c src sm (new.contains p.1) (xferElem dst src x3 p.2).1) s).xferLoop c2 dst src x3 sm dm
    (s.lastWrites dst src x3 dm els) els

/-! ### xdz (R275) -/

/-- The scout pass of an xdz (R272) from the header at `hdr` on, over `n` blocks: it stops at a LAST block, at a fault, which it holds, and at a
wait. R272 sets no least distance: DESIGN CHOICE, it goes as far as it may (assumption log 73). -/
def scoutXdz (s : State) (c : Cmd) (hdr : Word) : Nat → State × Cmd
  | 0 => (s, c)
  | n + 1 =>
    if (scoutFault c.flt.toList hdr).isSome then (s, c)
    else
      let r := s.scoutBlock (cmdWho c) none hdr (c.scouted hdr)
      let h := parseHdr (r.2.1.take 32)
      let c1 := if r.2.1.isEmpty then c else { c with snap := (c.snap.filter fun p => p.1 != hdr.toNat) ++ [(hdr.toNat, r.2.1)] }
      match r.2.2 with
      | some (some f) => (r.1, { c1 with flt := some (hdr.toNat, f) })
      | some none => (r.1, c1)
      | none => if !h.magicOk || h.last then (r.1, c1) else r.1.scoutXdz c1 (hdr + BitVec.ofNat 64 h.span) n

/-- The data pass of an xdz at its next block (R271, R272): what the scout has read of it is checked and decoded. -/
def blockAt (s : State) (c : Cmd) (expect : Option Nat) (ratio : Nat) : Except (Option GFault) (BlockHdr × List Byte) :=
  let flt := scoutFault c.flt.toList c.dz
  match c.scouted c.dz with
  | [] => .error flt
  | bs => s.blockOf (cmdWho c) c.id c.dz (bs.take 32) expect ratio (codedOf bs flt)

/-- An xdz parks at its next block, which a restart reads anew with those behind it (R259). -/
def parkXdz (s : State) (c : Cmd) (f : GFault) : State := s.parkCmd { c with snap := [], flt := none } f

/-- Blocks of an xdz from its recorded one on, at most `fuel`. The scout reads the block being decoded and up to 16 beyond it; while scratchpad of
its task is saved in a frame it stays with the block being decoded (R370). A granule takes the tag with the block that writes its last byte of
the destination (R211). -/
def runXdz (s0 : State) (c0 : Cmd) (dst prm : Word) : Nat → State
  | 0 => s0.setCmd c0
  | fuel + 1 =>
    let fmt := fieldNat prm 35 5
    if s0.reachesSaved c0 then s0.setCmd c0
    else
    let away := match s0.findTask c0.task with | some t => !t.spads.isEmpty | none => false
    let (s1, c) := s0.scoutXdz c0 c0.dz (if away then 1 else 17)
    match s1.blockAt c (if fmt = 31 then none else some fmt) (fieldNat prm 40 4) with
    | .error none => s1.setCmd c
    | .error (some f) => s1.parkXdz c f
    | .ok (h, img) =>
      if fieldNat prm 0 32 < c.next + h.dlen then s1.parkXdz c { code := 0x0A, tval := c.dz }
      else
        let va := dst + BitVec.ofNat 64 c.next
        match s1.mapPages (cmdWho c) .store (pageHeads (span va.toNat img.length)) with
        | (s2, .error none) => s2.setCmd c
        | (s2, .error (some (a, f))) =>
          s2.parkXdz c { code := f.cause, tval := BitVec.ofNat 64 a, page := some (4, f) }
        | (s2, .ok m) =>
          match (span va.toNat img.length).find? fun a => s2.unpopulated (mapped m a),
            (span va.toNat img.length).find? fun a => s2.lost (mapped m a) with
          | some a, _ => s2.parkXdz c (unpopFault a)
          | none, some a => s2.parkXdz c { code := 0x0C, tval := s2.poisonVa (BitVec.ofNat 64 a) (mapped m a) 1 }
          | none, none =>
            match s2.writeVirt (s2.cmdWriter c) m va.toNat img 3 with
            | none => (s2.setLstall c.part).setCmd c
            | some s3 =>
              let s4 := (unitsOf 4096 va.toNat img.length).foldl (fun s (g : Nat) =>
                if h.last || decide (g + 4096 ≤ va.toNat + img.length) then
                  s.setTags (prm.getLsbD 47) (fieldNat prm 48 16) (mapped m (max g va.toNat % 2 ^ 64)) 1
                else s) s3
              if h.last then s4.completeCmd c
              else s4.runXdz { c with next := c.next + h.dlen, dz := c.dz + BitVec.ofNat 64 h.span
                                      snap := c.snap.filter fun p => p.1 != c.dz.toNat } dst prm fuel

/-- Are the captured operands of an xdz legal (R275). -/
def xdzOk (hdr prm : Word) : Bool :=
  hdr.toNat % 32 == 0 && fieldNat prm 40 4 != 0 && (decide (fieldNat prm 35 5 < 28) || fieldNat prm 35 5 == 31)
    && decide (fieldNat prm 44 3 < 5) && fieldNat prm 32 3 == 0

/-! ### dztab (R273, R274) -/

/-- A qldz of the command's task in its cluster that was accepted before it and has not retired: on a core, or saved with the
context of the pre-empted task (R274). -/
def qldzAhead (s : State) (c : Cmd) : Bool :=
  let q := coreCluster c.core
  let waits (x : Stream) : Bool := x.kind == .qldz && decide (x.seq < c.id)
  ((List.range 4).any fun i =>
    let k := s.getCore (q * 4 + i)
    k.gridTaskId == c.task && k.streams.any waits)
  || (match s.findTask c.task with
    | some t => t.saved.any fun v => coreCluster v.core == q && v.streams.any waits
    | none => false)

/-- Does the dztab still wait for an xdz or qldz of its task in its cluster that was accepted before it. -/
def dztabWaits (s : State) (c : Cmd) : Bool :=
  (s.cmds.any fun x => x.task == c.task && coreCluster x.core == coreCluster c.core && decide (x.id < c.id)
    && (match x.op with | .xdz _ _ _ => true | .xfer _ _ _ _ _ | .dztab _ _ | .send _ | .recv _ => false))
  || s.qldzAhead c

/-- A dztab installs the image that it has read, if that is valid, once nothing before it decodes with the table. -/
def installTable (s : State) (c : Cmd) (n : Nat) (addr : Word) (img : List Byte) : State :=
  if s.dztabWaits c then s.setCmd { c with snap := [(0, img)] }
  else
    match parseTable img with
    | none => s.parkCmd { c with snap := [] } { code := 0x0B, tval := addr }
    | some t => (s.modTask c.task fun x =>
        { x with tables := Sp.put [] x.tables (coreCluster c.core * 4 + n) t }).completeCmd c

/-- Run a dztab (R274): it reads the image once, waits, and installs it. R264 lets the pages that a probe found stand for an xfer alone: DESIGN
CHOICE, a dztab translates its image anew when it reads it, and so may park with a page fault (assumption log 67). -/
def runDztab (s : State) (c : Cmd) (n : Nat) (addr : Word) : State :=
  match c.snap with
  | (_, img) :: _ => s.installTable c n addr img
  | [] =>
    match s.readRun (cmdWho c) addr 320 with
    | (s1, .error none) => s1.setCmd c
    | (s1, .error (some f)) => s1.parkCmd c f
    | (s1, .ok img) => s1.installTable c n addr img

/-! ### Restart (R259) -/

/-- The parked commands of the core's task, those of a task that was pre-empted on it apart: they are parked with its context
(R259). -/
def parkedHere (s : State) (c : Cmd) : Bool :=
  c.core == s.cur && c.task == s.core.gridTaskId && (match c.state with | .parked _ _ => true | .running | .waiting => false)

/-- eret restarts every parked command of the core and clears F of their counters. -/
def restartCmds (s : State) : State :=
  let mine := s.cmds.filter s.parkedHere
  let go (c : Cmd) : Cmd := if s.parkedHere c then { c with state := .waiting, since := s.ticks } else c
  let s1 : State := { s with cmds := s.cmds.map go }
  s1.updCore fun k => mine.foldl (fun k c => k.setCtr c.ctr { k.ctr c.ctr with f := false, cause := 0, tval := 0 }) k

/-- cset cancels the parked commands of its counter (R255, R259). Cancelled link commands tell their peers (R349). -/
def cancelParked (s : State) (ctr : Nat) : State :=
  let mine (c : Cmd) : Bool := s.parkedHere c && c.ctr == ctr
  { s with cmds := s.cmds.filter fun c => !mine c, net := s.net ++ linkCancels (s.cmds.filter mine) }

end State

end Sys2Proof.Machine
end

