-- ==== Sys2Proof/Machine/Sync.lean ====
section
/-! DEFINITION. Sys2Proof/Machine/Sync.lean: iteration rings (R276 to R281), barrier objects (R282 to R290), the tag table
(R208 to R210) and accumulation windows (R291 to R300), as work of a grid-side entry at the engine port or in the window
pipe. -/

namespace Sys2Proof.Machine

/-- Does an entry make grid-side writes that a release waits for (R278 step 1). -/
def GOp.writesMem : GOp → Bool
  | .gls k _ _ _ _ _ _ => !k.isLoad
  | .gimage rest _ _ _ _ => !rest
  | .amerge _ => true
  | _ => false

/-- Has every earlier write of the core's grid side been performed: no earlier entry that writes is incomplete. -/
def released (earlier : List Entry) : Bool := !earlier.any fun e => e.op.writesMem && !e.fin

namespace State

/-- The release wait of R278: the core's earlier scalar stores that wait are performed, and the writes of its earlier entries must have
been. -/
def releaseWait (s : State) (e : Entry) (earlier : List Entry) : State × Bool :=
  let s1 := s.landBefore e.ord
  (s1, !s1.storesBefore e.ord && released earlier)

/-! ### Iteration rings -/

/-- The key of a channel of the die of a core (R276). -/
def chanKey (core ch : Nat) : Nat := coreDie core * 8 + ch

def channel (s : State) (ch : Nat) : Chan :=
  match s.gridTask with
  | some t => Sp.get Chan.init t.chans (chanKey s.cur ch)
  | none => Chan.init

def setChannel (s : State) (ch : Nat) (x : Chan) : State :=
  s.modTask s.core.gridTaskId fun t => { t with chans := Sp.put Chan.init t.chans (chanKey s.cur ch) x }

end State

/-- Move H over the posted iterations that follow it (R278). -/
def Chan.slide (x : Chan) : Nat → Chan
  | 0 => x
  | fuel + 1 => if x.posted.contains (x.h + 1) then
      Chan.slide { h := x.h + 1, posted := x.posted.filter fun i => i != x.h + 1 } fuel
    else x

/-- Keep the posted set in ascending order. -/
def insertInt (n : Int) : List Int → List Int
  | [] => [n]
  | m :: r => if n < m then n :: m :: r else m :: insertInt n r

/-- Apply a post (R278 step 3). -/
def Chan.post (x : Chan) (n : Int) : Chan :=
  if n ≤ x.h || x.posted.contains n then x
  else Chan.slide { x with posted := insertInt n x.posted } 65

namespace State

/-- ipost at the engine port (R278). -/
def runIpost (s : State) (e : Entry) (earlier : List Entry) (ch : Nat) (n : Word) : State × RunRes :=
  let x := s.channel ch
  match s.releaseWait e earlier with
  | (s1, false) => (s1, .wait { e with stop := .wait })
  | (s1, true) =>
    if x.h + 64 < n.toInt then (s1, .wait { e with stop := .wait })
    else (s1.setChannel ch (x.post n.toInt), .done e)

/-- iwait at the engine port (R279). -/
def runIwait (s : State) (e : Entry) (ch : Nat) (n : Word) : State × RunRes :=
  if n.toInt ≤ (s.channel ch).h then (s, .done e) else (s, .wait { e with stop := .wait })

end State

/-! ### Barrier objects -/

/-- The fields of a barrier address (R283). -/
structure BarAddr where
  dev   : Nat
  task  : Nat
  scope : Nat
  die   : Nat
  index : Nat
deriving DecidableEq, Repr

def barAddr (a : Word) : BarAddr :=
  ⟨fieldNat a 48 16, fieldNat a 16 32, fieldNat a 14 2, fieldNat a 6 2, fieldNat a 0 6⟩

/-- Is a barrier address legal at dispatch (R284). -/
def barAddrOk (a : Word) : Bool :=
  let b := barAddr a
  fieldNat a 8 6 == 0 && !(b.scope == 0 && b.die != 0) && !(decide (b.scope < 3) && (b.dev != 0 || b.task != 0))

/-- Where a barrier operation acts: an object of a task here (the task and the object's key), or another device. -/
inductive BarSite where
  | here (task key : Nat)
  | remote
  | bad
deriving DecidableEq, Repr

namespace State

/-- The holder's object of a memory-side address, with the checks of R284. -/
def memSide (s : State) (p holder : Nat) (b : BarAddr) : BarSite :=
  match s.findTask holder with
  | some t =>
    if t.part == p && decide (b.index < t.nb) && t.cores.any (fun n => coreDie n == b.die) then
      .here holder (2048 + b.die * 64 + b.index)
    else .bad
  | none => .bad

/-- The route table's links for a device (R337): the first in state 2, primary before alternate. The table has 16,384 entries and the spec does
not say which one a DEVID of 16,384 or more takes: DESIGN CHOICE, that of the DEVID modulo 16,384, here and in `linkFor` (assumption log 28). -/
def routeLink (s : State) (dev : Nat) : Option Nat :=
  let e := Sp.get 0 s.routes (dev % 16384)
  [e % 16, e / 16 % 16].find? fun l => decide (l < 12) && (s.links.getD l Link.init).state == 2

/-- The link that a device's commands take (R337, R350): the primary unless it is none or lost, else the alternate. -/
def linkFor (s : State) (dev : Nat) : Option Nat :=
  let e := Sp.get 0 s.routes (dev % 16384)
  [e % 16, e / 16 % 16].find? fun l => decide (l < 12) && (s.links.getD l Link.init).state != 3

/-- Where a barrier operation of the core that moves acts (R283, R284); one of a partition whose TENANT is 0 reaches no other device
(R383). -/
def barSite (s : State) (a : Word) : BarSite :=
  let b := barAddr a
  let me := s.core.gridTaskId
  if b.scope = 0 then
    match s.findTask me with
    | some t => if b.index < t.nb then .here me (coreCluster s.cur * 64 + b.index) else .bad
    | none => .bad
  else if b.scope < 3 then s.memSide s.part me b
  else if b.dev = s.devid then s.memSide s.part (if b.task = 0 then me else b.task) b
  else if b.task = 0 || !s.dom.members.contains b.dev || (s.routeLink b.dev).isNone || (s.getPart s.part).tenant = 0 then .bad
  else .remote

def barObj (s : State) (task key : Nat) : BarObj :=
  match s.findTask task with
  | some t => Sp.get BarObj.empty t.bars key
  | none => BarObj.empty

end State

/-- bar.init (R285). -/
def BarObj.start (scope n : Nat) : BarObj := ⟨true, n, 0, 0, scope⟩

/-- One arrival (R286): the phase it is counted in and the object after it. -/
def BarObj.arrive (o : BarObj) : Nat × BarObj :=
  (o.e, if o.a + 1 = o.n then { o with a := 0, e := (o.e + 1) % 2 ^ 32 } else { o with a := o.a + 1 })

/-- Has phase `p` completed (R287). -/
def BarObj.passed (o : BarObj) (p : Word) : Bool :=
  let d := (o.e + 2 ^ 32 - p.toNat % 2 ^ 32) % 2 ^ 32
  decide (1 ≤ d) && decide (d ≤ 2 ^ 31 - 1)

/-- The fault of a barrier operation at the engine port (R284). R229 has every 0x07 fault make a fault record and then lists kinds of
which a barrier operation is none, and R230 gives it no DETAIL: DESIGN CHOICE, it writes no record (assumption log 60). -/
def barFault (a : Word) (code : Nat) : GFault := { code := code, tval := a }

namespace State

/-- Change a barrier object; the waits of other devices that have stayed at it are judged against its phase (R285, R287). -/
def setBarObj (s : State) (task key : Nat) (o : BarObj) : State :=
  let goes (w : Nat × Nat × Nat × Word) : Bool := w.2.1 == task && w.2.2.1 == key && o.passed w.2.2.2
  { s.modTask task fun t => { t with bars := Sp.put BarObj.empty t.bars key o } with
    rwaits := s.rwaits.filter fun w => !goes w
    net := s.net ++ (s.rwaits.filter goes).map fun w => NetMsg.barAns w.1 0 0 }

/-- Send a barrier operation to another device and wait for its answer (R284); its control flits carry PARTID and TENANT (R383).
The entry notes the operation's number. -/
def sendBar (s : State) (e : Entry) (a : Word) (op : BarOp) : State × RunRes :=
  ({ s with nextCmd := s.nextCmd + 1 }.sendMsg (.barrier s.nextCmd s.part (s.getPart s.part).tenant a op),
   .wait { e with prog := 1, since := s.nextCmd })

/-- bar.init (R285): one that was sent to another device waits for its answer. -/
def runBarInit (s : State) (e : Entry) (a cnt : Word) : State × RunRes :=
  if e.prog = 1 then (s, .wait e)
  else
    match s.barSite a with
    | .bad => (s, .fault e (barFault a 0x07))
    | .remote => s.sendBar e a (.init cnt.toNat)
    | .here t k => (s.setBarObj t k (BarObj.start (barAddr a).scope cnt.toNat), .done e)

/-- bar.arrive and bar.arrive.rlx (R286). -/
def runBarArrive (s : State) (e : Entry) (earlier : List Entry) (rlx : Bool) (a : Word) (xd : Nat) : State × RunRes :=
  if e.prog = 1 then (s, .wait e)
  else
    match (if rlx then (s, true) else s.releaseWait e earlier) with
    | (s1, false) => (s1, .wait { e with stop := .wait })
    | (s1, true) =>
      match s1.barSite a with
      | .bad => (s1, .fault e (barFault a 0x07))
      | .remote => s1.sendBar e a .arrive
      | .here t k =>
        let o := s1.barObj t k
        if !o.init || o.scope != (barAddr a).scope then (s1, .fault e (barFault a 0x08))
        else
          let r := o.arrive
          ((s1.setBarObj t k r.2).updCore fun c => c.setReg xd (BitVec.ofNat 64 r.1), .done e)

/-- bar.wait (R287): waiting is a wait of R369, at another device too, whose answer progress 1 waits for. One that waits here, with
progress 2, has passed its checks and is judged on the phase alone, also after a bar.init (R285). -/
def runBarWait (s : State) (e : Entry) (a phase : Word) : State × RunRes :=
  if e.prog = 1 then (s, .wait { e with stop := .wait })
  else
    match s.barSite a with
    | .bad => (s, .fault e (barFault a 0x07))
    | .remote =>
      match s.sendBar e a (.wait phase) with
      | (s1, .wait e1) => (s1, .wait { e1 with stop := .wait })
      | r => r
    | .here t k =>
      let o := s.barObj t k
      if e.prog = 0 && (!o.init || o.scope != (barAddr a).scope) then (s, .fault e (barFault a 0x08))
      else if o.passed phase then (s, .done e) else (s, .wait { e with prog := 2, stop := .wait })

/-- A barrier operation of another device on an object here (R284, R286, R287): its partition must be the same as the holder's by
PARTID and by TENANT (R383). The fault or value goes back; a wait whose phase has not passed stays at the object. -/
def remoteBar (s : State) (id : Nat) (a : Word) (p tenant : Nat) (op : BarOp) : State :=
  let b := barAddr a
  match (if tenant = 0 || (s.getPart p).tenant ≠ tenant then BarSite.bad else s.memSide p b.task b) with
  | .here t k =>
    let o := s.barObj t k
    match op with
    | .init n => (s.setBarObj t k (BarObj.start b.scope n)).sendMsg (.barAns id 0 0)
    | .arrive =>
      if !o.init || o.scope != b.scope then s.sendMsg (.barAns id 8 0)
      else (s.setBarObj t k o.arrive.2).sendMsg (.barAns id 0 (BitVec.ofNat 64 o.arrive.1))
    | .wait ph =>
      if !o.init || o.scope != b.scope then s.sendMsg (.barAns id 8 0)
      else if o.passed ph then s.sendMsg (.barAns id 0 0) else { s with rwaits := s.rwaits ++ [(id, t, k, ph)] }
    | .answer _ _ _ => s
  | .remote | .bad => s.sendMsg (.barAns id 7 0)

/-! ### The tag table (R208 to R210) -/

/-- The task's entry for a key in the core's cluster. -/
def tagFind (s : State) (key : Word) : Option TagEnt :=
  s.tagtab.find? fun e => e.cluster == coreCluster s.cur && e.task == s.core.gridTaskId && e.key == key

def tagDrop (s : State) (key : Word) : State :=
  { s with tagtab := s.tagtab.filter fun e =>
      !(e.cluster == coreCluster s.cur && e.task == s.core.gridTaskId && e.key == key) }

/-- slook (R209). -/
def runSlook (s : State) (e : Entry) (key : Word) (xd : Nat) : State × RunRes :=
  let v : Word := match s.tagFind key with | some t => BitVec.ofNat 64 t.slot | none => BitVec.allOnes 64
  (s.updCore fun c => c.setReg xd v, .done e)

/-- sins (R209), behind the earlier grid-side stores of the core (R210). -/
def runSins (s : State) (e : Entry) (earlier : List Entry) (key slot : Word) (xd : Nat) : State × RunRes :=
  if !released earlier then (s, .wait { e with stop := .wait })
  else
    let mine : TagEnt := ⟨coreCluster s.cur, s.core.gridTaskId, key, slot.toNat⟩
    match s.tagFind key with
    | some t =>
      ({ s with tagtab := s.tagtab.map fun x => if x == t then mine else x }.updCore fun c =>
        c.setReg xd (BitVec.ofNat 64 t.slot), .done e)
    | none =>
      if (s.tagtab.filter fun x => x.cluster == coreCluster s.cur).length < 1024 then
        ({ s with tagtab := s.tagtab ++ [mine] }.updCore fun c => c.setReg xd (BitVec.allOnes 64), .done e)
      else (s.updCore fun c => c.setReg xd (BitVec.ofInt 64 (-2)), .done e)

/-- sinv (R209), behind the earlier grid-side stores of the core (R210). -/
def runSinv (s : State) (e : Entry) (earlier : List Entry) (key : Word) : State × RunRes :=
  if released earlier then (s.tagDrop key, .done e) else (s, .wait { e with stop := .wait })

end State

/-! ### Accumulation windows -/

def AOp.ofCode : Nat → AOp
  | 0 => .addF32
  | 1 => .addI32
  | 2 => .maxF32
  | _ => .minF32

/-- The identity of an operation (R291). -/
def AOp.identity : AOp → Cell
  | .addF32 | .addI32 => 0
  | .maxF32 => 0xFF80_0000
  | .minF32 => 0x7F80_0000

/-- Op of R295 with its flags. -/
def AOp.apply (o : AOp) (a b : Cell) : Cell × Fl :=
  let x := fmtF32.decode a.toNat
  let y := fmtF32.decode b.toNat
  match o with
  | .addF32 => let r := roundTo fmtF32 .ieee .rne false (addFV .rne x y); (BitVec.ofNat 32 r.1, r.2)
  | .addI32 =>
    let v := a.toInt + b.toInt
    (a + b, { iov := decide (v < -(2 ^ 31 : Nat)) || decide ((2 ^ 31 : Nat) ≤ v) })
  | .maxF32 => (BitVec.ofNat 32 (exactPat .f32 (maxFV x y)), {})
  | .minF32 => (BitVec.ofNat 32 (exactPat .f32 (minFV x y)), {})

/-- awin (R294): a fresh window, every copy the identity and nothing touched. -/
def AWin.fresh (op : AOp) (base bytes : Word) : AWin := ⟨op, base, bytes.toNat, [], []⟩

/-- Lane `l`'s copy of element `k`. -/
def AWin.copy (w : AWin) (l k : Nat) : Cell := Sp.get w.op.identity w.copies (l * 4096 + k)

/-- Keep element numbers in ascending order, once each. -/
def touch (k : Nat) : List Nat → List Nat
  | [] => [k]
  | m :: r => if k < m then k :: m :: r else if k = m then m :: r else m :: touch k r

/-- One vector of an ascat (R295). -/
def ascatVec (w : AWin) (m : Mask) (g : Grid) (wi wv : Window) (v : Nat) (r : FlagRec) : AWin × FlagRec :=
  (List.range 128).foldl (fun (p : AWin × FlagRec) j =>
    if active m j then
      let idx := signedNat 32 (wi.read g v j).toNat
      if 0 ≤ idx && decide (idx < (p.1.bytes / 4 : Nat)) then
        let k := idx.toNat
        let x := p.1.op.apply (p.1.copy j k) (wv.read g v j)
        ({ p.1 with copies := Sp.put p.1.op.identity p.1.copies (j * 4096 + k) x.1, touched := touch k p.1.touched },
         p.2.add x.2 v j)
      else (p.1, p.2.add { sat := true } v j)
    else p) (w, r)

namespace State

def setAwin (s : State) (a : Nat) (w : Option AWin) : State :=
  s.updCore fun c => { c with awins := c.awins.setIfInBounds a w }

def awinOf (s : State) (a : Nat) : Option AWin := s.core.awins.getD a none

/-- The probe of an amerge at one element (R298): R and W; no translation is cause 0x06, a denial 0x07. -/
def probeRw (s : State) (w : Who) (va : Word) : State × Except (Option GFault) Nat :=
  match s.gridAccess w .store va 4 with
  | (s1, .error f) => (s1, .error f)
  | (s1, .ok _) => s1.gridAccess w .load va 4

/-- The probe of every touched element, in ascending order. -/
def probeMerge (s : State) (w : Who) (base : Word) : List Nat → State × Except (Option GFault) (List (Nat × Nat))
  | [] => (s, .ok [])
  | k :: rest =>
    match s.probeRw w (base + BitVec.ofNat 64 (4 * k)) with
    | (s1, .error f) => (s1, .error f)
    | (s1, .ok pa) =>
      match s1.probeMerge w base rest with
      | (s2, .ok m) => (s2, .ok ((k, pa) :: m))
      | (s2, .error f) => (s2, .error f)

end State

/-- The fold of one element over the lanes (R296). -/
def AWin.fold (w : AWin) (k : Nat) (mem : Cell) : Cell × Fl :=
  (List.range 128).foldl (fun (p : Cell × Fl) l => let x := w.op.apply p.1 (w.copy l k); (x.1, p.2.or x.2)) (mem, {})

/-- A merged element: its copies hold the identity and its touched bit is 0 (R296). -/
def AWin.merged (w : AWin) (k : Nat) : AWin :=
  { w with touched := w.touched.filter fun x => x != k, copies := w.copies.filter fun p => p.1 % 4096 != k }

/-- The pages among probed elements. -/
def pagesOf (xs : List (Nat × Nat × Nat)) : List (Nat × Nat) :=
  xs.foldl (fun m x => if m.any fun p => p.1 == x.2.1 / 2 ^ 17 then m else m ++ [(x.2.1 / 2 ^ 17, x.2.2 - x.2.1 % 2 ^ 17)]) []

namespace State

/-- The next touched element of an amerge is read (R296, R298). -/
def mergeRead (s : State) (e : Entry) (w : AWin) (k pa : Nat) : State × RunRes :=
  let va := w.base + BitVec.ofNat 64 (4 * k)
  if s.poisonedRange pa 4 then
    (s, .fault { e with prog := k, stop := .poison } { code := 0x0C, tval := s.poisonVa va pa 4, rest := some k })
  else (s.meterMem s.part pa 4 0, .more { e with prog := k, pend := [(k, pa, s.readBytes pa 4)] })

/-- The fold of an element that was read is written: another agent's write since the read is overwritten (R296). -/
def mergeWrite (s : State) (e : Entry) (a : Nat) (w : AWin) (k pa : Nat) (old : List Byte) : State × RunRes :=
  if s.writeStalls s.gridWriter pa 4 then (s.setLstall s.part, .wait e)
  else
    let r := w.fold k (BitVec.ofNat 32 (fromLE old))
    ((s.write s.gridWriter pa (leBytes 4 r.1.toNat)).setAwin a (some (w.merged k)),
     .more { e with prog := k + 1, pend := [], fl := e.fl.add r.2 (k / 128 % 32) (k % 128) })

/-- One unit of an amerge entry from its progress on (R296, R298): the probe of every touched element, the read of one, or its
write. -/
def runAmerge (s : State) (e : Entry) (a : Nat) : State × RunRes :=
  match s.awinOf a, e.pend with
  | none, _ => (s, .done e)
  | some w, (k, pa, old) :: _ => s.mergeWrite e a w k pa old
  | some w, [] =>
    match w.touched.filter fun k => decide (e.prog ≤ k) with
    | [] => (s, .done e)
    | k :: more =>
      if !e.maps.isEmpty then s.mergeRead e w k (mapped e.maps ((w.base.toNat + 4 * k) % 2 ^ 64))
      else
        match s.probeMerge (s.entryWho e 2) w.base (k :: more) with
        | (s1, .error none) => (s1, .wait e)
        | (s1, .error (some f)) => (s1, .fault e f)
        | (s1, .ok m) => (s1, .more { e with maps := pagesOf (m.map fun x => (x.1, (w.base.toNat + 4 * x.1) % 2 ^ 64, x.2)) })

/-- One vector of an ascat entry, or none where nothing is left of it (R376). -/
def runAscat (s : State) (e : Entry) (a : Nat) (wi wv : Window) (km : KField) : State × RunRes :=
  match (s.awinOf a).filter fun _ => decide (e.prog < wi.count) with
  | none => (s, .done e)
  | some w =>
    let p := ascatVec w (s.core.masks.governing km) s.core.grid wi wv e.prog e.fl
    let e1 := { e with prog := e.prog + 1, fl := p.2 }
    (s.setAwin a (some p.1), if e1.prog < wi.count then .more e1 else .done e1)

end State

end Sys2Proof.Machine
end

