-- ==== Sys2Proof/Machine/Domain.lean ====
section
/-! DEFINITION. Sys2Proof/Machine/Domain.lean: the recovery domain (R301 to R325): domain faults, arrival, commit, rollback and
what the meridian does, as operations of this device. -/

namespace Sys2Proof.Machine
namespace State

/-- The meridian of the domain: its device with the lowest DEVID (R301). -/
def meridian (s : State) : Nat := s.dom.members.foldl min s.devid

def isMeridian (s : State) : Bool := s.meridian == s.devid

/-- Dies that have not been fenced. -/
def liveDies (s : State) : List Nat := (List.range 4).filter fun d => !s.deadDies.contains d

/-! ### Arrival (R303, R315, R316) -/

/-- The intervals that the member cores of a die hold, pre-empted ones included (R303, R369), an old task's until its halt retires and a
run-ahead task's from its grid reset on (R12, R26). -/
def dieRins (s : State) (die : Nat) : List (BitVec 32) :=
  (s.tasks.filter (·.member)).flatMap fun t =>
    let live (n : Nat) : Bool := coreDie n == die && !t.halted.contains n
    let here (n : Nat) : Bool := (s.getCore n).holder == some t.id
    ((t.cores.filter fun n => live n && here n && t.state != .preempted).map fun n => rinOf (s.getCore n))
      ++ ((t.saved.filter fun v => t.state == .preempted && live v.core).map (·.rin))

/-- Is `n` one of the two intervals that can be open (R315). -/
def openInterval (s : State) (n : BitVec 32) : Bool := n == s.dom.datum + 1 || n == s.dom.datum + 2

/-- Has every logged write of the die that carries `n` or an earlier interval been performed, with its record appended (R315). In
this model a write and its record are one step, so what can still write is an engine command or a scalar store that carries such an
interval and is not performed. -/
def dieWritten (s : State) (die : Nat) (n : BitVec 32) : Bool :=
  (allCores.all fun k => coreDie k != die || (s.getCore k).sbuf.all fun w => w.rin.all fun r => later r n)
    && s.cmds.all fun c => !(c.state == .running && coreDie c.core == die && !later c.rin n
    && (match s.findTask c.task with | some t => t.member && t.state != .preempted | none => false))

/-- Has every member core of the die arrived for `n`, and every write of it been performed (R315). -/
def dieArrived (s : State) (die : Nat) (n : BitVec 32) : Bool :=
  ((s.dieRins die).all fun r => later r n) && s.dieWritten die n

/-- The meridian takes an ARRIVE (R316): S is 1 once a core of the device has sealed `n`, also after an ARRIVE with S = 0. -/
def takeArrive (s : State) (dev : Nat) (n : BitVec 32) (b : Bool) : State :=
  if s.dom.arrived.any fun a => a.1 == dev && a.2.1 == n then
    { s with dom := { s.dom with arrived := s.dom.arrived.map fun a => if a.1 == dev && a.2.1 == n then (dev, n, a.2.2 || b) else a } }
  else { s with dom := { s.dom with arrived := s.dom.arrived ++ [(dev, n, b)] } }

/-- Broadcast COMMIT of the next interval when its three conditions hold (R316). -/
def commitNext (s : State) : State :=
  let n := s.dom.bcast + 1
  let here := s.dom.arrived.filter fun a => a.2.1 == n
  if s.isMeridian && s.dom.state == .run && (s.dom.members.all fun d => here.any fun a => a.1 == d)
      && here.any fun a => a.2.2 then
    { s with dom := { s.dom with bcast := n, arrived := s.dom.arrived.filter fun a => a.2.1 != n } }.sendMsg (.commit n)
  else s

/-- Broadcast COMMIT of each open interval that is ready, in order; no more than two are open (R315, R316). -/
def tryCommit (s : State) : State := s.commitNext.commitNext

/-- The device's own arrival for `n`: to the meridian, or to the host in host-assisted mode (R315, R318). -/
def deviceArrive (s : State) (n : BitVec 32) : State :=
  let b := s.dom.sealed.contains n
  if s.devctl.getLsbD 0 then s.tell (.arrive n b)
  else if s.isMeridian then (s.takeArrive s.devid n b).tryCommit
  else if (s.routeLink s.meridian).isNone then s.raiseDomainFault 4
  else s.sendMsg (.arrive n b)

/-- A die's seal agent reports arrival (R315). -/
def sealAgentArrive (s : State) (die : Nat) (n : BitVec 32) : State :=
  if s.dom.state != .run || !s.liveDies.contains die || !s.openInterval n || !s.dieArrived die n
      || s.dom.dieArr.contains (die, n) then s
  else
    let s1 := { s with dom := { s.dom with dieArr := s.dom.dieArr ++ [(die, n)] } }
    if s1.liveDies.all fun d => s1.dom.dieArr.contains (d, n) then s1.deviceArrive n else s1

/-- After a die was fenced, the surviving ones may all have arrived (R315, R333). -/
def survivorsArrive (s : State) : State :=
  [s.dom.datum + 1, s.dom.datum + 2].foldl (fun s n =>
    if s.dom.state == .run && !s.liveDies.isEmpty && s.liveDies.all fun d => s.dom.dieArr.contains (d, n) then s.deviceArrive n
    else s) s

/-- The devices of the domain with which this one has to keep a route: all of them for the meridian, else the meridian (R315). -/
def routed (s : State) : List Nat := if s.isMeridian then s.dom.members.filter (· != s.devid) else [s.meridian]

/-- After a change of links or routes (`old` is the state before): a device of the domain that is cut off from its meridian is lost. Both
raise a domain fault, in whatever state of a rollback: the meridian, and the device itself, which stops its tasks and reports to the host
(R315, R322). -/
def checkRoute (s old : State) : State :=
  if s.routed.any fun d => (old.routeLink d).isSome && (s.routeLink d).isNone then s.raiseDomainFault 4 else s

/-- The core that moves begins or resumes member work in its RIN: it has not arrived for that interval, so an arrival that its die
or device had already counted for it is taken back until the core seals (R303, R315; assumption log 54). -/
def withdrawArrival (s : State) : State :=
  let r := rinOf s.core
  { s with dom := { s.dom with
      dieArr := s.dom.dieArr.filter fun a => a.1 != coreDie s.cur || later r a.2
      arrived := s.dom.arrived.filter fun a => a.1 != s.devid || later r a.2.1 } }

end State

/-- What a commit of `n` does to a task (R316): the pointers of the seals that closed `n` are recorded, and saved cores whose
interval before RIN it was have one open interval. -/
def Task.commit (n : BitVec 32) (t : Task) : Task :=
  if t.member then
    { t with ptrs := (t.pend.filter fun p => p.1 == n.toNat).map fun p => (p.2.1, p.2.2)
             pend := t.pend.filter fun p => p.1 != n.toNat
             saved := t.saved.map fun (v : SavedCore) => { v with openN := if v.openN = 2 && !later (v.rin - 1) n then 1 else v.openN } }
  else t

/-- A task with everything it holds freed (R323). -/
def Task.stripped (t : Task) : Task :=
  { t with bars := [], chans := [], tables := [], saved := [], spads := [], frames := [], resv := [], copies := [] }

/-- No write of the partition waits for capacity. -/
def Partition.noStall (x : Partition) : Partition := { x with lstall := false }

namespace State

/-- COMMIT(n) is applied (R316). A core has two open intervals until its interval RIN − 1 has committed (R303). -/
def applyCommit (s : State) (n : BitVec 32) : State :=
  let due (r : BitVec 32) : Bool := !later r n
  let s1 := (s.held.filter fun h => due h.rin).foldl (fun s h => s.landBytes h.pa h.bytes)
    { s with dom := { s.dom with datum := n, dieArr := s.dom.dieArr.filter fun a => a.2 != n,
                                 sealed := s.dom.sealed.filter fun a => a != n,
                                 bcast := if later n s.dom.bcast then n else s.dom.bcast } }
  let s2 := { s1 with
    held := s.held.filter fun h => !due h.rin
    undo := s1.undo.filter fun r => !due r.rin
    tasks := s1.tasks.map (Task.commit n)
    parts := s1.parts.map Partition.noStall }
  (s2.modCores allCores fun _ c =>
    if c.openN = 2 && !later (rinOf c - 1) n then { c with openN := 1 } else c).dropSealRequests s

/-! ### Rollback (R323 to R325) -/

/-- ROLLBACK(d): the device enters STOP (R323); the stores in flight are performed whole. The replay buffers are emptied (R350), and the spec does
not say what becomes of the sequence numbers of their flits: DESIGN CHOICE, on a link between two devices of the domain, which both roll back,
numbering begins again at 0 in both directions, and on any other it runs on (assumption log 28). -/
def enterStop (s : State) (d : BitVec 32) : State :=
  let s1 := (allCores.foldl performStores s).modCores allCores fun _ c => match c.run with
    | .idle | .fenced => c
    | .running | .halting | .stop | .drain | .save | .gone | .halted =>
      { c.discard with run := .halted, resv := none, ctrs := Vector.replicate 32 Counter.init }
  { s1 with
    net := s1.net ++ linkCancels s1.cmds
    cmds := []
    links := s1.links.map fun l =>
      if s1.dom.members.contains l.peer then { l with buf := [], txSeq := 0, rxSeq := 0, row := 0, rowSeq := 0 } else { l with buf := [] }
    dom := { s1.dom with state := .stop, target := d, restored := [] } }

/-- Write back one undo record (R310, R323): with poison when P = 1 or when its CRC fails. -/
def restoreLine (s : State) (r : UndoRec) : State :=
  { s with mem := pokeBytes s.mem r.line r.old, poison := Sp.put false s.poison r.line (r.pois || !r.sound) }

/-- RESTORE of one die's segment, newest record first. -/
def restoreDie (s : State) (die : Nat) : State :=
  let rs := s.undo.filter fun r => s.dieOf r.line == die && later r.rin s.dom.target
  let s1 := rs.foldl restoreLine s
  { s1 with dom := { s1.dom with state := .restore, restored := s1.dom.restored ++ [die] } }

/-- Zero the scratchpad bytes of a range, their poison and their sequence tags (R196, R323, R391); reservations of them end (R252). -/
def zeroSpad (s : State) (lo n : Nat) : State :=
  { s.breakResv lo n with
           mem := s.mem.filter fun p => !(decide (lo ≤ p.1) && decide (p.1 < lo + n))
           poison := s.poison.filter fun p => !(decide (lo ≤ p.1) && decide (p.1 < lo + n))
           seqtags := s.seqtags.filter fun p => !(decide (lo ≤ spadBase + p.1 * 4096) && decide (spadBase + p.1 * 4096 < lo + n)) }

end State

/-- The grid side of a core with grid, masks, windows and counters zeroed (R323, R391). -/
def Core.zeroGrid (c : Core) : Core :=
  { c with grid := [], masks := Vector.replicate 24 0, wins := Vector.replicate 8 none,
           ctrs := Vector.replicate 32 Counter.init, awins := Vector.replicate 4 none, awdecl := [] }

namespace State

/-- CLEAN (R228, R323, R378): uncommitted held writes go, translations are emptied and the walks in flight install nothing, what tasks hold is zeroed or freed, records are
freed and every launch queue is halted with FCAUSE 0x10. -/
def cleanDomain (s : State) : State :=
  let spads := s.tasks.flatMap fun t => t.resv.map fun r => (spadBase + r.1 * spadBytes + r.2.1, r.2.2)
  let s1 := spads.foldl (fun s r => s.zeroSpad r.1 r.2) s
  let s2 := s1.modCores allCores fun _ c => { c.zeroGrid with resv := none, frame := none }
  let s3 := { s2 with
    held := [], tlb := [], tagtab := [], rwaits := [], undo := []
    walks := s2.walks.map fun (w : WalkReq) => { w with stale := true }
    tasks := s2.tasks.map Task.stripped
    parts := s2.parts.map fun (x : Partition) => { x.noStall with answers := [] }
    dom := { s2.dom with state := .clean, restored := [] } }
  (List.range 16).foldl (fun s p => (List.range 8).foldl (fun s q =>
    s.haltQueue p q 0x10 (s.getQueue p q).faddr) s) (s3.dropSealRequests s)

/-- REPORTED (R323, R325): DONE goes to the meridian, every RIN is d + 1, member tasks are reported for relaunch and
non-member tasks as killed. -/
def reportDomain (s : State) : State :=
  let d := s.dom.target
  let s1 := s.tasks.foldl (fun s t =>
    if t.member then
      (s.tell (.relaunch t.id t.part t.place ((List.range t.cores.length).map fun r =>
        (r, match t.ptrs.find? fun p => p.1 == r with | some p => p.2 | none => 0)))).tell (.vector (t.part * 4 + 3))
    else (s.tell (.killed t.part t.id)).tell (.vector (t.part * 4))) s
  let s2 := s1.modCores allCores fun _ c =>
    let c' := match c.run with
      | .fenced | .idle => c
      | .running | .halting | .stop | .drain | .save | .gone | .halted => c.release
    { c' with rin := zext (d + 1) }
  let s3 := { s2.setNotices [] with
    tasks := []
    dom := { s2.dom with state := .reported, dieArr := [], arrived := [], sealed := [], bcast := d,
                         dones := if s2.isMeridian then s2.dom.dones ++ [s2.devid] else s2.dom.dones } }
  s3.sendMsg .done

/-- The meridian broadcasts RESUME once every device has sent DONE (R323). -/
def tryResume (s : State) : State :=
  if s.isMeridian && s.dom.members.all fun d => s.dom.dones.contains d then
    { s with dom := { s.dom with dones := [] } }.sendMsg .resume
  else s

end State
end Sys2Proof.Machine
end

