-- ==== Sys2Proof/Machine/Links.lean ====
section
/-! DEFINITION. Sys2Proof/Machine/Links.lean: send and recv (R339 to R350): descriptors and their checks, pairing, the egress
quantiser and its flits, receiving, link loss; and the link layer's replay (R336). -/

namespace Sys2Proof.Machine

/-! ### Descriptors (R341 to R343) -/

/-- A send descriptor's fields (R341). -/
def sendOf (addr : Word) (bs : List Byte) (quant : Nat) (ef : Bool) : SendC :=
  let w := BitVec.ofNat 64 (leField bs 0x10 8)
  { desc := addr, src := BitVec.ofNat 64 (leField bs 0 8), res := BitVec.ofNat 64 (leField bs 8 8),
    peer := fieldNat w 48 16, chan := fieldNat w 40 8, scope := fieldNat w 37 3, stype := fieldNat w 32 2,
    n := fieldNat w 0 32, quant := quant, ef := ef, link := 0, credit := false, placed := 0, acked := 0, sat := 0,
    nan := 0, resid := false, radd := false, smap := [], rmap := [] }

/-- A receive descriptor's fields (R342). -/
def recvOf (addr : Word) (bs : List Byte) (add : Bool) : RecvC :=
  let w := BitVec.ofNat 64 (leField bs 8 8)
  { desc := addr, dst := BitVec.ofNat 64 (leField bs 0 8), peer := fieldNat w 48 16, chan := fieldNat w 40 8,
    scope := fieldNat w 37 3, tagen := w.getLsbD 36, dtype := fieldNat w 34 2, n := fieldNat w 0 32,
    tag := leField bs 0x10 8 / 2 ^ 48, add := add, paired := false, quant := 0, stype := 0, nan := 0, got := 0,
    dmap := [] }

/-- Bytes of a source element. -/
def SendC.eb (c : SendC) : Nat := match c.stype with | 0 => 4 | 1 => 2 | _ => 1

/-- Bytes of a destination element (R343): packed and bytes count as 1. -/
def RecvC.eb (c : RecvC) : Nat := match c.dtype with | 0 => 4 | 1 => 2 | _ => 1

/-- Bytes that a recv may write: a packed one up to the longest block vector of N elements (assumption log 20). -/
def RecvC.span (c : RecvC) : Nat := if c.dtype = 2 then c.n + c.n / 32 else c.n * c.eb

/-- Is N legal (R341, R342). -/
def linkCountOk (n : Nat) : Bool := decide (1 ≤ n) && decide (n ≤ 16777216)

/-- The checks of R343 on a send that do not need the machine. -/
def sendCheck (c : SendC) (bs : List Byte) : Option GFault :=
  let bad (code : Nat) : Option GFault := some { code := code, tval := c.desc }
  if c.desc.toNat % 64 ≠ 0 then bad 0x03
  else if leField bs 0x10 8 / 2 ^ 34 % 8 ≠ 0 || !allZero ((bs.drop 0x20).take 32) || !linkCountOk c.n || c.stype = 3
      || 5 ≤ c.scope then bad 0x02
  else if c.quant ≠ 0 && (c.stype = 2 || c.n % 32 ≠ 0) then bad 0x02
  else if (c.ef && c.res = 0) || (c.quant = 0 && c.res ≠ 0) then bad 0x02
  else if c.src.toNat % c.eb ≠ 0 then some { code := 0x03, tval := c.src }
  else if c.res.toNat % 4 ≠ 0 then some { code := 0x03, tval := c.res }
  else if c.res ≠ 0 && decide (c.res.toNat < c.src.toNat + c.n * c.eb)
      && decide (c.src.toNat < c.res.toNat + 4 * c.n) then some { code := 0x09, tval := c.res }
  else none

/-- The checks of R343 on a recv that do not need the machine. -/
def recvCheck (c : RecvC) (bs : List Byte) : Option GFault :=
  let bad (code : Nat) : Option GFault := some { code := code, tval := c.desc }
  if c.desc.toNat % 64 ≠ 0 then bad 0x03
  else if leField bs 8 8 / 2 ^ 32 % 4 ≠ 0 || leField bs 0x10 8 % 2 ^ 48 ≠ 0 || !allZero ((bs.drop 0x20).take 32)
      || !linkCountOk c.n || 5 ≤ c.scope then bad 0x02
  else if c.add && 2 ≤ c.dtype then bad 0x02
  else if c.dst.toNat % c.eb ≠ 0 then some { code := 0x03, tval := c.dst }
  else none

namespace State

/-- The last two checks of R343: the peer. R229 and R230 name no record of such a fault: DESIGN CHOICE, it writes none (assumption log 60).
`hold` says that the issuing core's external writes are held. -/
def peerCheck (s : State) (peer : Nat) (hold : Bool) (desc : Word) : Option GFault :=
  if peer == s.devid || (s.linkFor peer).isNone || (hold && !s.dom.members.contains peer) then
    some { code := 0x07, tval := desc }
  else none

/-- Map the pages of a run for a command, lowest address first (R264). -/
def probeSpan (s : State) (w : Who) (k : Acc) (va : Word) (n : Nat) :
    State × Except (Option GFault) (List (Nat × Nat)) :=
  match s.mapPages w k (pageHeads (span va.toNat n)) with
  | (s1, .ok m) => (s1, .ok m)
  | (s1, .error none) => (s1, .error none)
  | (s1, .error (some (a, f))) =>
    (s1, .error (some { code := f.cause, tval := BitVec.ofNat 64 a, page := some (4, f) }))

/-- Steps 1 to 3 of R257 for a send. -/
def prepSend (s : State) (w : Who) (hold : Bool) (addr : Word) (quant : Nat) (ef : Bool) :
    State × Except (Option GFault) SendC :=
  match s.peekRun { w with agent := 2 } addr 64 with
  | (s1, .error f) => (s1, .error f)
  | (s1, .ok bs) =>
    let c := sendOf addr bs quant ef
    match (match sendCheck c bs with | some f => some f | none => s1.peerCheck c.peer hold addr) with
    | some f => (s1, .error (some f))
    | none =>
      let w4 := { w with agent := 4 }
      match s1.probeSpan w4 .load c.src (c.n * c.eb) with
      | (s2, .error f) => (s2, .error f)
      | (s2, .ok sm) =>
        let c1 := { c with smap := sm, link := (s2.linkFor c.peer).getD 0 }
        if c.res = 0 then (s2, .ok c1)
        else
          match (if c.ef then s2.probeSpan w4 .load c.res (4 * c.n) else (s2, .ok [])) with
          | (s3, .error f) => (s3, .error f)
          | (s3, .ok _) =>
            match s3.probeSpan w4 .store c.res (4 * c.n) with
            | (s4, .error f) => (s4, .error f)
            | (s4, .ok rm) => (s4, .ok { c1 with rmap := rm })

/-- Steps 1 to 3 of R257 for a recv. -/
def prepRecv (s : State) (w : Who) (hold : Bool) (addr : Word) (add : Bool) : State × Except (Option GFault) RecvC :=
  match s.peekRun { w with agent := 2 } addr 64 with
  | (s1, .error f) => (s1, .error f)
  | (s1, .ok bs) =>
    let c := recvOf addr bs add
    match (match recvCheck c bs with | some f => some f | none => s1.peerCheck c.peer hold addr) with
    | some f => (s1, .error (some f))
    | none =>
      let w4 := { w with agent := 4 }
      match (if add then s1.probeSpan w4 .load c.dst c.span else (s1, .ok [])) with
      | (s2, .error f) => (s2, .error f)
      | (s2, .ok _) =>
        match s2.probeSpan w4 .store c.dst c.span with
        | (s3, .error f) => (s3, .error f)
        | (s3, .ok dm) => (s3, .ok { c with dmap := dm })

/-- Command slots in use (R334, R343): 16 sends in the link engine of a die, 64 recvs in its receive table. The die is that which
holds the command's link. -/
def sendSlots (s : State) (die : Nat) : Nat :=
  (s.cmds.filter fun c => c.state == .running && (match c.op with | .send x => x.link / 3 == die | _ => false)).length

/-- The die that holds the link to a device (R334). -/
def linkDie (s : State) (dev : Nat) : Nat := (s.linkFor dev).getD 0 / 3

def recvSlots (s : State) (die : Nat) : Nat :=
  (s.cmds.filter fun c => c.state == .running
    && (match c.op with | .recv x => s.linkDie x.peer == die | _ => false)).length

/-! ### Pairing (R339, R346, R348) -/

end State

/-- Do a send and a recv agree (R346). -/
def pairOk (quant stype n1 dtype : Nat) (add : Bool) (n2 : Nat) : Bool :=
  n1 == n2 &&
    (if quant = 0 then (if stype = 2 then dtype == 3 && !add else decide (dtype < 2))
     else decide (dtype < 2) || (dtype == 2 && !add))

namespace State

/-- Is the command the oldest of its side of its key that has no pair (R339, R348). -/
def oldestUnpaired (s : State) (c : Cmd) : Bool :=
  !s.cmds.any fun x => decide (x.id < c.id) && x.part == c.part && (match x.op, c.op with
    | .send a, .send b => a.peer == b.peer && a.chan == b.chan && !a.credit
    | .recv a, .recv b => a.peer == b.peer && a.chan == b.chan && !a.paired
    | _, _ => false)

/-- A pairing fault (R348): the command gives up its pair and starts again when it restarts. What still arrives of the old pair is
known by its `round`. -/
def unpair (s : State) (c : Cmd) : State :=
  match c.op with
  | .send x => s.parkCmd
      { c with op := .send { x with credit := false, placed := 0, acked := 0, sat := 0, nan := 0, resid := false, round := x.round + 1 } }
      { code := 0x08, tval := x.desc }
  | .recv x => s.parkCmd
      { c with op := .recv { x with paired := false, got := 0, nan := 0, round := x.round + 1, pend := [], made := 0 } }
      { code := 0x08, tval := x.desc }
  | .xfer _ _ _ _ _ | .xdz _ _ _ | .dztab _ _ => s

/-- The control flit of a recv's credit (R339): its channel key here, its DTYPE + 4 × .add, and N. -/
def sendCredit (s : State) (id : Nat) (c : Cmd) (x : RecvC) : State :=
  s.sendMsg (.credit id c.part (s.getPart c.part).tenant x.chan (x.dtype + 4 * natOfBool x.add) x.n)

/-- The pairing flit of a send (R339, R383): its channel key here, its quantiser + 4 × STYPE, and N, which the other end compares. -/
def sendOffer (s : State) (c : Cmd) (x : SendC) : State :=
  s.sendMsg (.offer c.id c.part (s.getPart c.part).tenant x.chan (x.quant + 4 * x.stype) x.n)

/-- Do the keys of a command and of the one that a control flit offers agree (R339): PARTID in byte 5 of the offer, TENANT in bytes 6
to 9 and CHAN in byte 10. A partition whose TENANT is 0 pairs with none. -/
def keyOk (s : State) (c : Cmd) (chan : Nat) (peer : List Byte) : Bool :=
  let t := (s.getPart c.part).tenant
  t != 0 && leField peer 5 1 == c.part && leField peer 6 4 == t && leField peer 10 1 == chan

/-- CREDIT (R339, R346): the pair of command `id` forms, and a send tells its recv so. `peer` holds what the other side compares: for a send the recv's
DTYPE + 4 × .add, for a recv the send's quantiser + 4 × STYPE; then N in four bytes, and its key. -/
def takeCredit (s : State) (id : Nat) (peer : List Byte) : State :=
  match s.cmds.find? fun c => c.id == id with
  | none => s
  | some c =>
    if c.state != .running || !s.oldestUnpaired c then s
    else
      let k := leField peer 0 1
      let n := leField peer 1 4
      match c.op with
      | .send x =>
        if x.credit || !s.keyOk c x.chan peer then s
        else if pairOk x.quant x.stype x.n (k % 4) (bitNat k 2) n then
          (s.sendOffer c x).setCmd { c with op := .send { x with credit := true, radd := bitNat k 2 } }
        else (s.sendOffer c x).unpair c
      | .recv x =>
        if x.paired || !s.keyOk c x.chan peer then s
        else if pairOk (k % 4) (k / 4 % 4) n x.dtype x.add x.n then
          s.setCmd { c with op := .recv { x with paired := true, quant := k % 4, stype := k / 4 % 4 } }
        else s.unpair c
      | .xfer _ _ _ _ _ | .xdz _ _ _ | .dztab _ _ => s

/-- CANCEL_NOTICE (R349): the peer of a paired command was cancelled; a parked or restarted command gives up its pair too. -/
def cancelNotice (s : State) (id : Nat) : State :=
  match s.cmds.find? fun c => c.id == id with
  | some c => if (match c.op with | .send x => x.credit | .recv x => x.paired | _ => false) then s.unpair c else s
  | none => s

/-! ### The egress quantiser and flits (R344, R345) -/

end State

/-- The element format of a quantiser code (R340). -/
def quantFmt (q : Nat) : OFmt := match q with | 1 => .mxe4m3 | 2 => .mxe5m2 | _ => .mxe2m1

/-- Blocks of a quantised flit, elements of a raw one (R345). -/
def SendC.perFlit (c : SendC) : Nat :=
  if c.quant = 0 then (match c.stype with | 0 => 60 | 1 => 120 | _ => 240) else if c.quant = 3 then 14 else 7

/-- Blocks, or raw flits, of the whole send. -/
def SendC.total (c : SendC) : Nat := if c.quant = 0 then (c.n + c.perFlit - 1) / c.perFlit else c.n / 32

/-- Blocks (or one raw flit) that the next flit carries. -/
def SendC.nextCount (c : SendC) : Nat := if c.quant = 0 then 1 else min c.perFlit (c.total - c.placed)

/-- Pad a payload to 240 bytes. -/
def padFlit (bs : List Byte) : List Byte := bs ++ List.replicate (240 - bs.length) 0

/-- RNE32 of R344, as bits. -/
def rne32 (x : Exact) : Nat := (roundTo fmtF32 .ieee .rne false x).1

/-- One block of the quantiser (R344): the u values give the scale, the element bits, the residual bits and the number of
elements that saturated. -/
def quantBlock (f : OFmt) (us : List Nat) : Nat × List Nat × List (BitVec 32) × Nat :=
  let vs := us.map fmtF32.decode
  let b := mxBlock f vs
  let res := (vs.zip b.1).map fun p =>
    if b.2 = 255 then (0 : BitVec 32)
    else match elemVal f p.2.1 with
      | .f q => BitVec.ofNat 32 (rne32 (addFV .rne p.1 (q.scale ((b.2 : Int) - 127)).neg))
      | .i _ => 0
  (b.2, b.1.map (·.1), res, (b.1.filter fun p => p.2.sat).length)

namespace State

/-- A source element as f32 bits, widened exactly (R344). -/
def srcElem (s : State) (c : SendC) (e : Nat) : Nat :=
  let a := mapped c.smap ((c.src.toNat + e * c.eb) % 2 ^ 64)
  if c.stype = 0 then s.readNat a 4 else s.readNat a 2 * 2 ^ 16

/-- The u of element `e` (R344). -/
def uElem (s : State) (c : SendC) (e : Nat) : Nat :=
  let v := s.srcElem c e
  if c.ef then
    rne32 (addFV .rne (fmtF32.decode v) (fmtF32.decode (s.readNat (mapped c.rmap ((c.res.toNat + 4 * e) % 2 ^ 64)) 4)))
  else v

/-- The addresses that block `b` of a send reads, or its raw flit `b`, in SRC and in RES. -/
def blockReads (c : SendC) (b : Nat) : List Nat × List Nat :=
  if c.quant = 0 then
    let lo := b * c.perFlit
    (span ((c.src.toNat + lo * c.eb) % 2 ^ 64) ((min c.perFlit (c.n - lo)) * c.eb), [])
  else
    let lo := 32 * b
    (span ((c.src.toNat + lo * c.eb) % 2 ^ 64) (32 * c.eb),
     if c.ef then span ((c.res.toNat + 4 * lo) % 2 ^ 64) 128 else [])

/-- What reading mapped addresses meets: an unpopulated target or poison (R214, R348). -/
def readFault (s : State) (m : List (Nat × Nat)) (as : List Nat) : Option GFault :=
  match as.find? fun a => s.unpopulated (mapped m a) with
  | some a => some (unpopFault a)
  | none => (s.poisonAmong m as).map fun l => { code := 0x0C, tval := l }

/-- What writing mapped addresses meets: an unpopulated target or the memory of a fenced die (R214, R333). -/
def writeFault (s : State) (m : List (Nat × Nat)) (as : List Nat) : Option GFault :=
  match as.find? fun a => s.unpopulated (mapped m a), as.find? fun a => s.lost (mapped m a) with
  | some a, _ => some (unpopFault a)
  | none, some a => some { code := 0x0C, tval := s.poisonVa (BitVec.ofNat 64 a) (mapped m a) 1 }
  | none, none => none

/-- What stops block `b` of a send, or its raw flit `b`, before it is placed (R348): its reads of SRC and of RES, then its write of
RES. -/
def blockFault (s : State) (c : SendC) (b : Nat) : Option GFault :=
  let rd := blockReads c b
  match s.readFault c.smap rd.1, s.readFault c.rmap rd.2 with
  | some f, _ => some f
  | none, some f => some f
  | none, none =>
    if c.res = 0 then none else s.writeFault c.rmap (span ((c.res.toNat + 128 * b) % 2 ^ 64) 128)

/-- Write residual cells; none when a write has to wait. -/
def writeResid (s : State) (w : Wr) (c : SendC) : List (Nat × BitVec 32) → Option State
  | [] => some s
  | (e, v) :: rest =>
    let pa := mapped c.rmap ((c.res.toNat + 4 * e) % 2 ^ 64)
    if s.writeStalls w pa 4 then none else (s.write w pa (leBytes 4 v.toNat)).writeResid w c rest

end State

/-- The 256 bytes of a payload flit on the link (R335): its header, its payload, their CRC-32C and the FEC parity of all that
(assumption log 61). -/
def Flit.image (f : Flit) : List Byte :=
  let body := leBytes 8 (Config.flitHead f.seq f.cmd f.blk f.nblk).toNat ++ f.bytes
  let all := body ++ leBytes 4 (crc32c body)
  all ++ leBytes 4 (Config.fecParity all).toNat

/-- Does a flit that arrives pass the CRC after FEC (R336). -/
def flitSound (f : FlitIn) : Bool :=
  f.bytes.length == 240 && f.crc == BitVec.ofNat 32 (crc32c (leBytes 8 f.head.toNat ++ f.bytes))

namespace State

/-- Put a formed flit into the replay buffer and on the link (R336), and count it (R384). -/
def placeFlit (s : State) (c : Cmd) (x : SendC) (f : Flit) : State :=
  let l := s.links.getD x.link Link.init
  (({ s with links := s.links.setIfInBounds x.link { l with buf := l.buf ++ [f], txSeq := l.txSeq + 1 } }.setCmd
    { c with op := .send { x with placed := x.placed + f.nblk } }).sendMsg (.flit x.link f)).meter c.part 6 256

/-- Count what the next `k` blocks of a send, or its next raw flit, have read of SRC and RES (R384). -/
def meterBlocks (s : State) (c : Cmd) (x : SendC) (k : Nat) : State :=
  (List.range k).foldl (fun s b =>
    let rd := blockReads x (x.placed + b)
    (s.meterReads c.part (rd.1.map (mapped x.smap))).meterReads c.part (rd.2.map (mapped x.rmap))) s

/-- A raw flit of a send: the source bytes as they stand (R344, R345). -/
def rawFlit (s : State) (c : Cmd) (x : SendC) (seq : Nat) : Flit :=
  ⟨seq, c.id, x.round, x.placed, 1, padFlit ((blockReads x x.placed).1.map fun a => s.byteAt (mapped x.smap a))⟩

/-- The next `k` blocks of a quantising send with their first elements (R344). -/
def formBlocks (s : State) (x : SendC) (k : Nat) : List (Nat × Nat × List Nat × List (BitVec 32) × Nat) :=
  (List.range k).map fun b =>
    (32 * (x.placed + b), quantBlock (quantFmt x.quant) ((List.range 32).map fun i => s.uElem x (32 * (x.placed + b) + i)))

/-- The link layer accepts a flit of `k` quantised blocks, and their residuals are written (R344, R345). -/
def placeBlocks (s : State) (c : Cmd) (x : SendC) (seq k : Nat) : State :=
  let bl := s.formBlocks x k
  let els := packBits (quantFmt x.quant).elemBits (bl.flatMap fun p => p.2.2.1)
  let bytes := leBytes (k * 4 * (quantFmt x.quant).elemBits) els ++ bl.map fun p => BitVec.ofNat 8 p.2.1
  let f : Flit := ⟨seq, c.id, x.round, x.placed, k, padFlit bytes⟩
  let x1 := { x with sat := x.sat + (bl.map fun p => p.2.2.2.2).sum
                     nan := x.nan + (bl.filter fun p => p.2.1 == 255).length
                     resid := x.resid || x.res != 0 }
  if x.res = 0 then (s.meterBlocks c x k).placeFlit c x1 f
  else
    match s.writeResid (s.cmdWriter c) x (bl.flatMap fun p => p.2.2.2.1.mapIdx fun i v => (p.1 + i, v)) with
    | none => s.setLstall c.part
    | some s1 => (s1.meterBlocks c x k).placeFlit c x1 f

/-- FLIT_TRANSMIT (R344): the link layer accepts the next flit of a paired send. A send parks at the first block that it cannot place
(R348); the blocks before it go in a shorter flit (assumption log 61). -/
def transmit (s : State) (id : Nat) : State :=
  match s.cmds.find? fun c => c.id == id with
  | none => s
  | some c =>
    match c.op with
    | .send x =>
      let l := s.links.getD x.link Link.init
      if c.state != .running || !x.credit || x.total ≤ x.placed || l.state != 2 || 64 ≤ l.buf.length
          || (x.quant ≠ 0 && s.badUnits.contains (x.link, 2)) || s.reachesSaved c then s
      else
        match s.blockFault x x.placed with
        | some f => s.parkCmd c f
        | none =>
          if x.quant = 0 then (s.meterBlocks c x 1).placeFlit c x (s.rawFlit c x l.txSeq)
          else s.placeBlocks c x l.txSeq
            ((List.range x.nextCount).takeWhile fun b => (s.blockFault x (x.placed + b)).isNone).length
    | .recv _ | .xfer _ _ _ _ _ | .xdz _ _ _ | .dztab _ _ => s

/-! ### Receiving (R346) -/

end State

/-- What a recv writes at one place: bytes as they stand, or a value rounded into the destination type. -/
inductive RItem where
  | raw (bs : List Byte)
  | num (v : FV)
deriving DecidableEq, Repr

/-- The format of a float destination. -/
def RecvC.fmt (c : RecvC) : FFmt := if c.dtype = 0 then fmtF32 else fmtBf16

/-- One write of a recv: the elements done after it, its offset from DST, the item, and the NaN blocks that it ends. -/
structure RWrite where
  done : Nat
  off  : Nat
  item : RItem
  nan  : Nat := 0
deriving DecidableEq, Repr

/-- The writes of one flit of `nblk` blocks, in ascending element order (R345, R346); a packed block goes byte by byte, since DST has any
alignment and a block may cross a page. -/
def recvItems (c : RecvC) (blk nblk : Nat) (bs : List Byte) : List RWrite :=
  if c.quant = 0 then
    match c.stype with
    | 0 => (List.range (min 60 (c.n - 60 * blk))).map fun i =>
        { done := 60 * blk + i + 1, off := (60 * blk + i) * c.eb, item := .num (fmtF32.decode (leField bs (4 * i) 4)) }
    | 1 => (List.range (min 120 (c.n - 120 * blk))).map fun i =>
        { done := 120 * blk + i + 1, off := (120 * blk + i) * c.eb, item := .num (fmtBf16.decode (leField bs (2 * i) 2)) }
    | _ => (List.range (min 240 (c.n - 240 * blk))).map fun i =>
        { done := 240 * blk + i + 1, off := 240 * blk + i, item := .raw ((bs.drop i).take 1) }
  else
    let f := quantFmt c.quant
    let k := min nblk (min (if c.quant = 3 then 14 else 7) (c.n / 32 - blk))
    let bytes := 4 * f.elemBits
    (List.range k).flatMap fun b =>
      let q := (bs.drop (bytes * b)).take bytes
      let x := leField bs (bytes * k + b) 1
      let bad := natOfBool (x == 255)
      if c.dtype = 2 then
        (q.mapIdx fun i v => { done := 32 * (blk + b), off := bytes * (blk + b) + i, item := .raw [v] })
          ++ [{ done := 32 * (blk + b) + 32, off := c.n * f.elemBits / 8 + blk + b, item := .raw [BitVec.ofNat 8 x], nan := bad }]
      else
        (List.range 32).map fun i =>
          { done := 32 * (blk + b) + i + 1, off := (32 * (blk + b) + i) * c.eb, nan := if i = 31 then bad else 0
            item := .num (if x = 255 then .nan
                 else match elemVal f (fromLE q >>> (f.elemBits * i) % 2 ^ f.elemBits) with
                   | .f v => v.scale ((x : Int) - 127)
                   | .i _ => .nan) }

/-- The blocks, or raw flits, of the send that a recv has written whole (R345). -/
def RecvC.written (c : RecvC) : Nat :=
  if c.quant = 0 then
    let per := match c.stype with | 0 => 60 | 1 => 120 | _ => 240
    if c.n ≤ c.got then (c.n + per - 1) / per else c.got / per
  else c.got / 32

/-- After a write of `n` bytes at offset `off` from DST, has the recv written all that it writes into the granule of virtual address `va`
(R211): the element bytes before `e` and the scales before `k`, of `ends` bytes with the scales. -/
def RecvC.granuleWhole (c : RecvC) (off n va : Nat) : Bool :=
  let blk := 4 * (quantFmt c.quant).elemBits
  let (elems, ends) := if c.dtype = 2 then (c.n / 32 * blk, c.n / 32 * blk + c.n / 32) else (c.n * c.eb, c.n * c.eb)
  let (e, k) := if off < elems then (off + n, elems + off / blk) else ((off - elems + 1) * blk, off + n)
  let lo := va / 4096 * 4096 - c.dst.toNat
  let hi := va / 4096 * 4096 + 4096 - c.dst.toNat
  (decide (elems ≤ lo) || decide (min hi elems ≤ e)) && (decide (ends = elems) || decide (hi ≤ elems) || decide (min hi ends ≤ k))

namespace State

/-- Write the items of the oldest payload that a recv holds; the answer says whether all of them landed, and the payload is gone
then. -/
def recvLoop (s : State) (c : Cmd) (x : RecvC) : List RWrite → State × Bool
  | [] => (s.setCmd { c with op := .recv { x with pend := x.pend.drop 1, made := 0 } }, true)
  | i :: rest =>
    let va := (x.dst.toNat + i.off) % 2 ^ 64
    let pa := mapped x.dmap va
    let n := match i.item with | .raw bs => bs.length | .num _ => x.eb
    match (match (if x.add then s.readFault x.dmap (span va n) else none) with
        | some f => some f
        | none => s.writeFault x.dmap (span va n)) with
    | some f => (s.parkCmd { c with op := .recv x } f, false)
    | none =>
      if s.writeStalls (s.cmdWriter c) pa n then ((s.setCmd { c with op := .recv x }).setLstall c.part, false)
      else
        let bs := match i.item with
          | .raw bs => bs
          | .num v => leBytes x.eb (roundTo x.fmt .ieee .rne false
              (if x.add then addFV .rne (x.fmt.decode (s.readNat pa x.eb)) v else v.exact)).1
        let s0 := if x.add then s.meterMem c.part pa x.eb 0 else s
        let s1 := (s0.write (s.cmdWriter c) pa bs).setTags x.tagen x.tag pa bs.length fun _ => x.granuleWhole i.off n va
        s1.recvLoop c { x with got := if x.got < i.done then i.done else x.got, nan := x.nan + i.nan, made := x.made + 1 } rest

/-- The writes of the oldest payload that a recv has not made yet. -/
def recvLeft (x : RecvC) (blk nblk : Nat) (bs : List Byte) : List RWrite := (recvItems x blk nblk bs).drop x.made

/-- A recv writes the payloads that it holds, oldest first, as far as it can (R346), and acknowledges each that is written
(R347). -/
def drainRecv (s : State) (id : Nat) : List (Nat × Nat × List Byte) → State
  | [] => s
  | (blk, k, bs) :: rest =>
    match s.cmds.find? fun c => c.id == id with
    | none => s
    | some c =>
      match c.op with
      | .recv x =>
        if c.state != .running || !x.paired || s.reachesSaved c then s
        else
          match s.recvLoop c x (recvLeft x blk k bs) with
          | (s1, false) => s1
          | (s1, true) => (s1.sendMsg (.written id (blk + k))).drainRecv id rest
      | .send _ | .xfer _ _ _ _ _ | .xdz _ _ _ | .dztab _ _ => s

/-- The payload of an acknowledged flit goes to its recv, which writes it at once or when it is running and paired again. One of a
pair that the recv has given up is dropped, and so is one that the recv has already, which its send placed again on another link (R350): each
element is written once (R346), and what is written is acknowledged again. -/
def takePayload (s : State) (id round blk nblk : Nat) (bs : List Byte) : State :=
  match s.cmds.find? fun c => c.id == id with
  | none => s
  | some c =>
    match c.op with
    | .recv x =>
      if x.round ≠ round then s
      else if blk + nblk ≤ x.written then s.sendMsg (.written id (blk + nblk))
      else if x.pend.any fun p => decide (blk + nblk ≤ p.1 + p.2.1) then s
      else
        let p := x.pend ++ [(blk, nblk, bs)]
        (s.setCmd { c with op := .recv { x with pend := p } }).drainRecv id p
    | .send _ | .xfer _ _ _ _ _ | .xdz _ _ _ | .dztab _ _ => s

def modLink (s : State) (l : Nat) (f : Link → Link) : State :=
  { s with links := s.links.setIfInBounds l (f (s.links.getD l Link.init)) }

/-- Acknowledged flits leave the replay buffer (R336). -/
def takeAck (s : State) (l seq : Nat) : State :=
  s.modLink l fun x => { x with buf := x.buf.filter fun f => decide (seq < f.seq), row := 0 }

/-- The paired recv of a send has written its first `n` blocks or raw flits (R347, R350). -/
def takeWritten (s : State) (id round n : Nat) : State :=
  match s.cmds.find? fun c => c.id == id with
  | none => s
  | some c =>
    match c.op with
    | .send x => if x.round ≠ round then s else s.setCmd { c with op := .send { x with acked := max x.acked n } }
    | .recv _ | .xfer _ _ _ _ _ | .xdz _ _ _ | .dztab _ _ => s

/-- The flit of a command that arrived counts in its partition's meter (R384). -/
def meterFlit (s : State) (id : Nat) : State :=
  match s.cmds.find? fun c => c.id == id with
  | some c => s.meter c.part 7 256
  | none => s

/-- FLIT_RECEIVE (R336, R346): a flit that fails its checks or a payload flit out of sequence asks for replay; a good one is
acknowledged, and its payload goes to its recv. -/
def receive (s : State) (f : FlitIn) : State :=
  let l := s.links.getD f.link Link.init
  if l.state != 2 then s
  else if !flitSound f then s.sendMsg (.replay f.link l.rxSeq)
  else
    match f.kind with
    | .idle => s
    | .ack q => s.takeAck f.link q
    | .written id r n => s.takeWritten id r n
    | .payload id r b k =>
      if f.seq ≠ l.rxSeq then s.sendMsg (.replay f.link l.rxSeq)
      else
        (((s.modLink f.link fun x => { x with rxSeq := x.rxSeq + 1 }).sendMsg (.ack f.link f.seq)).meterFlit id).takePayload
          id r b k f.bytes

/-- REPLAY_REQUEST (R336): the stored flits from a number on are sent again, unchanged. -/
def replay (s : State) (l seq : Nat) : State :=
  let x := s.links.getD l Link.init
  let again := x.buf.filter fun f => decide (seq ≤ f.seq)
  if x.state != 2 then s
  else
    let s1 := s.modLink l fun x =>
      { x with replays := min (2 ^ 32 - 1) (x.replays + again.length)
               row := if x.rowSeq = seq then x.row + 1 else 1, rowSeq := seq }
    again.foldl (fun s f => s.sendMsg (.flit l f)) s1

/-- LINK_RETRAIN (R336, R388): after 16 consecutive replays of one flit the link trains; in host-assisted mode it waits for
the host. -/
def retrain (s : State) (l : Nat) : State :=
  let x := s.links.getD l Link.init
  if x.state != 2 || x.row < 16 then s
  else
    (s.modLink l fun x => { x with state := 1, row := 0, retrains := min 255 (x.retrains + 1) }).tell (.vector 65)

/-- A host write of a RETRAIN bit (R388): it starts the retraining of a link that trains, or clears the bit where it is set. -/
def retrainStart (s : State) (l : Nat) : State :=
  if l < 12 then { s with devctl := s.devctl ^^^ s.retrainBits (s.devctl.getLsbD 1) (1#64 <<< (16 + l)) } else s

/-- LINK_UP (R336): training succeeds, and replay resumes from the buffer; its flits count as replayed (R338). In host-assisted mode a
retrain proceeds only once the host has started it (R388). A boot that stopped brings up no link (R398). -/
def linkUp (s : State) (l peer : Nat) : State :=
  let x := s.links.getD l Link.init
  if s.boot.status ≠ 0 || 12 ≤ l || x.state = 2 || x.state = 3 || (x.state = 1 && s.devctl.getLsbD 1 && !s.devctl.getLsbD (16 + l)) then s
  else
    let s1 := ((s.modLink l fun x =>
      { x with state := 2, peer := peer % 65536, replays := min (2 ^ 32 - 1) (x.replays + x.buf.length) }).clearRetrain l).tell
      (.vector 65)
    x.buf.foldl (fun s f => s.sendMsg (.flit l f)) s1

/-- What becomes of one command whose pair has a flit unacknowledged on a lost link (R350). With no link left and PEER outside the domain both commands
of the pair are cancelled (R349), each by its own device: it stops, and the peer is told. A pair within the domain, or one that goes on, is
decided by the device of its send. -/
def lostPair (s : State) (c : Cmd) : State :=
  match c.op with
  | .send x =>
    if x.resid || x.radd then s.raiseDomainFault 5
    else match s.linkFor x.peer with
      | some k => s.setCmd { c with op := .send { x with link := k, placed := x.acked } }
      | none => if s.dom.members.contains x.peer then s.raiseDomainFault 5
        else { s.sendMsg (.cancel c.id) with cmds := s.cmds.filter fun d => d.id != c.id }
  | .recv x =>
    if (s.linkFor x.peer).isSome || s.dom.members.contains x.peer then s
    else if x.add then s.raiseDomainFault 5
    else { s.sendMsg (.cancel c.id) with cmds := s.cmds.filter fun d => d.id != c.id }
  | .xfer _ _ _ _ _ | .xdz _ _ _ | .dztab _ _ => s

/-- Has the pair of a command a flit unacknowledged on one of some links. The device of a recv does not see its peer's replay buffer: DEDUCED, a
paired recv that has not taken all its elements counts as having one, on the link that its PEER is reached by (assumption log 28). -/
def unackedOn (s : State) (ls : List Nat) (c : Cmd) : Bool :=
  match c.op with
  | .send x => ls.contains x.link
      && (s.links.getD x.link Link.init).buf.any fun f => f.cmd == c.id && f.round == x.round
  | .recv x => x.paired && decide (x.got < x.n) && (match s.linkFor x.peer with | some l => ls.contains l | none => false)
  | .xfer _ _ _ _ _ | .xdz _ _ _ | .dztab _ _ => false

/-- Sends on lost links with no flit unacknowledged there take the other link, if one is left (R350). -/
def rerouteIdle (s : State) (ls : List Nat) : State :=
  let moved (c : Cmd) : Cmd := match c.op with
    | .send x => if ls.contains x.link then { c with op := .send { x with link := (s.linkFor x.peer).getD x.link } } else c
    | .recv _ | .xfer _ _ _ _ _ | .xdz _ _ _ | .dztab _ _ => c
  { s with cmds := s.cmds.map moved }

/-- Is an answer to a barrier operation outstanding that was sent to a device which no link reaches any more (R284). -/
def lostBarrier (s : State) : Bool :=
  allCores.any fun n => ((s.getCore n).flight ++ (s.getCore n).blk).any fun e => e.prog == 1 && !e.fin && (match e.op with
    | .barInit a _ | .barArrive _ a _ | .barWait a _ =>
      (barAddr a).scope == 3 && (barAddr a).dev != s.devid && (s.linkFor (barAddr a).dev).isNone
    | _ => false)

/-- Links are lost together (R334, R336, R350): each pair with a flit unacknowledged on one of them is decided, once all of them are
lost. -/
def linksLost (s : State) (ls : List Nat) : State :=
  let new := ls.filter fun l => decide (l < 12) && (s.links.getD l Link.init).state != 3
  let hit := s.cmds.filter (s.unackedOn new)
  let s1 := new.foldl (fun s l =>
    ((s.modLink l fun x => { x with state := 3, buf := [] }).clearRetrain l).tell (.vector 65)) s
  if new.isEmpty then s
  else
    let s2 := ((hit.foldl lostPair s1).rerouteIdle new).checkRoute s
    if s2.lostBarrier then s2.raiseDomainFault 5 else s2

/-- LINK_LOST (R336, R350). -/
def linkLost (s : State) (l : Nat) : State := s.linksLost [l]

/-! ### Completion (R347) -/

/-- Write the STATUS doubleword of a descriptor and complete; a recv with TAGEN sets the tag of its granule (R211). R343 probes no descriptor for
stores and R348 names no page fault of its write: DESIGN CHOICE, where its page has no translation or no W, the command parks with that
fault, recorded with AGENT 4 as any page fault of an engine (R259; assumption log 72). -/
def finishLink (s : State) (c : Cmd) (desc v : Word) (tagen : Bool) (tag : Nat) : State :=
  let va := (desc + 0x18).toNat
  match s.probeSpan (cmdWho c) .store (desc + 0x18) 8 with
  | (s1, .error none) => s1
  | (s1, .error (some f)) => s1.parkCmd c f
  | (s1, .ok m) =>
    match s1.writeFault m (span va 8) with
    | some f => s1.parkCmd c f
    | none =>
      match s1.writeVirt (s1.cmdWriter c) m va (leBytes 8 v.toNat) 2 with
      | none => s1.setLstall c.part
      | some s2 => (s2.setTags tagen tag (mapped m va) 8).completeCmd c

/-- Completion of a link command whose data have been written, and for a send acknowledged (R347). -/
def completeLink (s : State) (c : Cmd) : State :=
  match c.op with
  | .send x =>
    if x.credit && decide (x.total ≤ x.acked) then
      s.finishLink c x.desc (BitVec.ofNat 64 (x.sat * 2 ^ 32 + x.nan)) false 0
    else s
  | .recv x =>
    if x.paired && decide (x.n ≤ x.got) then
      s.finishLink c x.desc (BitVec.ofNat 64 (x.quant * 2 ^ 32 + x.nan)) x.tagen x.tag
    else s
  | .xfer _ _ _ _ _ | .xdz _ _ _ | .dztab _ _ => s

/-- The work of an accepted link command: a recv writes what it holds, and a command whose data are written completes. -/
def linkWork (s : State) (c : Cmd) : State :=
  let s1 := match c.op with
    | .recv x => s.drainRecv c.id x.pend
    | .send _ | .xfer _ _ _ _ _ | .xdz _ _ _ | .dztab _ _ => s
  match s1.cmds.find? fun d => d.id == c.id with
  | some d => if d.state == .running then s1.completeLink d else s1
  | none => s1

/-- A restarted link command whose pair is gone reads its descriptor again and applies the checks of R343, before it takes a slot (R257,
R348): the command as it then stands, none while it waits or when a check parks it. -/
def rereadLink (s : State) (c : Cmd) : State × Option Cmd :=
  match c.op with
  | .send x =>
    if x.credit then (s, some c)
    else match s.prepSend (cmdWho c) c.hold x.desc x.quant x.ef with
      | (s1, .error none) => (s1, none)
      | (s1, .error (some f)) => (s1.parkCmd c f, none)
      | (s1, .ok y) => (s1, some { c with op := .send { y with round := x.round } })
  | .recv x =>
    if x.paired then (s, some c)
    else match s.prepRecv (cmdWho c) c.hold x.desc x.add with
      | (s1, .error none) => (s1, none)
      | (s1, .error (some f)) => (s1.parkCmd c f, none)
      | (s1, .ok y) => (s1, some { c with op := .recv { y with round := x.round, pend := x.pend } })
  | .xfer _ _ _ _ _ | .xdz _ _ _ | .dztab _ _ => (s, none)

/-- A restarted link command has its slot and runs: one without a pair has read its descriptor, and a recv sends its credit anew (R339,
R384). -/
def startLink (s : State) (c : Cmd) : State :=
  let s1 := s.setCmd { c with state := .running }
  match c.op with
  | .send x => if x.credit then s1 else s1.meterVirt (cmdWho c) (span x.desc.toNat 64)
  | .recv x => if x.paired then s1 else (s1.meterVirt (cmdWho c) (span x.desc.toNat 64)).sendCredit c.id c x
  | .xfer _ _ _ _ _ | .xdz _ _ _ | .dztab _ _ => s

end State
end Sys2Proof.Machine
end

