-- ==== Sys2Proof/Machine/Port.lean ====
section
/-! DEFINITION. Sys2Proof/Machine/Port.lean: the engine port (R257): counters (R255), commands up to their acceptance, the
round-robin grant of engines, streams as they leave the GIQ (R174, R178, R179), and the work of accepted commands. -/

namespace Sys2Proof.Machine
namespace State

/-! ### Counters (R255) -/

/-- cinc. -/
def runCinc (s : State) (e : Entry) (c : Nat) (v : Word) : State × RunRes :=
  let x := s.core.ctr c
  if 65535 < x.count + v.toNat then (s, .fault e { code := 0x11, tval := BitVec.ofNat 64 c })
  else (s.updCore fun k => k.setCtr c { x with count := x.count + v.toNat }, .done e)

/-- cset: the parked commands of the counter are cancelled (R259). -/
def runCset (s : State) (e : Entry) (c : Nat) (v : Word) : State × RunRes :=
  if 65535 < v.toNat then (s, .fault e { code := 0x11, tval := BitVec.ofNat 64 c })
  else ((s.cancelParked c).updCore fun k => k.setCtr c ⟨v.toNat, false, 0, 0⟩, .done e)

/-- The datapath of a command in a machine-check record (R328). -/
def cmdKind (c : Cmd) : Nat := match c.op with | .send _ => 0x0B | .xfer _ _ _ _ _ | .xdz _ _ _ | .dztab _ _ | .recv _ => 0x0A

/-- The latched fault of a counter, as an entry delivers it (R259): a machine check names the command that parked. -/
def latched (s : State) (c : Nat) : GFault :=
  let x := s.core.ctr c
  if x.cause = 0x0D then
    match s.cmds.find? fun m => m.core == s.cur && m.task == s.core.gridTaskId && m.ctr == c && m.state == .parked 0x0D x.tval with
    | some m => { code := 0x0D, tval := 0, mc := some (cmdKind m, none, none), src := some (m.word, m.pc) }
    | none => { code := 0x0D, tval := 0, mc := some (0x0A, none, none) }
  else { code := x.cause, tval := x.tval }

/-- cwait and h.cwait; one whose counter is above its threshold waits (R369). -/
def runCwait (s : State) (e : Entry) (c : Nat) (v : Word) : State × RunRes :=
  let x := s.core.ctr c
  if x.f then (s, .fault e (s.latched c))
  else if x.count ≤ v.toNat then (s, .done e) else (s, .wait { e with stop := .wait })

/-- crd. -/
def runCrd (s : State) (e : Entry) (c xd : Nat) : State × RunRes :=
  (s.updCore fun k => k.setReg xd (s.crdWord c), .done e)

/-! ### The grant of engines (R257) -/

/-- Fenced units of a cluster (R329): kind 0 transfer engines, 1 decompressors, 3 the table loader. -/
def fencedUnits (s : State) (cluster kind : Nat) : Nat := (s.badUnits.filter fun b => b == (cluster, kind)).length

end State

/-- The kind of engine that a command of the cluster takes. -/
def CmdOp.kind : CmdOp → Option EngKind
  | .xfer _ _ _ _ _ => some .transfer
  | .xdz _ _ _ => some .decomp
  | .dztab _ _ => some .loader
  | .send _ | .recv _ => none

/-- The kind of engine that an entry waits for at the port. -/
def GOp.kind : GOp → Option EngKind
  | .xfer _ _ _ _ | .xferb _ _ _ _ => some .transfer
  | .xdz _ _ _ _ | .stream _ _ _ _ _ _ => some .decomp
  | .dztab _ _ _ => some .loader
  | _ => none

namespace State

/-- Does an entry of the core, whose GIQ has not drained for a pre-emption (R369), wait at its port for an engine of the kind, since
before `t`. -/
def portWaits (s : State) (n : Nat) (kind : EngKind) (before : Nat → Bool) : Bool :=
  let c := s.getCore n
  (c.run == .running || c.run == .halting || c.run == .stop)
    && c.flight.any fun e => !e.fin && e.stop == .port && e.op.kind == some kind && before e.since

/-- Does a restarted command of the core wait for an engine of the kind (R259), that began as `first` says by time and number. -/
def cmdWaits (s : State) (n : Nat) (kind : EngKind) (first : Nat → Nat → Bool) : Bool :=
  s.cmds.any fun c => c.core == n && c.state == .waiting && c.op.kind == some kind && first c.since c.id

/-- Does a core wait for an engine of the kind: a command at its port, or a restarted one. -/
def waitsFor (s : State) (n : Nat) (kind : EngKind) : Bool :=
  s.portWaits n kind (fun _ => true) || s.cmdWaits n kind fun _ _ => true

/-- The core in its cluster that received the last grant of a kind. Before the first grant it counts as core 3, so that the round begins at
core 0: DESIGN CHOICE (assumption log 67). -/
def lastGrant (s : State) (kind : EngKind) (cluster : Nat) : Nat :=
  match kind with
  | .transfer => Sp.get 3 s.rrXfer cluster
  | .decomp => Sp.get 3 s.rrDec cluster
  | .loader => Sp.get 3 s.rrLoad cluster

def setGrant (s : State) (kind : EngKind) (core : Nat) : State :=
  let k := coreCluster core
  match kind with
  | .transfer => { s with rrXfer := Sp.put 3 s.rrXfer k (core % 4) }
  | .decomp => { s with rrDec := Sp.put 3 s.rrDec k (core % 4) }
  | .loader => { s with rrLoad := Sp.put 3 s.rrLoad k (core % 4) }

def engineFree (s : State) (kind : EngKind) (cluster : Nat) : Bool :=
  match kind with
  | .transfer => decide (s.xferInUse cluster + s.fencedUnits cluster 0 < 4)
  | .decomp => decide (s.dzInUse cluster + s.fencedUnits cluster 1 < 4)
  | .loader => !s.loaderInUse cluster && decide (s.fencedUnits cluster 3 = 0)

/-- Is core `n`, which asks, the first waiting core after the last one granted (R257; the first round: assumption log 67). -/
def turnOf (s : State) (kind : EngKind) (n : Nat) : Bool :=
  let base := coreCluster n * 4
  let last := s.lastGrant kind (coreCluster n)
  let order := (List.range 4).map fun i => base + (last + 1 + i) % 4
  match order.find? fun k => k == n || s.waitsFor k kind with
  | some k => k == n
  | none => false

/-- May core `n` be granted an engine now. -/
def mayGrant (s : State) (kind : EngKind) (n : Nat) : Bool := s.engineFree kind (coreCluster n) && s.turnOf kind n

/-- When an entry at the port of the core that moves began to wait: now, if it has not waited yet. -/
def waitingSince (s : State) (e : Entry) : Nat := if e.stop == .port then e.since else s.ticks

/-- May the entry at the port of the core that moves be granted an engine: none of the core's restarted commands began to wait before
it (R257). -/
def portGrant (s : State) (grant : Bool) (e : Entry) (kind : EngKind) : Bool :=
  grant && !s.cmdWaits s.cur kind (fun t _ => decide (t ≤ s.waitingSince e)) && s.mayGrant kind s.cur

/-- May a restarted command be granted an engine: it began to wait before the others of its core and before the command at the
port (R257). -/
def cmdGrant (s : State) (c : Cmd) (kind : EngKind) : Bool :=
  !s.cmdWaits c.core kind (fun t id => decide (t < c.since) || (t == c.since && decide (id < c.id)))
    && !s.portWaits c.core kind (fun t => decide (t < c.since)) && s.mayGrant kind c.core

/-! ### The grant of link slots (R257, R259, R343) -/

/-- The link engine that a command takes a slot of: of sends, or of recvs, on a die. -/
def slotOf (s : State) (c : Cmd) : Option (Bool × Nat) :=
  match c.op with
  | .send x => some (true, x.link / 3)
  | .recv x => some (false, s.linkDie x.peer)
  | .xfer _ _ _ _ _ | .xdz _ _ _ | .dztab _ _ => none

/-- Does an entry at the port of core `n` wait for a slot, since before `t`. -/
def portSlotWaits (s : State) (snd : Bool) (die n : Nat) (before : Nat → Bool) : Bool :=
  let c := s.getCore n
  (c.run == .running || c.run == .halting || c.run == .stop)
    && c.flight.any fun e => !e.fin && e.stop == .port && e.slot == die && before e.since && (match e.op with
      | .send _ _ _ _ => snd
      | .recv _ _ _ => !snd
      | _ => false)

/-- Does a restarted command of core `n` wait for a slot, that began as `first` says by time and number. -/
def cmdSlotWaits (s : State) (snd : Bool) (die n : Nat) (first : Nat → Nat → Bool) : Bool :=
  s.cmds.any fun c => c.core == n && c.state == .waiting && s.slotOf c == some (snd, die) && first c.since c.id

def slotFree (s : State) (snd : Bool) (die : Nat) : Bool :=
  if snd then decide (s.sendSlots die < 16) else decide (s.recvSlots die < 64)

/-- The place of a link engine among the last grants. -/
def slotKey (snd : Bool) (die : Nat) : Nat := die * 2 + (if snd then 0 else 1)

/-- May core `n` be granted a slot: one is free, and it is the first core that waits after the last one granted. A link engine serves the
whole package: DESIGN CHOICE, the round goes over its 96 cores in ascending number and begins at core 0 (assumption log 67). -/
def maySlot (s : State) (snd : Bool) (die n : Nat) : Bool :=
  s.slotFree snd die && (match ((List.range 96).map fun i => (Sp.get 95 s.rrLink (slotKey snd die) + 1 + i) % 96).find? fun k =>
      k == n || s.portSlotWaits snd die k (fun _ => true) || s.cmdSlotWaits snd die k fun _ _ => true with
    | some k => k == n
    | none => false)

def setSlot (s : State) (snd : Bool) (die core : Nat) : State :=
  { s with rrLink := Sp.put 95 s.rrLink (slotKey snd die) core }

/-- May the entry at the port of the core that moves be granted a slot: none of the core's restarted commands began to wait before it. -/
def portSlot (s : State) (grant : Bool) (e : Entry) (snd : Bool) (die : Nat) : Bool :=
  grant && !s.cmdSlotWaits snd die s.cur (fun t _ => decide (t ≤ s.waitingSince e)) && s.maySlot snd die s.cur

/-- May a restarted link command be granted a slot: it began to wait before the others of its core and before the command at the port. -/
def cmdSlot (s : State) (c : Cmd) (snd : Bool) (die : Nat) : Bool :=
  !s.cmdSlotWaits snd die c.core (fun t id => decide (t < c.since) || (t == c.since && decide (id < c.id)))
    && !s.portSlotWaits snd die c.core (fun t => decide (t < c.since)) && s.maySlot snd die c.core

/-- An entry that waits for an engine. -/
def awaitEngine (s : State) (e : Entry) : State × RunRes := (s, .wait { e with stop := .port, since := s.waitingSince e })

/-- Does core `n` stand still: it is being pre-empted, or drains for a trap. -/
def standsStill (s : State) (n : Nat) : Bool :=
  let c := s.getCore n
  n == s.cur || (c.run != .running && c.run != .halting) || c.drn.isSome

/-- Decompressors of the cluster that streams of cores that stand still hold: they come free only when such a core goes on, or its
streams are saved. -/
def dzStill (s : State) (cluster : Nat) : Nat :=
  (((List.range 4).map fun i => cluster * 4 + i).filter s.standsStill |>.flatMap fun n =>
    (s.getCore n).streams.filter fun x => x.kind == .qldz).length

/-- Can the engine that an entry at the port of the core that moves waits for come free while the core drains (R25, R369, assumption
log 22). -/
def engineComes (s : State) (e : Entry) : Bool :=
  let q := coreCluster s.cur
  match e.op.kind with
  | none => true
  | some .transfer => decide (s.fencedUnits q 0 < 4)
  | some .decomp => decide (s.dzStill q + s.fencedUnits q 1 < 4)
  | some .loader => decide (s.fencedUnits q 3 = 0)
      && !(s.cmds.any fun c => c.op.kind == some .loader && coreCluster c.core == q && s.qldzAhead c)

/-- Does the entry wait unsatisfied in a drain: for its condition, or for an engine that the drain cannot bring. -/
def unsatisfied (s : State) (e : Entry) : Bool := e.stop == .wait || (e.stop == .port && !s.engineComes e)

/-- Cause 0x11 of step 4 of R257. -/
def overflowFault (c : Nat) : GFault := { code := 0x11, tval := BitVec.ofNat 64 c }

/-! ### Commands at the port -/

/-- xfer: steps 1 to 5 of R257; `grant` says whether an engine may be granted in this step. -/
def runXferPort (s : State) (e : Entry) (grant : Bool) (c : Nat) (da sa x3 : Word) : State × RunRes :=
  match s.prepXfer e da sa x3 with
  | (s1, .error none) => (s1, .wait e)
  | (s1, .error (some f)) => (s1, .fault e f)
  | (s1, .ok (d, r, sm, dm)) =>
    if s1.ctrFull c then (s1, .fault e (overflowFault c))
    else if !s1.portGrant grant e .transfer then s1.awaitEngine e
    else (((s1.readMaps e [sa, da]).acceptCmd e c (.xfer d r x3 sm dm) 0).setGrant .transfer s1.cur, .done e)

/-- The three words of a command group (R267), and whether its last two cells are zero. -/
def groupWords (g : Grid) (w : Window) (n : Nat) : Word × Word × Word × Bool :=
  let cell (i : Nat) : Nat := (w.read g (n / 16) (8 * (n % 16) + i)).toNat
  let two (i : Nat) : Word := BitVec.ofNat 64 (cell (i + 1) * 2 ^ 32 + cell i)
  (two 0, two 2, two 4, cell 6 == 0 && cell 7 == 0)

/-- One command of an xferb (R267), numbered by the entry's progress; the accepted bits gather in the entry. A group whose last two cells are
not zero is rejected before steps 1 to 4 of R257, and so writes no fault record: DESIGN CHOICE (assumption log 67). -/
def runXferb (s : State) (e : Entry) (grant : Bool) (kd : Nat) (w : Window) (c : Nat) (km : KField) : State × RunRes :=
  let n := e.prog
  let acc : Mask := if n = 0 then 0 else e.vp.acc
  let next (s : State) (took : Bool) : State × RunRes :=
    let acc' := if took then acc ||| (1#128 <<< n) else acc
    let e' : Entry := { e with prog := n + 1, vp := { e.vp with acc := acc' }, stop := .none }
    if n + 1 < 16 * w.count then (s, .more e')
    else (s.updCore fun k => { k with masks := k.masks.write kd acc' }, .done e')
  if !active (s.core.masks.governing km) (8 * (n % 16)) then next s false
  else
    let (da, sa, x3, ok) := groupWords s.core.grid w n
    if !ok then next s false
    else
      match s.prepXfer e da sa x3 with
      | (s1, .error none) => (s1, .wait { e with vp := { e.vp with acc := acc } })
      | (s1, .error (some f)) =>
        next (match f.page with
          | some (ag, pf) => (s1.readMaps e [sa, da]).recordFault s1.part ag f.tval pf
          | none => s1.readMaps e [sa, da]) false
      | (s1, .ok (d, r, sm, dm)) =>
        if s1.ctrFull c then next (s1.readMaps e [sa, da]) false
        else if !s1.portGrant grant e .transfer then
          s1.awaitEngine { e with vp := { e.vp with acc := acc } }
        else next (((s1.readMaps e [sa, da]).acceptCmd e c (.xfer d r x3 sm dm) 0).setGrant .transfer s1.cur) true

/-- xdz. -/
def runXdzPort (s : State) (e : Entry) (grant : Bool) (c : Nat) (dst hdr prm : Word) : State × RunRes :=
  if s.ctrFull c then (s, .fault e (overflowFault c))
  else if !s.portGrant grant e .decomp then s.awaitEngine e
  else ((s.acceptCmd e c (.xdz dst hdr prm) hdr).setGrant .decomp s.cur, .done e)

/-- dztab (R274): the cluster's one table loader. -/
def runDztabPort (s : State) (e : Entry) (grant : Bool) (c n : Nat) (addr : Word) : State × RunRes :=
  if addr.toNat % 64 ≠ 0 then (s, .fault e { code := 0x03, tval := addr })
  else
    match s.probeSpan (s.entryWho e 4) .load addr 320 with
    | (s1, .error none) => (s1, .wait e)
    | (s1, .error (some f)) => (s1, .fault e f)
    | (s1, .ok _) =>
      if s1.ctrFull c then (s1, .fault e (overflowFault c))
      else if !s1.portGrant grant e .loader then s1.awaitEngine e
      else ((s1.acceptCmd e c (.dztab n addr) 0).setGrant .loader s1.cur, .done e)

/-- Does a held write of the core leave the domain unseen (R319, R343). -/
def holdsWrites (s : State) : Bool := s.gridWriter.hold

/-- send (R343). -/
def runSendPort (s : State) (e : Entry) (grant : Bool) (c : Nat) (addr : Word) (quant : Nat) (ef : Bool) : State × RunRes :=
  match s.prepSend (s.entryWho e 2) s.holdsWrites addr quant ef with
  | (s1, .error none) => (s1, .wait e)
  | (s1, .error (some f)) => (s1, .fault e f)
  | (s1, .ok x) =>
    if s1.ctrFull c then (s1, .fault e (overflowFault c))
    else if !s1.portSlot grant e true (x.link / 3) then s1.awaitEngine { e with slot := x.link / 3 }
    else (((s1.readMaps e [addr]).acceptCmd e c (.send x) 0).setSlot true (x.link / 3) s1.cur, .done e)

/-- recv (R343): its acceptance sends a credit to the peer (R339). -/
def runRecvPort (s : State) (e : Entry) (grant : Bool) (c : Nat) (addr : Word) (add : Bool) : State × RunRes :=
  match s.prepRecv (s.entryWho e 2) s.holdsWrites addr add with
  | (s1, .error none) => (s1, .wait e)
  | (s1, .error (some f)) => (s1, .fault e f)
  | (s1, .ok x) =>
    if s1.ctrFull c then (s1, .fault e (overflowFault c))
    else if !s1.portSlot grant e false (s1.linkDie x.peer) then s1.awaitEngine { e with slot := s1.linkDie x.peer }
    else
      let s2 := ((s1.readMaps e [addr]).acceptCmd e c (.recv x) 0).setSlot false (s1.linkDie x.peer) s1.cur
      (match s2.cmds.find? fun k => k.id == s1.nextCmd with
        | some k => s2.sendCredit k.id k x
        | none => s2, .done e)

/-- Does a stream of runtime level replace a parked qldz, whose decompressor it takes over (R189, R418). -/
def takesOver (s : State) (q pl : Nat) : Bool :=
  pl == 1 && s.core.streams.any fun x => x.q == q && x.parked && x.kind == .qldz

/-- A stream leaves the GIQ for the port and is outstanding (R174); a qldff probes first (R178), a qldz takes a
decompressor (R179), or that of the parked qldz that it replaces (R418), and a qldx reads its index list as far as it can. Each has a number of its own in the order of acceptance
(R222, R274). -/
def runStream (s : State) (e : Entry) (grant : Bool) (k : SKind) (q : Nat) (addr : Word) (spec : SSpec) (idx : Word)
    (xd : Nat) : State × RunRes :=
  let st : Stream :=
    { kind := k, ord := e.ord, seq := e.ord, q := q, addr := addr, spec := spec, idx := idx, pc := e.pc, word := e.word, pl := e.pl,
      dzNext := addr }
  let accept (s : State) (x : Stream) : State := { s with nextCmd := s.nextCmd + 1 }.addStream { x with seq := s.nextCmd }
  match k with
  | .qld | .qldt | .qldx => ((accept s st).readIndices, .done e)
  | .qldz =>
    if s.takesOver q e.pl then (accept s st, .done e)
    else if !s.portGrant grant e .decomp then s.awaitEngine e
    else ((accept s st).setGrant .decomp s.cur, .done e)
  | .qldff =>
    match s.grantedSteps st spec.steps 0 e.maps with
    | (s1, ms, none) => (s1, .wait { e with maps := ms })
    | (s1, _, some (0, some f)) => (s1, .fault e f)
    | (s1, ms, some (g, _)) =>
      ((accept s1 { st with spec := { spec with steps := g }, maps := ms }).updCore fun c =>
        c.setReg xd (BitVec.ofNat 64 g), .done e)

/-! ### Accepted commands -/

/-- The work of one accepted command as far as it goes; none while it reaches scratchpad that is saved in a frame. -/
def workCmd (s : State) (c : Cmd) : State :=
  match c.state with
  | .running =>
    if s.reachesSaved c then s
    else
      match c.op with
      | .xfer d r x sm dm => s.runXfer c d r x sm dm
      | .xdz d _ p => s.runXdz c d p (fieldNat p 0 32 + 1)
      | .dztab n a => s.runDztab c n a
      | .send _ | .recv _ => s.linkWork c
  | .waiting | .parked _ _ => s

/-- A restarted command takes an engine when one is granted (R259); a link command without a pair the slot of the PEER that its descriptor names
now (R343, R348). -/
def grantCmd (s : State) (c : Cmd) : State :=
  if c.state != .waiting then s
  else
    match c.op.kind, c.op with
    | some k, _ => if s.cmdGrant c k then (s.setCmd { c with state := .running }).setGrant k c.core else s
    | none, _ => match s.rereadLink c with
      | (s1, none) => s1
      | (s1, some d) => match s1.slotOf d with
        | some (snd, die) => if s1.cmdSlot d snd die then (s1.startLink d).setSlot snd die d.core else s1.setCmd d
        | none => s1

/-- Grant and work every command once, in the order of acceptance (assumption log 2). -/
def pumpCmds (s : State) : State :=
  (s.cmds.map (·.id)).foldl (fun s id =>
    let s1 := match s.cmds.find? fun c => c.id == id with
      | some c => s.grantCmd c
      | none => s
    match s1.cmds.find? fun c => c.id == id with
    | some c => s1.workCmd c
    | none => s1) s

end State
end Sys2Proof.Machine
end

