-- ==== Sys2Proof/Machine/Tasks.lean ====
section
/-! DEFINITION. Sys2Proof/Machine/Tasks.lean: the markers (R18): fences (R241, R242), seal and irrev (R312, R314), halt (R12,
R258); the end of a task (R12, R30, R366) and run-ahead (R26). -/

namespace Sys2Proof.Machine

/-- Does an entry access memory or issue an engine command, so that a fence holds it back (R241). -/
def GOp.touchesMem : GOp → Bool
  | .gls _ _ _ _ _ _ _ | .gimage _ _ _ _ _ | .stream _ _ _ _ _ _ | .amerge _ | .ascat _ _ _ _ => true
  | .xfer _ _ _ _ | .xferb _ _ _ _ | .xdz _ _ _ _ | .dztab _ _ _ | .send _ _ _ _ | .recv _ _ _ => true
  | _ => false

/-- The earlier entries that fence.vs, fence.vv and fence.all wait for (R242). -/
def GOp.fenced : GOp → Bool
  | .gls _ _ _ _ _ _ _ | .gimage _ _ _ _ _ | .amerge _ | .ascat _ _ _ _ | .oacc _ => true
  | _ => false

/-- A marker that holds later memory entries back in the GIQ: fence.sv, fence.vv, fence.all, seal and irrev (R241, R312). -/
def GOp.holdsGrid : GOp → Bool
  | .fence k _ => k != 1
  | .seal _ | .irrev _ => true
  | _ => false

namespace State

/-- A fence marker (R241): fence.sv and fence.all perform the earlier scalar stores that wait, and all but fence.sv wait for earlier
grid-side accesses (R242). -/
def runFence (s : State) (e : Entry) (earlier : List Entry) (kind : Nat) : State × RunRes :=
  let scalar := kind == 0 || kind == 3
  let s1 := if scalar then s.landBefore e.ord else s
  if (scalar && s1.storesBefore e.ord) || (kind != 0 && earlier.any fun x => x.op.fenced && !x.fin) then
    (s1, .wait { e with stop := .wait })
  else (if kind == 1 || kind == 3 then s1.dropOlder else s1, .done e)

/-- The lowest counter with F = 1 (R258). -/
def firstF (s : State) : Option Nat := (List.range 32).find? fun n => (s.core.ctr n).f

/-! ### seal and irrev -/

/-- The rank of the core in its task (R11). -/
def rank (s : State) (t : Task) : Nat := t.cores.idxOf s.cur

/-- Write the header of a resume record (R312): none of it when there is no pointer. -/
def writeHeader (s : State) (e : Entry) (t : Task) (ptr : Word) : State × RunRes :=
  if ptr = 0 then (s, .done e)
  else
    match s.translate (s.entryWho e 2) .store ptr with
    | (s1, .wait) => (s1, .wait e)
    | (s1, .fault f) => (s1, .fault e { code := f.cause, tval := ptr, page := some (2, f) })
    | (s1, .ok pa) =>
      if s1.lost pa then (s1, .fault e { code := 0x0C, tval := s1.poisonVa ptr pa 16 })
      else if s1.writeStalls s1.gridWriter pa 16 then (s1.setLstall s1.part, .wait e)
      else
        (s1.write s1.gridWriter pa (leBytes 8 ((rinOf s1.core).toNat * 2 ^ 32 + t.id) ++ leBytes 8 (s1.rank t * 2 ^ 48)),
         .done e)

/-- Close interval `n` (R312): arrival with the pointer, the next RIN and one more open interval. -/
def closeInterval (s : State) (t : Task) (ptr : Word) (isSeal : Bool) : State :=
  let n := rinOf s.core
  let s1 := s.modTask t.id fun t => { t with pend := t.pend ++ [(n.toNat, s.rank t, ptr)] }
  let s2 := { s1 with dom := { s1.dom with sealed := if s1.dom.sealed.contains n then s1.dom.sealed else s1.dom.sealed ++ [n] } }
  s2.updCore fun c =>
    { c with rin := zext (n + 1), openN := c.openN + 1
             now := if isSeal then false else c.now
             sealReq := if isSeal then false else c.sealReq
             sealPtr := if isSeal then some ptr else c.sealPtr }

/-- What every member core does before it closes its interval (R312), its scalar stores being performed: the entry waits, takes a
latched fault, or goes on. -/
def sealReady (s : State) (e : Entry) (earlier : List Entry) : Option RunRes :=
  let wait : Option RunRes := some (.wait { e with stop := .wait })
  if s.core.openN = 2 || !s.core.sbuf.isEmpty || earlier.any fun x => !x.fin then wait
  else match s.firstF with
    | some c => some (.fault e (s.latched c))
    | none => if s.cmds.any fun c => c.core == s.cur && c.task == s.core.gridTaskId then wait else none

/-- A member core's seal marker (R312). -/
def runSeal (s0 : State) (e : Entry) (earlier : List Entry) (ptr : Word) : State × RunRes :=
  let s := s0.landAll
  match s.gridTask with
  | none => (s, .done e)
  | some t =>
    match s.sealReady e earlier with
    | some r => (s, r)
    | none =>
      match s.writeHeader e t ptr with
      | (s1, .done e1) => ((s1.closeInterval t ptr true).dropOlder, .done e1)
      | (s1, r) => (s1, r)

/-- The retirement of an irrev (R314): NOW is set, and every member core whose RIN is not later than `n` gets the seal
request. -/
def finishIrrev (s : State) (n : BitVec 32) : State :=
  let s1 := s.updCore fun c => { c with now := true, sealReq := false }
  (s1.modCores allCores fun k c =>
    if s1.memberCore k && !later (rinOf c) n then { c with sealReq := true } else c).sendMsg (.irrev n)

/-- A member core's irrev marker (R314): it closes its interval n, keeps n + 1 as its progress, and waits until n has committed. -/
def runIrrev (s0 : State) (e : Entry) (earlier : List Entry) (ptr : Word) : State × RunRes :=
  let s := s0.landAll
  match s.gridTask with
  | none => (s, .done e)
  | some t =>
    if e.prog = 0 then
      match s.sealReady e earlier with
      | some r => (s, r)
      | none =>
        match s.writeHeader e t ptr with
        | (s1, .done e1) => (s1.closeInterval t ptr false, .wait { e1 with prog := (rinOf s1.core).toNat + 1, stop := .wait })
        | (s1, r) => (s1, r)
    else
      let n := BitVec.ofNat 32 (e.prog - 1)
      if later n s.dom.datum then (s, .wait { e with stop := .wait }) else ((s.finishIrrev n).dropOlder, .done e)

/-! ### The end of a task (R12, R30, R366) -/

/-- The launch unit as an agent (R358): the rights of runtime level. R230 and R389 give it no AGENT: DESIGN CHOICE, the duty record of its
walk says 1 (assumption log 72). -/
def launchWho (s : State) (p task : Nat) : Who :=
  { core := s.cur, part := p, pl := 1, task := task, agent := 1, dev := false }

/-- The launch unit as it reads for queue `q`, since it was enabled last: its ring (`k` 0) or a wait-for entry (`k` from 1). The scheduler's die walks
for it (R361; assumption log 55). -/
def queueWho (s : State) (p q k : Nat) : Who :=
  { s.launchWho p 0 with core := 24 * s.liveDies.headD 0, id := 2 * (1 + ((s.getQueue p q).epoch * 8 + q) * 8 + k) }

/-- The launch units proceed only while the device is in RUN (R323, R378). -/
def launching (s : State) : Bool := s.dom.state == .run

/-- Test one wait-for entry. -/
def pollOne (s : State) (who : Who) (w : Word × Word) (k : Nat) : State × Nat :=
  if k ≠ 0 then (s, k)
  else
    match s.readRun who w.1 8 with
    | (s1, .ok bs) => (s1, if w.2.toNat ≤ fromLE bs then 1 else 0)
    | (s1, .error none) => (s1, 0)
    | (s1, .error (some _)) => (s1, 2)

def pollAll (s : State) (p q i : Nat) : List ((Word × Word) × Nat) → State × List Nat
  | [] => (s, [])
  | (w, k) :: rest =>
    let a := s.pollOne (s.queueWho p q i) w k
    let b := a.1.pollAll p q (i + 1) rest
    (b.1, a.2 :: b.2)

/-- May the launch unit work on records of a partition: the device runs (R323, R378), and no reset of the partition is in progress
(R392). -/
def launches (s : State) (p : Nat) : Bool := s.launching && (s.getPart p).stage == .none

/-- May a record of a queue be fetched: one of a queue that is being destroyed is finished also while a reset of the partition destroys its
queues, before that flushes the partition's writes (R377, R391). -/
def fetches (s : State) (p : Nat) (x : LQueue) : Bool :=
  x.hs == .fetch && x.head != x.tail
    && ((x.state == 1 && s.launches p)
      || (x.state == 3 && s.launching && ((s.getPart p).stage == .none || (s.getPart p).stage == .quiesce || (s.getPart p).stage == .drain)))

/-- Has a partition a record of a class in RESERVE, be it that of a pre-empted task (R374). -/
def reserving (s : State) (p cls : Nat) : Bool :=
  ((s.getPart p).queues.toList.any fun x => match x.state, x.hs with
    | 1, .reserve _ _ => fieldNat x.held.cls 0 2 == cls
    | _, _ => false)
  || s.tasks.any fun t => t.state == .preempted && t.part == p && t.cls == cls

/-- A partition with no record of a class in RESERVE has no positive deficit there (R363). -/
def capDeficit (s : State) (p cls : Nat) : State :=
  if s.reserving p cls then s
  else { s with deficit := Sp.put 0 s.deficit (p * 4 + cls) (min (Sp.get 0 s.deficit (p * 4 + cls)) 0) }

/-- WAIT_POLL (R362): each unsatisfied entry is read; when all are satisfied the record goes to RESERVE. -/
def waitPoll (s : State) (p q : Nat) : State :=
  let x := s.getQueue p q
  if x.state ≠ 1 || !s.launches p then s
  else
    match x.hs with
    | .wait sat =>
      let r := s.pollAll p q 1 (x.held.waits.zip sat)
      if r.2.all fun k => k == 1 then
        ({ r.1 with nextCmd := r.1.nextCmd + 1 }.capDeficit p (fieldNat x.held.cls 0 2)).modQueue p q fun x => { x with hs := .reserve r.1.nextCmd false }
      else r.1.modQueue p q fun x => { x with hs := .wait r.2 }
    | .fetch | .reserve _ _ => s

/-- A done-counter write: every record in WAIT reads its unsatisfied entries again (R362). -/
def pollDone (s : State) : State :=
  (List.range 16).foldl (fun s p => (List.range 8).foldl (fun s q => s.waitPoll p q) s) s

/-- Halt a queue whose done-counter write faulted (R366). -/
def doneFault (s : State) (t : Task) : State :=
  (s.modQueue t.part t.queue fun x =>
    { x with head := if x.hs == .fetch then x.head else x.start, hs := .fetch, behind := [] }).haltQueue t.part t.queue 8
    (BitVec.ofNat 64 t.recAt)

/-- Return a task's cores: free, or left to the run-ahead task that follows it on them (R26). -/
def freeCores (s : State) (t : Task) : State :=
  s.modCores t.cores fun _ c =>
    if c.prev == some t.id then c.alone
    else if c.task == some t.id then c.release else c

/-- The deficit of a partition falls by the task's core-active cycles (R363). -/
def chargeDeficit (s0 : State) (t : Task) : State :=
  let k := t.part * 4 + t.cls
  let s := s0.capDeficit t.part t.cls
  { s with deficit := Sp.put 0 s.deficit k (Sp.get 0 s.deficit k - (t.cycles : Int)) }

/-- Return everything the task holds (R30). -/
def finishTask (s : State) (t : Task) : State := ((s.chargeDeficit t).freeCores t).dropTask t.id

/-- The task ends (R12, R366): the done counter is raised, then its resources return. The Bool is false while the write has to
wait: for the host's walk, or for log capacity (R309). -/
def endTask (s : State) (t : Task) : State × Bool :=
  if t.done = 0 then (s.finishTask t, true)
  else
    match s.translate (s.launchWho t.part t.id) .store t.done with
    | (s1, .wait) => (s1, false)
    | (s1, .fault _) => ((s1.doneFault t).finishTask t, true)
    | (s1, .ok pa) =>
      match s1.region pa with
      | .host | .dev | .absent => ((s1.doneFault t).finishTask t, true)
      | .hbm | .tier2 | .spad =>
        if s1.poisonedRange pa 8 then ((s1.doneFault t).finishTask t, true)
        else
          let w : Wr := if t.member then ⟨t.part, rinOf s1.core, false, coreDie s1.cur, none⟩
            else ⟨t.part, s1.entryInterval, false, coreDie s1.cur, none⟩
          if s1.writeStalls w pa 8 then (s1.setLstall t.part, false)
          else ((((s1.meterMem t.part pa 8 0).write w pa (leBytes 8 (s1.readNat pa 8 + 1))).finishTask t).pollDone, true)

/-- The halt of the core that moves retires (R12): a run-ahead task behind it is no longer held back on this core (R26), another
core becomes idle; the last one ends the task. The Bool is false while the end has to wait. -/
def retireHalt (s : State) : State × Bool :=
  match s.gridTask with
  | none => (s.updCore fun c => { c with run := .idle }, true)
  | some t =>
    let t' := { t with halted := t.halted ++ [s.cur] }
    if t'.cores.all fun n => t'.halted.contains n then s.endTask t'
    else
      (((s.modTask t.id fun _ => t').updCore fun c => if c.prev.isSome then c.alone else { c with run := .idle }).setNotices s.notices, true)

/-- A halt marker (R12, R258): every earlier entry has retired, a stream once it has placed its last entry (R174), and every earlier
scalar store is performed. -/
def runHalt (s0 : State) (e : Entry) (earlier : List Entry) : State × RunRes :=
  let s := s0.landAll
  if !s.core.sbuf.isEmpty || (s.core.streams.any fun x => decide (x.ord < e.ord)) || earlier.any fun x => !x.fin then
    (s, .wait { e with stop := .wait })
  else
    match s.firstF with
    | some c => (s, .fault e (s.latched c))
    | none =>
      if (List.range 32).any fun n => (s.core.ctr n).count != 0 then (s, .wait { e with stop := .wait })
      else
        match s.retireHalt with
        | (s1, true) => (s1.dropOlder, .done e)
        | (s1, false) => (s1, .wait e)

/-! ### Run-ahead (R26) -/

/-- Is the task of the core that moves a member task. -/
def curMember (s : State) : Bool := match s.curTask with | some t => t.member | none => false

/-- The recovery state and the trap vector of the task that the core begins (R103, R303, R314). -/
def startIntervals (s : State) (n : BitVec 32) : State :=
  let m := s.curMember
  s.updCore fun c =>
    { c with tvec := setField (s.getPart s.part).rtvec 0 8 0, rin := if m then zext n else c.rin
             openN := if m then 1 else 0, now := false, sealPtr := none }

/-- The core that moves begins its task in the entry interval (R303). -/
def beginTask (s : State) (n : BitVec 32) : State :=
  if s.curMember then (s.startIntervals n).withdrawArrival else s.startIntervals n

/-- The task that still holds the cores of one that runs ahead of it (R26). -/
def heldBy (s : State) (t : Task) : Option Nat :=
  (s.tasks.find? fun o => o.id != t.id && o.state == .running && o.cores == t.cores).map (·.id)

/-- The grid-reset entry: the grid-side state of R11, once the halt of every core of the old task has retired. R26 names the halt of this core,
and has the new task perform no memory access while a grid entry of the old task may still trap: DEDUCED, the entry waits for the whole gang,
and it is no wait that ends a drain (assumption log 32). -/
def runGridReset (s : State) (e : Entry) : State × RunRes :=
  if s.core.prev.isSome || (match s.curTask with | some t => (s.heldBy t).isSome | none => false) then (s, .wait e)
  else
    ((s.updCore fun c =>
      { c with grid := [], masks := Vector.replicate 24 0, queues := Vector.replicate 8 [], streams := []
               ctrs := Vector.replicate 32 Counter.init, awins := Vector.replicate 4 none
               flags := c.flags &&& scalarFlags, eidxNv := 0, eidxDz := 0, eidxOf := 0, eidxUf := 0, eidxSat := 0, ffi := 0, restidx := 0
               stepprog := 0, rowprog := 0, timecmp := 0 }).beginTask s.entryInterval, .done e)

/-- A task that has performed no memory access is no more, and its record, with its wait-for entries satisfied, goes back to the head of its
queue, ahead of what the queue has reached since, unless the queue was destroyed (R26, R369, R377). R352 counts the records dispatched and does
not say that a withdrawal takes one back: DESIGN CHOICE, NDISP falls by one; HEAD, which passed the record when it was read, stays where it is
(R356; assumption log 32). -/
def giveBack (s : State) (t : Task) : State :=
  { s with tasks := s.tasks.filter fun x => x.id != t.id }.modQueue t.part t.queue fun q =>
    if (q.state = 1 || q.state = 2) && q.epoch = t.epoch then
      { q with held := t.recd, start := BitVec.ofNat 64 t.recAt, hs := .wait (t.recd.waits.map fun _ => 1), ndisp := q.ndisp - 1
               behind := ⟨q.held, q.start, q.hs⟩ :: q.behind, pubs := (BitVec.ofNat 64 (t.recAt + 1), t.order) :: q.pubs }
    else q

/-- A run-ahead task that has been granted the cores of a task and is not dispatched yet. -/
def grantedAhead (s : State) (t : Task) : Option Task :=
  s.tasks.find? fun o => o.state == .granted && o.id != t.id && o.cores == t.cores

/-- Withdraw the run-ahead task behind the task of the core that moves, which traps or is pre-empted before its halt has retired here: every core
discards it with the commands and tag-table entries that it has made, and its record goes back to the head of its queue (R26, R369). A
core whose own halt had retired already runs nothing then. One that is granted and not dispatched gives its record back at once. -/
def withdraw (s : State) : State :=
  match s.core.prev, s.curTask with
  | some old, some t =>
    (s.stopTask t [] fun n c =>
      if c.task != some t.id then c
      else if c.prev.isSome then c.dropAhead (s.free * 128 + n) else { c.release with task := some old }).giveBack t
  | none, some t => (match s.grantedAhead t with | some o => s.giveBack o | none => s)
  | _, none => s

end State
end Sys2Proof.Machine
end

