-- ==== Sys2Proof/Machine/Giq.lean ====
section
/-! DEFINITION. Sys2Proof/Machine/Giq.lean: the grid instruction queue (R14, R15, R18 to R22): claims, one unit of an entry's
work, departure and the pipes, dispatch (slot B), the drain and the traps of entries (R25, R109, R369, R375) and the re-issue of a
held block (R376). -/

namespace Sys2Proof.Machine

/-! ### Pipes and claims (R19, R21, R22) -/

/-- The destination of an entry (R19): 0 the update pipe, 1 the window pipe, 2 the engine port, where markers wait too. -/
def GOp.pipe : GOp → Nat
  | .oacc _ => 0
  | .win _ _ | .kop _ _ _ _ _ _ | .wset _ _ | .wrd _ _ | .ofill _ _ _ | .copy _ _ | .gimage _ _ _ _ _
  | .gls _ _ _ _ _ _ _ | .ascat _ _ _ _ => 1
  | .stream _ _ _ _ _ _ | .cinc _ _ | .cwait _ _ | .cset _ _ | .crd _ _ | .ipost _ _ | .iwait _ _ | .barInit _ _
  | .barArrive _ _ _ | .barWait _ _ | .awin _ _ _ _ | .amerge _ | .arel _ | .slook _ _ | .sins _ _ _ | .sinv _
  | .xfer _ _ _ _ | .xferb _ _ _ _ | .xdz _ _ _ _ | .dztab _ _ _ | .send _ _ _ _ | .recv _ _ _ | .fence _ _ | .seal _
  | .irrev _ | .halt | .gridReset => 2

/-- The claim number of a mask register and of an accumulation window, after the 256 rows. -/
def maskClaim (k : Nat) : Nat := 256 + k
def awinClaim (a : Nat) : Nat := 300 + a

def kmClaim (km : KField) : List Nat := if km.toNat < 24 then [maskClaim km.toNat] else []

/-- The rows of the vectors of a window from a vector on (R21): all of the half in column and diagonal mode. -/
def rowsFrom (w : Window) (v : Nat) : List Nat :=
  match w.mode with
  | .row => ((List.range w.count).filter fun i => decide (v ≤ i)).map fun i => w.half * 128 + w.base i
  | .col | .diag => w.rows

def optRows (w : Option Window) (v : Nat) : List Nat := match w with | some w => rowsFrom w v | none => []

/-- A source window's rows from a vector on: its only row stays claimed when its count is 1. -/
def srcRows (w : Option Window) (v : Nat) : List Nat :=
  match w with
  | some w => if w.count = 1 then rowsFrom w 0 else rowsFrom w v
  | none => []

/-- The rows of the other half that the steps of an oacc from one on read of a grid-sourced B (R183). -/
def bRows (f : OaccF) (steps : List Nat) : List Nat :=
  if f.bSrc.toNat = 1 then ((steps.map fun k => (1 - f.half.toNat) * 128 + (f.bIdx.toNat + k) % 128)).eraseDups else []

/-- The rows of the other half that every step of an oacc reads of a grid-sourced A (R21, R183). -/
def aRows (f : OaccF) : List Nat := if f.aSrc.toNat = 1 then (List.range 128).map ((1 - f.half.toNat) * 128 + ·) else []

/-- The steps of an oacc from one on. -/
def stepsFrom (f : OaccF) (k : Nat) : List Nat := (List.range (f.steps.toNat + 1)).filter fun i => decide (k ≤ i)

def rectRows (half r n : Nat) : List Nat := (List.range n).map fun i => half * 128 + (r + i) % 128

/-- What an entry still claims as writer (R21), by its progress. -/
def Entry.writes (e : Entry) : List Nat :=
  match e.op with
  | .win op a =>
    (match op with
      | .cmp _ => [maskClaim a.kd]
      | .colRed _ => optRows a.wd 0
      | _ => optRows a.wd e.prog)
  | .kop op d _ _ _ _ => if op.toReg then [] else [maskClaim d]
  | .ofill w _ _ => rowsFrom w e.prog
  | .copy tr f => let b := copyBox f; rectRows b.dh b.dr (if tr then b.m else b.n)
  | .gimage rest half first n _ => if rest then rectRows half (first + e.prog) (n - e.prog) else []
  | .gls k _ w _ _ _ _ => if k.isLoad then rowsFrom w (e.prog / 128) else []
  | .oacc f => let r := oaccRect f; rectRows f.half.toNat r.1 r.2.1
  | .xferb kd _ _ _ => [maskClaim kd]
  | .awin _ a _ _ | .ascat a _ _ _ | .amerge a | .arel a => [awinClaim a]
  | _ => []

/-- What an entry still claims as reader (R21). -/
def Entry.reads (e : Entry) : List Nat :=
  match e.op with
  | .win _ a => srcRows a.w1 e.prog ++ (if a.op2 == .window then srcRows a.w2 e.prog else []) ++ kmClaim a.km
  | .kop op _ a b _ _ =>
    (match op with
      | .and | .or | .xor | .andn => [maskClaim a, maskClaim b]
      | .not | .mov | .pop | .first | .getl | .geth => [maskClaim a]
      | .bound | .set | .zero | .one => [])
  | .ofill _ km _ => kmClaim km
  | .copy _ f => let b := copyBox f; rectRows b.sh b.sr b.n
  | .gimage rest half first n _ => if rest then [] else rectRows half (first + e.prog) (n - e.prog)
  | .gls k _ w km _ _ wi =>
    (if k.isLoad then [] else rowsFrom w (e.prog / 128)) ++ srcRows wi (e.prog / 128) ++ kmClaim km
  | .oacc f => if e.prog ≤ f.steps.toNat then aRows f ++ bRows f (stepsFrom f e.prog) else []
  | .ascat _ wi wv km => rowsFrom wi e.prog ++ srcRows (some wv) e.prog ++ kmClaim km
  | .xferb _ w _ km => w.rows ++ kmClaim km
  | _ => []

/-- The vector that one unit of the entry's work takes: its progress counts vectors, elements of a GLS entry or groups of an xferb. -/
def Entry.unitVec (e : Entry) : Nat :=
  match e.op with
  | .gls _ _ _ _ _ _ _ => e.prog / 128
  | .xferb _ _ _ _ => e.prog / 16
  | _ => e.prog

/-- The rows that one unit of the entry's work touches: of a row-mode window those of its next vector. -/
def Entry.unit (e : Entry) (l : List Nat) (w : Option Window) : List Nat :=
  match w with
  | some w =>
    (match w.mode with
      | .row => l.filter fun k => decide (256 ≤ k) || k == w.half * 128 + w.base (w.vecIdx e.unitVec)
      | .col | .diag => l)
  | none => l

/-- What the unit writes: a column reduction writes its row after its last vector (R167). -/
def Entry.unitWrites (e : Entry) : List Nat :=
  match e.op with
  | .win (.colRed n) a => if e.prog + 1 < winCount (.colRed n) a then [] else e.writes
  | .win _ a => e.unit e.writes a.wd
  | .ofill w _ _ | .gls _ _ w _ _ _ _ => e.unit e.writes (some w)
  | .gimage _ _ _ _ _ => e.writes.take 1
  | _ => e.writes

/-- What the unit reads: a step of an oacc reads one row of a grid-sourced B (R22). The probe pass of a GLS entry reads its whole index window,
and the header of a gsave tells of all its rows, absent or not. -/
def Entry.unitReads (e : Entry) : List Nat :=
  match e.op with
  | .win _ a =>
    e.unit (srcRows a.w1 e.prog) a.w1 ++ (if a.op2 == .window then e.unit (srcRows a.w2 e.prog) a.w2 else []) ++ kmClaim a.km
  | .oacc f => if e.prog ≤ f.steps.toNat then aRows f ++ bRows f [e.prog] else []
  | .gls k _ w km _ _ wi =>
    (if k.isLoad then [] else e.unit (rowsFrom w e.unitVec) (some w))
      ++ (if e.probed then e.unit (srcRows wi e.unitVec) wi else srcRows wi e.unitVec) ++ kmClaim km
  | .gimage _ _ _ _ _ => if e.prog = 0 then e.reads else e.reads.take 1
  | .ascat _ wi wv km => e.unit (rowsFrom wi e.prog) (some wi) ++ e.unit (srcRows (some wv) e.prog) (some wv) ++ kmClaim km
  | .xferb _ w _ km => e.unit w.rows (some w) ++ kmClaim km
  | _ => e.reads

/-- The rows, numbered half × 128 + row, whose cells the unit reads or writes: an absent one is fetched first (R125). -/
def Entry.demands (e : Entry) : List Nat :=
  (e.unitWrites ++ (match e.op with | .gimage _ _ _ _ _ => e.reads.take 1 | _ => e.unitReads)).filter fun k => decide (k < 256)

/-- Do an entry's claims leave the unit free to start (R22). -/
def claimsFree (earlier : List Entry) (w r : List Nat) : Bool :=
  earlier.all fun x => x.fin ||
    (x.writes.all fun k => !w.contains k && !r.contains k) && (x.reads.all fun k => !w.contains k)

/-! ### Order of grid-side accesses (R238) -/

/-- Entries that read memory in their own program order: grid-side reads, and the tensor maps and descriptors read at the port. -/
def GOp.readsMem : GOp → Bool
  | .gls k _ _ _ _ _ _ => k.isLoad
  | .gimage rest _ _ _ _ => rest
  | .amerge _ | .stream _ _ _ _ _ _ | .xfer _ _ _ _ | .xferb _ _ _ _ | .send _ _ _ _ | .recv _ _ _ => true
  | _ => false

/-- Can an earlier and a later entry touch one byte, of which one stores it (R238). -/
def conflicts (x e : GOp) : Bool := (x.writesMem && (e.writesMem || e.readsMem)) || (x.readsMem && e.writesMem)

/-- The rows, masks and windows whose contents say which bytes an entry accesses. -/
def Entry.addrClaims (e : Entry) : List Nat :=
  match e.op with
  | .gls _ _ _ km _ _ wi => srcRows wi (e.prog / 128) ++ kmClaim km
  | .xferb _ w _ km => w.rows ++ kmClaim km
  | .amerge a => [awinClaim a]
  | _ => []

/-- Does an entry's choice of bytes still depend on an earlier one. -/
def unsettled (earlier : List Entry) (x : Entry) : Bool :=
  !claimsFree (earlier.filter fun y => decide (y.ord < x.ord)) [] x.addrClaims

/-- Some bytes by virtual address, and whether that is all of them: what cannot be read yet leaves them open. -/
structure Bytes where
  at_  : List Nat
  open_ : Bool := false

def Bytes.join (a b : Bytes) : Bytes := ⟨a.at_ ++ b.at_, a.open_ || b.open_⟩

def Bytes.all (l : List Bytes) : Bytes := l.foldl Bytes.join ⟨[], false⟩

namespace State

/-- The bytes that the elements of an accumulation window have, as virtual addresses. -/
def mergeBytes (s : State) (e : Entry) (a : Nat) : List Nat :=
  match s.awinOf a with
  | some w => (w.touched.filter fun k => decide (e.prog ≤ k)).flatMap fun k => span ((w.base.toNat + 4 * k) % 2 ^ 64) 4
  | none => []

/-- The bytes of the elements that a GLS entry has still to access. -/
def itemBytes (s : State) (e : Entry) (z : Nat) (w : Window) (km : KField) (base str : Word) (wi : Option Window) : List Nat :=
  (glsItems s.core.grid z w (s.core.masks.governing km) base str wi e.prog).flatMap fun p => span p.2 z

/-- The bytes that an entry has still to store to, as virtual addresses. -/
def storeBytes (s : State) (e : Entry) : List Nat :=
  match e.op with
  | .gls k z w km base str wi => if k.isLoad then [] else s.itemBytes e z w km base str wi
  | .gimage rest _ _ n addr => if rest then [] else span addr.toNat (64 + 512 * n)
  | .amerge a => s.mergeBytes e a
  | _ => []

/-- What the scout of a qldz has still to read of the blocks from the header at `hdr` on, whose image begins at offset `pos` of D: headers and
coded bytes until the offsets below `limit` are covered (R179, R269, R272). -/
def blocksAhead (s : State) (w : Who) (limit pos : Nat) (hdr : Word) : Nat → Bytes
  | 0 => ⟨[], false⟩
  | fuel + 1 =>
    if limit ≤ pos then ⟨[], false⟩
    else
      Bytes.join ⟨span hdr.toNat 32, false⟩
        (match (s.readRun w hdr 32).2 with
        | .error none => ⟨[], true⟩
        | .error (some _) => ⟨[], false⟩
        | .ok hb =>
          let h := parseHdr hb
          if !h.magicOk then ⟨[], false⟩
          else
            Bytes.join ⟨span (hdr.toNat + 32) h.clen, false⟩
              (if h.last then ⟨[], false⟩ else s.blocksAhead w limit (pos + h.dlen) (hdr + BitVec.ofNat 64 h.span) fuel))

/-- What step `k` of a qldx has still to read: nothing where the index of the step, or of one before it, has faulted; its k-lines; or its index,
which leaves them open. -/
def qldxBytes (st : Stream) (k : Nat) : Bytes :=
  match st.lines[k]? with
  | some (none, l) => ⟨stepAddrs st k l, false⟩
  | some (some _, _) => ⟨[], false⟩
  | none => if st.indexed then ⟨[], false⟩ else ⟨(idxAddrs st k).flatMap fun a => span a 4, true⟩

/-- The bytes that the remaining steps of a stream read (R174, R238), as the agent `w` sees them: a step that STRIDE 0 repeats is read once. -/
def streamBytes (s : State) (w : Who) (st : Stream) : Bytes :=
  let steps := (List.range st.spec.steps).filter fun k => decide (st.next ≤ k)
  if st.once.isSome then ⟨[], false⟩
  else
    match st.kind with
    | .qldz =>
      Bytes.join
        (Bytes.all (st.dzDir.map fun b =>
          if 32 + (dirHdr b).clen ≤ b.2.2.length then ⟨[], false⟩ else ⟨span (b.2.1.toNat + 32) (dirHdr b).clen, false⟩))
        (match st.dzLast with
          | some _ => ⟨[], false⟩
          | none => s.blocksAhead w st.dzLimit st.dzPos st.dzNext (st.dzLimit + 1))
    | .qldx => Bytes.all (steps.map (qldxBytes st))
    | .qld | .qldt | .qldff => Bytes.all (steps.map fun k => ⟨stepAddrs st k [], false⟩)

/-- The stream that a stream entry makes outstanding. -/
def streamOf (e : Entry) (k : SKind) (q : Nat) (addr : Word) (spec : SSpec) (idx : Word) : Stream :=
  { kind := k, ord := e.ord, seq := e.ord, q := q, addr := addr, spec := spec, idx := idx, pc := e.pc, word := e.word, pl := e.pl, dzNext := addr }

/-- The tensor maps of the groups that an xferb has still to examine (R267). -/
def groupMaps (s : State) (e : Entry) (w : Window) (km : KField) : List Nat :=
  ((List.range (16 * w.count)).filter fun n =>
    decide (e.prog ≤ n) && active (s.core.masks.governing km) (8 * (n % 16))).flatMap fun n =>
      let g := groupWords s.core.grid w n
      span g.1.toNat 64 ++ span g.2.1.toNat 64

/-- The bytes that an entry, or the stream that it is, has still to read. -/
def readsBytes (s : State) (e : Entry) : Bytes :=
  match e.op with
  | .gls k z w km base str wi => ⟨if k.isLoad then s.itemBytes e z w km base str wi else [], false⟩
  | .gimage rest _ _ n addr => ⟨if rest then span addr.toNat (64 + 512 * n) else [], false⟩
  | .amerge a => ⟨s.mergeBytes e a, false⟩
  | .xfer _ d r _ => ⟨span d.toNat 64 ++ span r.toNat 64, false⟩
  | .xferb _ w _ km => ⟨s.groupMaps e w km, false⟩
  | .send _ a _ _ | .recv _ a _ => ⟨span a.toNat 64, false⟩
  | .stream k q addr spec idx _ =>
    let st := streamOf e k q addr spec idx
    let index := if k == .qldx then (List.range spec.steps).flatMap fun n => (idxAddrs st n).flatMap fun a => span a 4 else []
    Bytes.join ⟨index, false⟩ (s.streamBytes (s.streamWho st) (s.readIndex st spec.steps).2)
  | _ => ⟨[], false⟩

/-- The physical address that a virtual one of an agent has now, none with the answer why. -/
def placeOf (s : State) (w : Who) (a : Nat) : TRes :=
  match (s.translate w .load (BitVec.ofNat 64 a)).2 with
  | .ok pa => .ok pa
  | .wait => .wait
  | .fault _ => (s.translate w .store (BitVec.ofNat 64 a)).2

/-- Virtual addresses as the bytes that they name: physical ones, and beyond them those of a page that has no translation now; with what
translation gave for the pages. -/
def physical (s : State) (w : Who) (l : List Nat) : List Nat × List TRes :=
  let pages := (pageHeads l).map fun p => (p.1, match s.placeOf w p.2 with
    | .ok pa => TRes.ok (pa - p.2 % 2 ^ 17)
    | r => r)
  (l.map fun a => match (pages.find? fun p => p.1 == a / 2 ^ 17).map (·.2) with
      | some (TRes.ok b) => b + a % 2 ^ 17
      | some (.fault _) | some .wait | none => 2 ^ 64 + a,
   pages.map (·.2))

/-- Have two lists an address in common. -/
def meet (a b : List Nat) : Bool :=
  let lo := a.foldl min (a.headD 0)
  let hi := a.foldl max 0
  let near := b.filter fun x => decide (lo ≤ x) && decide (x ≤ hi)
  !near.isEmpty && a.any fun x => near.contains x

/-- What an entry still reads and stores, by physical address, and whether that is not all known. -/
def reach (s : State) (e : Entry) : List Nat × List Nat × Bool :=
  let w := s.entryWho e 2
  let r := s.readsBytes e
  let p := s.physical w r.at_
  let q := s.physical w (s.storeBytes e)
  let open_ (l : List TRes) : Bool := l.any fun t => match t with | .ok _ => false | .fault _ | .wait => true
  (p.1, q.1, r.open_ || open_ p.2 || open_ q.2)

/-- Do an earlier incomplete entry's accesses come before a later entry's (R238, R174): where their bytes overlap and one of them
stores. An earlier entry that has not stopped, and whose bytes are not all known yet, comes first, and so does any before a later one whose
bytes are not all known yet (assumption log 21). -/
def comesFirst (s : State) (earlier : List Entry) (x e : Entry) : Bool :=
  conflicts x.op e.op &&
    let a := s.reach x
    let b := s.reach e
    b.2.2 || (!x.faulted && (unsettled earlier x || a.2.2)) || meet a.2.1 (b.1 ++ b.2.1) || meet a.1 b.2.1

/-- Does an earlier outstanding stream still have to read bytes that the entry stores to, or bytes that cannot be told before a walk has
answered (R238). A parked stream asks for nothing: it forms its step anew after the handler, whose stores do not wait for it
(R189; assumption log 21). -/
def streamAhead (s : State) (e : Entry) : Bool :=
  e.op.writesMem && s.core.streams.any fun st =>
    decide (st.ord < e.ord) && !(st.parked && decide (st.pl < e.pl)) &&
      let r := s.streamBytes (s.aheadWho st) st
      let p := s.physical (s.aheadWho st) r.at_
      (!st.parked && (r.open_ || p.2.contains .wait)) || meet (s.reach e).2.1 p.1

/-- Does the next step of a qldx read bytes that an earlier entry has still to store to, or may (R174, R238): one in flight, in the GIQ, or in a block
that is held. Its index, read again after a fault, may name bytes that it did not name when the stream left the GIQ. -/
def storeAhead (s : State) (st : Stream) : Bool :=
  let c := s.core
  st.kind == .qldx && ((c.flight.filter fun e => !e.fin) ++ c.giq ++ c.blk ++ c.fw.block).any fun e =>
    decide (e.ord < st.ord) && e.op.writesMem &&
      let r := s.reach e
      r.2.2 || meet r.2.1 (s.physical (s.aheadWho st) (qldxBytes st st.next).at_).1

/-- STREAM_STEP (R174): the serviced stream of queue `q` forms and places one entry when a slot is free and no marker and no earlier store holds
its reads (R238, R242), or a fault entry. A residue check that fails twice is cause 0x0D with TVAL 0. -/
def streamStep (s0 : State) (q : Nat) (chk : Check) : State :=
  let s := s0.readIndices
  match s.core.streams.find? fun x => x.q == q with
  | none => s
  | some st =>
    let slots := entrySlots st.spec.fmt q st.spec.dbl
    if st.parked || 32 < queueUsed s.core q + slots || s.core.markerHolds st || s.storeAhead st then s
    else
      match chk with
      | .fail _ _ _ => s.parkStream st { code := 0x0D, tval := 0 }
      | .pass | .replay =>
        match s.formStep st st.next with
        | (s1, st1, .error none) => s1.putStream st1
        | (s1, st1, .error (some f)) => s1.parkStream st1 f
        | (s1, st1, .ok vals) =>
          (s1.pushEntry q ⟨st.ord, st.spec.fmt, st.spec.r, slots, st.next, none, vals⟩).putStream { st1 with next := st.next + 1 }

/-- Bring the streams of one queue forward as far as its slots allow. -/
def fillQueue (s : State) (q : Nat) : Nat → State
  | 0 => s
  | fuel + 1 =>
    match s.core.streams.find? fun x => x.q == q with
    | none => s
    | some _ => (s.streamStep q .pass).fillQueue q fuel

/-- May the next unit of an entry in its pipe start: no entry ahead of it in the pipe is still at work (R20), its claims are free (R22)
and its accesses are in order (R238). -/
def canStart (s : State) (earlier : List Entry) (e : Entry) : Bool :=
  let before := earlier.filter fun x => !x.fin
  before.all (fun x => x.faulted || x.op.pipe != e.op.pipe)
    && claimsFree earlier e.unitWrites e.unitReads
    && before.all (fun x => !s.comesFirst before x e) && !s.streamAhead e

/-- May the entry at the head of the GIQ leave (R19, R20, R26, R241): no wait is unsatisfied, no marker and no grid reset holds it
back, and the masks it names are free. -/
def mayDepart (flight : List Entry) (e : Entry) : Bool :=
  flight.all (fun x => x.fin || !(match x.op with | .cwait _ _ | .iwait _ _ | .barWait _ _ => true | _ => false))
    && !(e.op.touchesMem && flight.any fun x => !x.fin && x.op.holdsGrid)
    && !(e.op == .gridReset && flight.any fun x => !x.fin)
    && !(flight.any fun x => !x.fin && x.op == .gridReset)
    && claimsFree flight (e.writes.filter fun k => decide (256 ≤ k)) (e.reads.filter fun k => decide (256 ≤ k))
    && (e.op.pipe != 2 || flight.all fun x => x.fin || x.faulted || x.op.pipe != 2)

/-! ### One unit of work -/

/-- The mask that a vcmp writes after its last vector (R151). -/
def cmpMask (old gov acc : Mask) : Mask := (old &&& ~~~gov) ||| (acc &&& gov)

/-- A machine check of a pipe (R168, R191, R327). -/
def pipeCheck (kind lane row : Nat) (step : Option Word) : GFault :=
  { code := 0x0D, tval := 0, step := step, mc := some (kind, some lane, some row) }

/-- The grid row of the cell that an element position of a vector writes, or reads where the instruction has no destination window
or writes it only at its end (R117, R168). -/
def failRow (op : WOp) (a : WinArgs) (v j : Nat) : Nat :=
  let w := match op with
    | .cmp _ | .colRed _ | .ext => a.w1
    | _ => a.wd
  match w with
  | some w => w.half * 128 + w.rowOf (w.vecIdx v) j
  | none => 0

/-- One vector of a window instruction (R138 to R168). -/
def runVecAt (s : State) (e : Entry) (chk : Check) (op : WOp) (a : WinArgs) : State × RunRes :=
  let c := s.core
  let m := c.masks.governing a.km
  match chk with
  | .fail alt lane _ =>
    (s, .fault e (pipeCheck (if alt then 0x06 else if a.ty.isFloat then 0x05 else 0x04) (lane % 128) (failRow op a e.prog (lane % 128))
      none))
  | .pass | .replay =>
    match op with
    | .ext => (s.updCore fun c => c.setReg a.xd (extValue a m c.grid), .done e)
    | _ =>
      let r := vecStep op a e.st m c.grid e.vp e.fl e.prog
      let e1 : Entry := { e with prog := e.prog + 1, vp := r.prog, fl := r.flags }
      let s1 := s.updCore fun c => { c with grid := r.grid }
      if e1.prog < winCount op a then (s1, .more e1)
      else
        match op with
        | .cmp _ =>
          (s1.updCore fun c => { c with masks := c.masks.write a.kd (cmpMask (c.masks.read a.kd) m r.prog.acc) }, .done e1)
        | .colRed k =>
          let z := colFinish k a e.st m r.grid r.prog r.flags
          (s1.updCore fun c => { c with grid := z.1 }, .done { e1 with fl := z.2 })
        | _ => (s1, .done e1)

/-- A window instruction: one vector of it, or none where ROWPROG.NEXT, as the runtime left it, stands at or beyond its count and
nothing is left to do (R376). -/
def runVec (s : State) (e : Entry) (chk : Check) (op : WOp) (a : WinArgs) : State × RunRes :=
  if op != .ext && decide (winCount op a ≤ e.prog) then (s, .done e) else s.runVecAt e chk op a

/-- A mask instruction (R135). -/
def runKop (s : State) (e : Entry) (op : KOp) (d a b : Nat) (x y : Word) : State × RunRes :=
  let k := s.core.masks
  (s.updCore fun c =>
    if op.toReg then c.setReg d (kopWord op (k.read a))
    else { c with masks := c.masks.write d (kopMask op (k.read a) (k.read b) x y) }, .done e)

/-- STEPPROG (R188). -/
def stepWord (v : Bool) (sstep q done : Nat) : Word :=
  BitVec.ofNat 64 (natOfBool v * 2 ^ 63 + sstep % 65536 * 2 ^ 32 + q * 2 ^ 16 + done)

/-- The stream behind a queue's fault entry: what a machine check names (R180, R328). -/
def parkedStream (s : State) (q : Nat) : Option (BitVec 32 × Word) :=
  (s.core.streams.find? fun x => x.q == q && x.parked).map fun x => (x.word, x.pc)

/-- The head entry of a queue for a step of the oacc at place `ord` (R187, R190): the entry, a fault, or none while one may still come.
What a later stream placed is nothing to it. -/
def headEntry (s : State) (ord q step rank : Nat) (f : OFmt) : Except (Option GFault) QEntry :=
  match (s.core.queues.getD q []).head?.filter fun x => decide (x.ord < ord) with
  | some x =>
    (match x.fault with
      | some (code, tval) =>
        .error (some { code := code, tval := tval, step := some (stepWord true x.sstep q step)
                       rest := if code = 0x0C then some step else none
                       mc := if code = 0x0D then some (0x09, none, none) else none
                       src := if code = 0x0D then s.parkedStream q else none })
      | none =>
        if x.fmt == f && x.rank == rank then .ok x
        else .error (some { code := 0x08, tval := BitVec.ofNat 64 (2 ^ 63 + q), step := some (stepWord true x.sstep q step) }))
  | none =>
    if streamOut s.core q ord then .error none
    else .error (some { code := 0x0E, tval := BitVec.ofNat 64 q, step := some (stepWord true 0 q step) })

/-- Let the stream of an empty queue place an entry, where streams move with their consumers (assumption log 2). -/
def feed (s : State) (q : Nat) : State :=
  if s.lagGrid || !(s.core.queues.getD q []).isEmpty then s else s.streamStep q .pass

def popEntry (s : State) (q : Nat) : State :=
  s.updCore fun c => { c with queues := c.queues.setIfInBounds q ((c.queues.getD q []).drop 1) }

/-- The two operands of a step by row and column, and the entry whose B is kept for the second step of an spbf16 pair. -/
structure StepOps where
  a    : Nat → List (Option OVal)
  b    : Nat → List (Option OVal)
  hold : List QEntry

/-- One step of an oacc (R183 to R191). -/
def runOacc (s0 : State) (e : Entry) (chk : Check) (f : OaccF) : State × RunRes :=
  let step := e.prog
  if f.steps.toNat < step then (s0, .done e)
  else
    let (fa, fb) := oaccFmts f
    let ga := f.aSrc.toNat == 1
    let gb := f.bSrc.toNat == 1
    let qa := f.aIdx.toNat % 4
    let qb := 4 + f.bIdx.toNat % 4
    let rank := if ga then fb.rank else fa.rank
    let other := 1 - f.half.toNat
    let s := let t := if ga then s0 else s0.feed qa; if gb then t else t.feed qb
    match (if ga then .ok none else (s.headEntry e.ord qa step rank fa).map some) with
    | .error none => (s, .wait e)
    | .error (some x) => (s, .fault { e with stop := .queue } x)
    | .ok ea =>
      match (if gb then .ok none else (s.headEntry e.ord qb step rank fb).map some) with
      | .error none => (s, .wait e)
      | .error (some x) => (s, .fault { e with stop := .queue } x)
      | .ok eb =>
        match chk with
        | .fail _ lane row =>
          let r := oaccRect f
          (s, .fault e (pipeCheck 0x07 (r.2.2.1 + lane % r.2.2.2) (f.half.toNat * 128 + r.1 + row % r.2.1)
            (some (stepWord false 0 0 step))))
        | .pass | .replay =>
          let g := s.core.grid
          let av (row : Nat) : List (Option OVal) := match ea with
            | some x => x.vals.getD row []
            | none => [gridOperand fa (g.cell other row ((f.aIdx.toNat + step) % 128))]
          let bv (col : Nat) : List (Option OVal) := match eb with
            | some x => x.vals.getD col []
            | none => [gridOperand fb (g.cell other ((f.bIdx.toNat + step) % 128) col)]
          let pair := fa == .spbf16
          let first := pair && step % 2 == 0
          let av' (row : Nat) : List (Option OVal) := if first then [] else av row
          let half (col : Nat) : List (Option OVal) := match e.hold.head? with | some x => x.vals.getD col [] | none => []
          let bv' (col : Nat) : List (Option OVal) :=
            if pair then half col ++ List.replicate (rank - (half col).length) none ++ bv col else bv col
          let isInt := fa.isInt
          let r := stepGrid f isInt (f.clear.toNat == 1 && step == 0) av' bv' g {}
          let s1 := s.updCore fun c => { c with grid := r.1 }
          let s2 := if ga then s1 else s1.popEntry qa
          let s3 := (if gb then s2 else s2.popEntry qb).meter s.part 1 1
          let e1 : Entry := { e with prog := step + 1, fl := e.fl.then_ r.2
                                     hold := if first then eb.toList else [] }
          (s3, if step < f.steps.toNat then .more e1 else .done e1)

/-- One vector of an ofill (R126), or none where nothing is left of it (R376). -/
def runOfill (s : State) (e : Entry) (w : Window) (km : KField) (v : Cell) : State × RunRes :=
  let e1 : Entry := { e with prog := e.prog + 1 }
  if w.count ≤ e.prog then (s, .done e)
  else (s.updCore fun c => { c with grid := fillVec w (c.masks.governing km) v c.grid e.prog },
   if e1.prog < w.count then .more e1 else .done e1)

/-- What one unit of an entry's work does, its absent rows being fetched. -/
def runUnit (s : State) (earlier : List Entry) (grant : Bool) (chk : Check) (e : Entry) : State × RunRes :=
  match e.op with
  | .win op a => s.runVec e chk op a
  | .kop op d a b x y => s.runKop e op d a b x y
  | .wset _ _ => (s, .done e)
  | .wrd xd v => (s.updCore fun c => c.setReg xd v, .done e)
  | .ofill w km v => s.runOfill e w km v
  | .copy tr f => (s.updCore fun c => { c with grid := copyGrid tr f c.grid }, .done e)
  | .gimage rest half first n addr => s.runImage e rest half first n addr
  | .gls k z w km base str wi => s.runGls e k z w km base str wi
  | .stream k q addr spec idx xd => s.runStream e grant k q addr spec idx xd
  | .oacc f => s.runOacc e chk f
  | .cinc c v => s.runCinc e c v
  | .cwait c v => s.runCwait e c v
  | .cset c v => s.runCset e c v
  | .crd c xd => s.runCrd e c xd
  | .ipost ch n => s.runIpost e earlier ch n
  | .iwait ch n => s.runIwait e ch n
  | .barInit a n => s.runBarInit e a n
  | .barArrive rlx a xd => s.runBarArrive e earlier rlx a xd
  | .barWait a ph => s.runBarWait e a ph
  | .awin op a base bytes => (s.setAwin a (some (AWin.fresh op base bytes)), .done e)
  | .ascat a wi wv km => s.runAscat e a wi wv km
  | .amerge a => s.runAmerge e a
  | .arel a => (s.setAwin a none, .done e)
  | .slook key xd => s.runSlook e key xd
  | .sins key slot xd => s.runSins e earlier key slot xd
  | .sinv key => s.runSinv e earlier key
  | .xfer c d r x => s.runXferPort e grant c d r x
  | .xferb kd w c km => s.runXferb e grant kd w c km
  | .xdz c d r p => s.runXdzPort e grant c d r p
  | .dztab c n a => s.runDztabPort e grant c n a
  | .send c a q ef => s.runSendPort e grant c a q ef
  | .recv c a add => s.runRecvPort e grant c a add
  | .fence k _ => s.runFence e earlier k
  | .seal p => s.runSeal e earlier p
  | .irrev p => s.runIrrev e earlier p
  | .halt => s.runHalt e earlier
  | .gridReset => s.runGridReset e

/-- Is the entry a gsave. -/
def isSave : GOp → Bool
  | .gimage rest _ _ _ _ => !rest
  | _ => false

/-- One unit of an entry's work. `grant` says whether an engine may be granted now; `chk` is the outcome of the residue
check of a vector or step. Absent rows that the unit touches are fetched first (R125), by a gsave behind its header (R131), and poison among them
stops the entry (R331). -/
def stepEntry (s : State) (earlier : List Entry) (grant : Bool) (chk : Check) (e0 : Entry) : State × RunRes :=
  let e : Entry := { e0 with stop := if e0.stop == .wait then .none else e0.stop }
  match s.fetchRows (if isSave e.op then [] else e.demands) with
  | (s1, some f) => (s1, .fault e { f with step := if e.op.isOacc then some (stepWord false 0 0 e.prog) else none })
  | (s1, none) => s1.runUnit earlier grant chk e

/-- Units of one entry until it completes, waits, faults or must wait for claims. -/
def runEntry (s : State) (earlier : List Entry) (grant : Bool) (e : Entry) : Nat → State × RunRes
  | 0 => (s, .wait e)
  | fuel + 1 =>
    if s.canStart earlier e then
      match s.stepEntry earlier grant .pass e with
      | (s1, .more e1) => s1.runEntry earlier grant e1 fuel
      | r => r
    else (s, .wait e)

/-- Units that one entry can have: 256 steps, 128 vectors or 128 commands. -/
def unitFuel : Nat := 260

end State

/-- Put an entry back at its place in flight. -/
def Core.setFlight (c : Core) (i : Nat) (e : Entry) : Core := { c with flight := c.flight.set i e }

/-- A completed entry retires: its flags merge, and a machine check at its address is forgotten
(R84, R329). -/
def Core.retireEntry (c : Core) (e : Entry) : Core :=
  { c.mergeFlags e.op.isOacc e.fl with lastMc := c.lastMc.filter (· != e.pc) }

/-- Completed entries at the head of flight retire, their flags merging in program order (R84). -/
def Core.popFin (c : Core) : Nat → Core
  | 0 => c
  | fuel + 1 =>
    match c.flight with
    | e :: r => if e.fin then Core.popFin { c.retireEntry e with flight := r } fuel else c
    | [] => c

def Core.retireFin (c : Core) : Core := c.popFin c.flight.length

/-- Let the head of the GIQ leave. -/
def Core.depart (c : Core) : Core :=
  match c.giq with
  | e :: r => { c with giq := r, flight := c.flight ++ [e] }
  | [] => c

/-- What stopped an entry, as the block records it (R376). -/
def stopOf (e : Entry) (f : GFault) : Stop :=
  match e.stop with
  | .poison => .poison
  | .queue => .queue
  | _ => if f.mc.isSome then .check else match e.op with
    | .cwait _ _ | .halt => .engine
    | .gls _ _ _ _ _ _ _ | .amerge _ => .probe
    | _ => .other

/-- The entry stopped by a fault, with its progress. -/
def Entry.stopAt (e : Entry) (f : GFault) : Entry := { e with stop := stopOf e f, why := some f }

/-- The entries that have neither completed nor left: a round that changes neither count makes no progress. -/
def Core.left (c : Core) : Nat × Nat := (c.giq.length, (c.flight.filter fun e => !e.fin).length)

namespace State

/-- Put back what running the entry at place `i` gave. -/
def noteRun (s : State) (i : Nat) : RunRes → State
  | .done e => s.updCore fun c => c.setFlight i { e with fin := true }
  | .more e | .wait e => s.updCore fun c => c.setFlight i e
  | .fault e f => s.updCore fun c => c.setFlight i (e.stopAt f)

/-- The pages that the streams have still to read, but for parked ones, are asked for in host-assisted mode, since a later store must know them
(R222, R238). An answer to that is none to the read itself (R223). -/
def askAhead (s : State) : State :=
  if !(s.getPart s.part).ha then s
  else s.core.streams.foldl (fun s st =>
    if st.parked then s
    else (pageHeads (s.streamBytes (s.aheadWho st) st).at_).foldl (fun s p =>
      match s.translate (s.aheadWho st) .load (BitVec.ofNat 64 p.2) with
      | (s1, .wait) => s1
      | (_, .ok _) | (_, .fault _) => s) s) s

/-- Bring every stream forward as far as its queue's slots allow. -/
def fillAll (s : State) : State :=
  if s.core.streams.isEmpty then s else ((List.range 8).foldl (fun s q => s.fillQueue q 33) s).askAhead

/-- May the entry at place `i` of flight go on now. -/
def goesOn (s : State) (i : Nat) (e : Entry) : Bool := !e.fin && !e.faulted && s.canStart (s.core.flight.take i) e

/-- The entries in flight go on in program order from place `i` on. A fault ends the pass; in a drain it only stops its entry, and R229 does not
say whether its fault record is written then: DESIGN CHOICE, it is written when the entry, executed again, raises the fault
(assumption log 70). -/
def runFlight (s : State) (drain : Bool) (i : Nat) : Nat → State × Option (Entry × GFault)
  | 0 => (s, none)
  | fuel + 1 =>
    match s.core.flight[i]? with
    | none => (s, none)
    | some e =>
      if !s.goesOn i e then s.runFlight drain (i + 1) fuel
      else
        match s.runEntry (s.core.flight.take i) (!s.lagEng) e unitFuel with
        | (s1, .fault e1 f) =>
          if drain then (s1.noteRun i (.fault e1 f)).runFlight drain (i + 1) fuel else (s1.noteRun i (.fault e1 f), some (e1, f))
        | (s1, r) => (s1.noteRun i r).runFlight drain (i + 1) fuel

/-- The head of the GIQ leaves if it may; in a drain only while no wait is unsatisfied (R369). -/
def departHead (s : State) (drain : Bool) : State :=
  match s.core.giq with
  | e :: _ =>
    if mayDepart s.core.flight e && !(drain && s.core.flight.any fun x => !x.fin && s.unsatisfied x) then s.updCore Core.depart else s
  | [] => s

/-- Rounds of the core's grid side until nothing can go on: entries in flight, retirement, and a departure where `dep` allows it. -/
def pumpGiq (s : State) (dep drain : Bool) : Nat → State × Option (Entry × GFault)
  | 0 => (s, none)
  | fuel + 1 =>
    match s.fillAll.runFlight drain 0 s.core.flight.length with
    | (s1, some f) => (s1.updCore Core.retireFin, some f)
    | (s1, none) =>
      let s2 := s1.updCore Core.retireFin
      let s3 := if dep then s2.departHead drain else s2
      if s3.core.left == s.core.left then (s3, none) else s3.pumpGiq dep drain fuel

/-- Rounds that can make progress: a departure and a completion for each entry. -/
def pumpFuel (s : State) : Nat := 2 * (s.core.giq.length + s.core.flight.length) + 2

/-- The grid side and the engines, where they move at once (assumption log 2). -/
def pumpAll (s : State) : State × Option (Entry × GFault) :=
  let s1 := if s.lagEng then s else s.pumpCmds
  if s1.lagGrid then (s1, none)
  else
    match s1.pumpGiq true false s1.pumpFuel with
    | (s2, some f) => (s2, some f)
    | (s2, none) => (if s2.lagEng then s2 else s2.pumpCmds, none)

end State

/-! ### The drain and the traps of entries (R25, R109, R369, R375) -/

/-- Merge the flags of everything in flight, complete or stopped, in program order (R84, R167). -/
def Core.mergeAll (c : Core) : Core :=
  c.flight.foldl (fun c e => if e.fin then c.retireEntry e else c.mergeFlags e.op.isOacc e.fl) c

/-- An entry as a GIQ block holds it (R372): with its progress and what stopped it. Its flags are merged, and what it found or asked is
found and asked again; the one read of a load with element stride and pitch 0 is not made again (R201). -/
def Entry.saved (e : Entry) : Entry :=
  { e with fl := {}, maps := [], probed := false, since := 0, why := none
           pend := match e.op with | .gls _ _ _ _ _ _ _ => e.pend.filter fun p => !p.2.2.isEmpty | _ => []
           prog := match e.op with | .barWait _ _ => 0 | _ => e.prog }

/-- The GIQ block (R372): what has not completed, in program order. -/
def Core.block (c : Core) : List Entry := ((c.flight.filter fun e => !e.fin) ++ c.giq).map Entry.saved

/-- ROWPROG of the entry at EPC (R375). -/
def rowProg (e : Entry) : Word :=
  match e.op with
  | .win _ _ | .ofill _ _ _ | .ascat _ _ _ _ | .gimage _ _ _ _ _ => if e.prog = 0 then 0 else BitVec.ofNat 64 (2 ^ 63 + e.prog)
  | _ => 0

/-- Write the progress registers of an entry's trap: RESTIDX and STEPPROG (R188, R331). -/
def Core.progress (c : Core) (f : GFault) : Core :=
  { c with restidx := match f.rest with | some n => BitVec.ofNat 64 n | none => c.restidx
           stepprog := match f.step with | some w => w | none => c.stepprog }

namespace State

/-- The core's grid side goes on in a drain; departures are those of an asynchronous trap or a pre-emption (R25, R369). Streams and
engines move with it. -/
def drainRun (s : State) (dep : Bool) : State :=
  let s1 := if s.lagEng then s else s.pumpCmds
  { (({ s1 with lagGrid := false }).pumpGiq dep true s1.pumpFuel).1 with lagGrid := s.lagGrid }

/-- Can an entry come to queue `q` for an oacc at place `ord` while only what has left the GIQ goes on (R25, R187): the stream that is serviced
there can form a step, or one at the port can go on. -/
def entryComes (s : State) (q ord : Nat) : Bool :=
  (match s.core.streams.find? fun x => x.q == q with
    | some st => decide (st.ord < ord) && !st.parked && !s.core.markerHolds st && !s.storeAhead st
    | none => false)
  || (List.range s.core.flight.length).any fun i =>
    match s.core.flight[i]? with
    | some x => (match x.op with | .stream _ p _ _ _ _ => p == q | _ => false) && decide (x.ord < ord) && s.goesOn i x && !s.unsatisfied x
    | none => false

/-- Does an oacc wait for the entry of a queue to which none can come (R187; assumption log 22). -/
def starved (s : State) (e : Entry) : Bool :=
  match e.op with
  | .oacc f =>
    let dry (q : Nat) : Bool := ((s.core.queues.getD q []).head?.filter fun x => decide (x.ord < e.ord)).isNone && !s.entryComes q e.ord
    (f.aSrc.toNat != 1 && dry (f.aIdx.toNat % 4)) || (f.bSrc.toNat != 1 && dry (4 + f.bIdx.toNat % 4))
  | _ => false

/-- Is an entry still in a pipe (R369): one that has not completed, has not stopped, does not wait for what the drain cannot bring, and could
go on. -/
def drainBusy (s : State) : Bool :=
  (List.range s.core.flight.length).any fun i =>
    match s.core.flight[i]? with
    | some e => s.goesOn i e && !s.unsatisfied e && !s.starved e
    | none => false

/-- The drain for an entry's fault is over (R25, R109, R375): flags are merged, the remaining entries are held and the trap is taken. A block that
is held already, while a machine check of a runtime-level entry goes to firmware level, keeps its place. -/
def finishFault (s : State) (e : Entry) (f : GFault) : Out :=
  let block := s.core.block
  let s1 := (s.updCore fun c => { c.mergeAll.progress f with blkAt := if c.blk.isEmpty then s.nextCmd else c.blkAt }).clearLstall s.part
  let out := match f.mc with
    | some (kind, lane, row) =>
      let src := f.src.getD (e.word, e.pc)
      s1.machineCheck block kind lane row src.1 src.2 e.pc s1.core.pc
    | none => s1.trapWith block f.code f.tval e.pc s1.core.pc
  match out with
  | .next s2 => .next (s2.updCore fun c => { c with rowprog := rowProg e })
  | o => o

/-- The drain for an asynchronous cause is over (R109, R375): the oldest saved entry is the one at EPC, and what stopped it gives
RESTIDX and ROWPROG; STEPPROG is written by the traps of an oacc only (R188), which then goes on at its stored progress (assumption log 22).
No write of the core is stalled any more (R305). -/
def finishAsync (s : State) (code : Nat) : State :=
  let e := (s.core.flight.find? fun e => !e.fin).or s.core.giq.head?
  let block := match s.core.block with
    | x :: r => { x with epc := !x.op.isOacc } :: r
    | [] => []
  let epc := match e with | some e => e.pc | none => s.core.pc
  let f : GFault := { (e.bind (·.why)).getD { code := 0, tval := 0 } with step := none }
  (s.clearLstall s.part).updCore fun c =>
    { ((c.mergeAll).progress f).enterRuntime true code 0 epc c.pc with
      blk := block, blkAt := s.nextCmd, giq := [], flight := [], rowprog := match e with | some e => rowProg e | none => 0 }

/-- A drain under way goes on, and its trap is taken when no entry is in a pipe any more. Where the core's halt has retired meanwhile, or
a domain fault has stopped the core, it runs nothing and no trap is left to take (R12, R109, R113, R322). -/
def drainOn (s : State) : Out :=
  match s.core.drn with
  | none => .next s
  | some d =>
    let s1 := s.drainRun (match d with | .async _ => true | .fault _ _ => false)
    if !s1.core.run.active then .next (s1.updCore fun c => { c with drn := none })
    else if s1.drainBusy then .next s1
    else
      match d with
      | .async code => .next (s1.finishAsync code)
      | .fault ord f =>
        match s1.core.flight.find? fun e => e.ord == ord with
        | some e => s1.finishFault e f
        | none => .next (s1.updCore fun c => { c with drn := none })

/-- The fault of a GIQ entry is reported (R25, R375): a run-ahead task is withdrawn, the fault is recorded, the entry stops with its
progress as the one at EPC, and the entries that have left the GIQ go on to their ends before the trap. While another trap drains, the
entry only stops (R372). -/
def giqFault (s : State) (e : Entry) (f : GFault) : Out :=
  let stopped (epc : Bool) (c : Core) : Core :=
    { c with flight := c.flight.map fun x => if x.ord == e.ord then { e.stopAt f with epc := epc } else x }
  if s.core.drn.isSome then .next (s.updCore (stopped false))
  else
    let s1 := s.withdraw
    let s2 := match f.page with
      | some (ag, pf) => s1.recordFault s1.part ag f.tval pf
      | none => s1
    (s2.updCore fun c => { stopped true c with drn := some (.fault e.ord f) }).drainOn

/-- An asynchronous trap (R109): the GIQ drains up to its oldest unsatisfied wait, the rest is held. A run-ahead task that waits behind
the old task's halt is withdrawn as for a trap of an entry, and the old task takes the cause: the rules name only traps of entries and
pre-emption there (R26, R369; DESIGN CHOICE, assumption log 32). The cause is the one that was pending when the drain began; where that
ends in the drain (a seal ends 0x21, a grid reset turns the timer off), the rules do not say whether the trap is still taken: DESIGN CHOICE, it
is (R109; assumption log 72). -/
def takeAsync (s : State) (code : Nat) : Out := (s.withdraw.updCore fun c => { c with drn := some (.async code) }).drainOn

/-- Continue after a change that may let the grid side go on: its fault is trapped. -/
def andPump (s : State) : Out :=
  match s.pumpAll with
  | (s1, some (e, f)) => s1.giqFault e f
  | (s1, none) => .next s1

end State

/-! ### Re-issue of a held block (R376) -/

/-- Where the entry at EPC resumes, by what stopped it and the progress registers as they stand (R376, R189). -/
def Core.resumeAt (c : Core) (e : Entry) : Entry :=
  let next := if c.rowprog.getLsbD 63 then fieldNat c.rowprog 0 8 else 0
  match e.op with
  | .oacc _ => { e with prog := fieldNat c.stepprog 0 9 }
  | .win _ _ | .ofill _ _ _ | .ascat _ _ _ _ =>
    if c.rowprog.getLsbD 63 then { e with prog := next } else { e with prog := 0, vp := {} }
  | .gimage _ _ _ _ _ => { e with prog := next }
  | .gls k _ _ _ _ _ _ => { e with pend := [], prog := if e.stop == .poison && k.isLoad then fieldNat c.restidx 0 32 else 0 }
  | .amerge _ => { e with prog := if e.stop == .poison then fieldNat c.restidx 0 32 else 0 }
  | _ => { e with prog := 0 }

/-- An entry of a held block as it is issued again (R376): every entry but the one at EPC goes on at its stored progress. -/
def Core.resumed (c : Core) (e : Entry) : Entry := if e.epc then c.resumeAt e else e

/-- Is a halt marker among the entries: the core then fetches nothing more (R12). -/
def hasHalt (es : List Entry) : Bool := es.any fun e => e.op == .halt

/-- A place in program order moved behind everything issued since the block was taken: places from `lo` on and before `hi` move by
`d`. -/
def laterOrd (lo hi d n : Nat) : Nat := if lo ≤ n && decide (n < hi) then n + d else n

/-- Write a block that was taken at place `hi` into the drained GIQ (R376): its entries follow what the handler has issued, and they keep
their order with the streams of the same program and with what those have placed (R190). -/
def State.reissue (s : State) (hi : Nat) (block : List Entry) : State :=
  match block with
  | [] => s
  | e0 :: _ =>
    let f := laterOrd e0.ord hi (s.nextCmd - e0.ord)
    let again := block.map fun (e : Entry) => { e with ord := f e.ord, stop := .none, epc := false }
    let move (c : Core) : Core :=
      { c with streams := c.streams.map fun (x : Stream) => { x with ord := f x.ord },
               queues := c.queues.map fun (l : List QEntry) => l.map fun (x : QEntry) => { x with ord := f x.ord } }
    { s with nextCmd := s.nextCmd + (hi - e0.ord) }.updCore fun c =>
      { move c with giq := again, run := if hasHalt block then .halting else c.run }

/-! ### Dispatch (R14 to R18) -/

/-- The captured STATUS fields (R15). -/
def Core.vstat (c : Core) : VStat :=
  { vrm := fieldNat c.status 8 3, flush := c.status.getLsbD 16, ovfm := c.status.getLsbD 17 }

/-- Does a marker keep issue stalled: an irrev (R314), a fence.all, behind which every instruction is fetched again (R241), or a
seal, which holds back as it does, so that a later csrr reads the RIN that it leaves (R312, the worked program of R414;
assumption log 44). -/
def Core.issueHeld (c : Core) : Bool :=
  c.outstanding.any fun e => match e.op with
    | .fence k _ => k == 3
    | .irrev _ | .seal _ => true
    | _ => false

/-- Is the GIQ full (R14). Entries that have left and not completed count, so a block never exceeds 64 (assumption log 23). -/
def Core.giqFull (c : Core) : Bool := decide (64 ≤ c.outstanding.length)

namespace State

/-- Write an entry into the GIQ. -/
def push (s : State) (op : GOp) (i : Instr) : State :=
  let e : Entry :=
    { op := op, ord := s.nextCmd, pc := s.core.pc, word := BitVec.ofNat 32 (rawBits i).toNat, st := s.core.vstat, pl := s.pl }
  { s with nextCmd := s.nextCmd + 1 }.updCore fun c => { c with giq := c.giq ++ [e] }

/-- Dispatch an entry (R14): it is written, the instruction counts and moves on, and the grid side goes on. -/
def dispatch (s : State) (op : GOp) (i : Instr) (len : Nat) : Out := ((s.push op i).advance len).andPump

/-- A slot-B instruction (R14 to R16): it stalls while a register that it reads is pending or the GIQ is full; an illegal
operand traps with cause 0x02 and writes no entry; otherwise `front` is its change to the front-end copies. -/
def slotB (s : State) (i : Instr) (rs : List Reg) (len : Nat) (op : Option GOp) (front : Core → Core := id) : Out :=
  if rs.any fun r => s.core.pendingReg r.toNat then .next s
  else
    match op with
    | none => s.trapA 0x02 (rawBits i)
    | some op => if s.core.giqFull then .next s else (s.updCore front).dispatch op i len

end State
end Sys2Proof.Machine
end

