-- ==== Sys2Proof/Machine/Events.lean ====
section
/-! DEFINITION. Sys2Proof/Machine/Events.lean: what the events of the grid side share: the oldest entry of a kind that has left
the GIQ does one unit of its work, with the outcome of its residue check (R326, R327). -/

namespace Sys2Proof.Machine

/-- A replay that passes leaves only its count (R327). R168 and R327 do not say whether a replay that mismatches again, and so becomes a
machine check, counts as well: DESIGN CHOICE, it does not (assumption log 71). -/
def Core.countReplay (c : Core) (chk : Check) : Core :=
  match chk with
  | .replay => { c with replays := c.replays + 1 }
  | .pass | .fail _ _ _ => c

/-- The machine check of a GLS entry's address generation (R328). -/
def glsCheck (e : Entry) (chk : Check) : Option GFault :=
  match e.op, chk with
  | .gls _ _ _ _ _ _ _, .fail _ lane _ => some { code := 0x0D, tval := 0, mc := some (0x08, some lane, none) }
  | _, _ => none

namespace State

/-- The place of the oldest entry in flight of a kind that is still at work. -/
def oldest (s : State) (p : GOp → Bool) : Option Nat := s.core.flight.findIdx? fun e => !e.fin && !e.faulted && p e.op

/-- The oldest entry in flight of a kind does one unit of its work, when it may start. An entry that faults is left for
GIQ_FAULT_TRAP, or stops where a trap already drains; a residue check that fails twice is taken at once (R168, R191). -/
def runOldest (s : State) (p : GOp → Bool) (grant : Bool) (chk : Check) : Out :=
  match s.oldest p with
  | none => .next s
  | some i =>
    match s.core.flight[i]? with
    | none => .next s
    | some e =>
      if !s.goesOn i e then .next s
      else
        match glsCheck e chk with
        | some f => s.giqFault e f
        | none =>
          match s.stepEntry (s.core.flight.take i) grant chk e with
          | (s1, .fault e1 f) =>
            if f.mc.isSome && (match chk with | .fail _ _ _ => true | .pass | .replay => false) then s1.giqFault e1 f
            else if s.core.drn.isSome then .next (s1.noteRun i (.fault e1 f))
            else .next s
          | (s1, r) => .next ((s1.noteRun i r).updCore fun c => (c.countReplay chk).retireFin)

/-- One unit of the oldest entry of a kind, with no check to fail. -/
def runKind (s : State) (p : GOp → Bool) : Out := s.runOldest p true .pass

end State
end Sys2Proof.Machine
end

