-- ==== Sys2Proof/Machine/System.lean ====
section
/-! DEFINITION. Sys2Proof/Machine/System.lean: CSRs (R101 to R108), trap, eret and wfi (R110 to R112), the fences and the other
markers at issue (R18, R241, R312 to R314), sealq, enq (R360) and halt (R113), with the events that retire the markers. -/

namespace Sys2Proof.Machine

/-! ### The CSR map (R101) -/

/-- The lowest level that may read a CSR, and the lowest that may write it; 3 is none. -/
def csrLevels (n : Nat) : Nat × Nat :=
  if n ≤ 0x007 then (0, 0)
  else if n ≤ 0x00A then (0, 1)
  else if n < 0x020 then (1, 1)
  else if n < 0x030 then (1, 2)
  else if n < 0x040 then (0, 2)
  else if n < 0x050 then (0, 3)
  else if n < 0x053 then (0, 2)
  else if n = 0x053 then (1, 1)
  else (0, 3)

/-- The CSRs whose access waits until every earlier GIQ entry has retired (R17). -/
def csrDrains (n : Nat) : Bool := (decide (1 ≤ n) && decide (n ≤ 0x00A)) || n == 0x016

/-- The CSRs that a run-ahead task may read before the old halt retires (R26). -/
def csrFree (n : Nat) : Bool := decide (0x040 ≤ n) && decide (n ≤ 0x052)

/-- The writable bits of a CSR that no privilege narrows further: reserved bits stay zero (R5, R82, R83, R103 to R106, R136,
R188, R331, R375), and a register all of whose fields are RO has none (R328). -/
def csrMask (n : Nat) : Word :=
  match n with
  | 0x001 => 0x0000_0000_0000_1F7F
  | 0x002 | 0x003 | 0x004 | 0x005 | 0x006 => 0x8000_0000_0000_FF7F
  | 0x007 => 0x0000_0000_0000_FF7F
  | 0x008 => 0x0000_0000_FFFF_FFFF
  | 0x009 => 0x8000_FFFF_0007_01FF
  | 0x00A => 0x8000_0000_0000_00FF
  | 0x010 => 0xFFFF_FFFF_FFFF_FF00
  | 0x011 | 0x012 => 0xFFFF_FFFF_FFFF_FFFE
  | 0x013 => 0x8000_0000_0000_00FF
  | 0x020 | 0x021 | 0x022 | 0x023 | 0x024 => 0
  | 0x030 | 0x031 => 0x0000_0000_FFFF_FFFF
  | _ => 0xFFFF_FFFF_FFFF_FFFF

/-- STATUS after a write at a level (R102): PL is never written, PIE, IE and PPL only above task level, PPL only to 0 or 1. -/
def statusWrite (pl : Nat) (old v : Word) : Word :=
  let x := blend (0x3_7700 ||| (if 1 ≤ pl then 0x30 else 0)) old v
  if 1 ≤ pl && decide (fieldNat v 2 2 < 2) then setField x 2 2 (fieldNat v 2 2) else x

namespace State

/-- The occupancy in per cent of the fullest segment share of the core's partition (R305), rounded down: DESIGN CHOICE (assumption
log 66). -/
def fullest (s : State) : Nat :=
  if s.share s.part = 0 then 100
  else (List.range 4).foldl (fun m d => max m (min 100 (s.occupancy s.part d * 100 / s.share s.part))) 0

/-- SEALSTAT (R305). -/
def sealstat (s : State) : Word :=
  let m := s.memberCore s.cur
  BitVec.ofNat 64 (s.fullest * 2 ^ 16 + natOfBool (!s.deadDies.isEmpty) * 2 ^ 7 + natOfBool (s.devctl.getLsbD 0) * 2 ^ 6
    + natOfBool s.core.now * 2 ^ 5 + natOfBool s.core.sealReq * 2 ^ 4 + natOfBool (s.getPart s.part).lstall * 2 ^ 3
    + natOfBool m * 2 ^ 2 + (if m then s.core.openN else 0))

/-- GIQSAVE (R375); the bytes of a block are the spec's own layout (assumption log 7). -/
def giqsave (s : State) : Word :=
  let n := s.core.blk.length
  if n = 0 then 0 else BitVec.ofNat 64 (2 ^ 63 + n * 2 ^ 16 + min 8192 (Config.giqBytes n).toNat)

/-- The value of a CSR (R101). -/
def csrRead (s : State) (n : Nat) : Word :=
  let c := s.core
  match n with
  | 0x000 => c.status
  | 0x001 => c.flags
  | 0x002 => c.eidxNv
  | 0x003 => c.eidxDz
  | 0x004 => c.eidxOf
  | 0x005 => c.eidxUf
  | 0x006 => c.eidxSat
  | 0x007 => c.ffi
  | 0x008 => c.restidx
  | 0x009 => c.stepprog
  | 0x00A => c.rowprog
  | 0x010 => c.tvec
  | 0x011 => c.epc
  | 0x012 => c.spc
  | 0x013 => c.cause
  | 0x014 => c.tval
  | 0x015 => c.tscr
  | 0x016 => s.giqsave
  | 0x020 => c.mckind
  | 0x021 => c.mclane
  | 0x022 => c.mcrow
  | 0x023 => c.mcop
  | 0x024 => c.mcpc
  | 0x030 => zext (if s.memberCore s.cur then rinOf c else s.entryInterval)
  | 0x031 => zext s.dom.datum
  | 0x032 => s.sealstat
  | 0x040 => BitVec.ofNat 64 (s.cur % 4)
  | 0x041 => BitVec.ofNat 64 (coreCluster s.cur % 6)
  | 0x042 => BitVec.ofNat 64 (coreDie s.cur)
  | 0x043 => BitVec.ofNat 64 (s.devid % 2 ^ 16)
  | 0x044 => BitVec.ofNat 64 s.part
  | 0x045 => BitVec.ofNat 64 (c.task.getD 0)
  | 0x050 => s.cycleNow
  | 0x051 => c.instret
  | 0x052 => s.timeNow
  | 0x053 => c.timecmp
  | _ => if 0x060 ≤ n && n ≤ 0x069 then (s.getPart s.part).meters.getD (n - 0x060) 0 else 0

/-- Discard the held GIQ block (R375, R376). -/
def discardBlock (s : State) : State := s.updCore fun c => { c with blk := [] }

/-- Write a value, already blended into the register's writable bits, to a CSR (R101). At firmware level the table of R101 gives RW
for RIN, DATUM, SEALSTAT and MCKIND to MCPC, while the maps of R304, R305 and R328 mark their fields RO, and writes obey the map (R5, R101):
a write of SEALSTAT or of MCKIND to MCPC changes nothing. R304 has firmware write RIN and DATUM: DEDUCED, it can (assumption log 52). -/
def csrPut (s : State) (n : Nat) (v : Word) : State :=
  match n with
  | 0x000 => s.updCore fun c => { c with status := statusWrite s.pl c.status v }
  | 0x001 => s.updCore fun c => { c with flags := v }
  | 0x002 => s.updCore fun c => { c with eidxNv := v }
  | 0x003 => s.updCore fun c => { c with eidxDz := v }
  | 0x004 => s.updCore fun c => { c with eidxOf := v }
  | 0x005 => s.updCore fun c => { c with eidxUf := v }
  | 0x006 => s.updCore fun c => { c with eidxSat := v }
  | 0x007 => s.updCore fun c => { c with ffi := v }
  | 0x008 => s.updCore fun c => { c with restidx := v }
  | 0x009 => s.updCore fun c => { c with stepprog := v }
  | 0x00A => s.updCore fun c => { c with rowprog := v }
  | 0x010 => s.updCore fun c => { c with tvec := v }
  | 0x011 => s.updCore fun c => { c with epc := v }
  | 0x012 => s.updCore fun c => { c with spc := v }
  | 0x013 => s.updCore fun c => { c with cause := v }
  | 0x014 => s.updCore fun c => { c with tval := v }
  | 0x015 => s.updCore fun c => { c with tscr := v }
  | 0x016 => if v.getLsbD 63 then s else s.discardBlock
  | 0x030 => s.updCore fun c => { c with rin := v }
  | 0x031 => { s with dom := { s.dom with datum := bits v 0 32 } }
  | 0x050 => s.updCore fun c => { c with cycle := v - BitVec.ofNat 64 (cycleSum s.ticks) }
  | 0x051 => s.updCore fun c => { c with instret := v }
  | 0x052 => { s with time := v - BitVec.ofNat 64 (timeSum s.ticks) }
  | 0x053 => s.updCore fun c => { c with timecmp := v }
  | _ => s

/-- Write a CSR: reserved and read-only bits keep their value (R5). -/
def csrWrite (s : State) (n : Nat) (v : Word) : State := s.csrPut n (blend (csrMask n) (s.csrRead n) v)

/-- csrr, csrw, csrs and csrc (R101): the old value goes to xd, then `wr`, if any, gives the new one. -/
def csrOp (s : State) (i : Instr) (d : Reg) (rs : List Reg) (n : Nat) (wr : Option (Word → Word)) : Out :=
  s.slotA (d :: rs) fun s =>
    if s.core.runAhead && !(csrFree n && wr.isNone) then .next s
    else if csrDrains n && !s.core.drained then .next s
    else if s.pl < (csrLevels n).1 || (wr.isSome && decide (s.pl < (csrLevels n).2)) then s.illegal i
    else
      let old := s.csrRead n
      let s1 := match wr with | some f => s.csrWrite n (f old) | none => s
      .next ((s1.setReg d old).advance 4)

end State

def execCsrr (d : Reg) (n : BitVec 10) (s : State) : Out := s.csrOp (.csrr d n) d [] n.toNat none

def execCsrw (d a : Reg) (n : BitVec 10) (s : State) : Out :=
  s.csrOp (.csrw d a n) d [a] n.toNat (some fun _ => s.reg a)

def execCsrs (d a : Reg) (n : BitVec 10) (s : State) : Out :=
  s.csrOp (.csrs d a n) d [a] n.toNat (if a = 0 then none else some fun old => old ||| s.reg a)

def execCsrc (d a : Reg) (n : BitVec 10) (s : State) : Out :=
  s.csrOp (.csrc d a n) d [a] n.toNat (if a = 0 then none else some fun old => old &&& ~~~s.reg a)

/-- TIMECMP_WRITE (R106): the write removes a pending timer cause until TIME reaches the new value. -/
def execTimecmpWrite (v : Word) (s : State) : Out := .next (s.csrWrite 0x053 v)

/-- GIQSAVE_WRITE (R375): V written to 0 discards the held block. -/
def execGiqsaveWrite (v : Word) (s : State) : Out := .next (s.csrWrite 0x016 v)

/-! ### trap, eret, wfi (R110 to R112) -/

namespace State

/-- trap n (R110): into runtime level from task level, to Jorhin from runtime level. `call` is what Jorhin does for it. -/
def trapN (s : State) (n : Nat) (call : State → State) : Out :=
  if !s.core.drained then .next s
  else if s.pl = 0 then s.trapWith [] 0x0F (BitVec.ofNat 64 n) s.core.pc (s.core.pc + 4)
  else if s.pl = 1 then .next (call (s.updCore fun c => c.enterFirmware (c.pc + 4) [] 0))
  else .fault (.firmwareTrap 0x0F)

/-- A core of a victim that returns to task level stops there (R369). -/
def stopAtTask (s : State) : State :=
  match s.curTask with
  | some t =>
    (match t.state with
      | .preempting _ => if s.pl = 0 then s.updCore fun c => { c with run := .stop } else s
      | .granted | .running | .preempted => s)
  | none => s

/-- Continue after an eret: the grid side goes on, unless the core stops. -/
def resumeGrid (s : State) : Out :=
  let s1 := s.stopAtTask
  if s1.core.run == .stop then .next s1 else s1.andPump

/-- eret at runtime level (R111, R376, R189, R259): the held block goes back, parked streams and commands restart. -/
def eretRuntime (s : State) : Out :=
  (((s.returnRuntime.updCore restartStreams).reissue s.core.blkAt (s.core.blk.map s.core.resumed)).restartCmds).resumeGrid

/-- eret at firmware level (R111): the block held for the firmware trap goes back with its stored progress. -/
def eretFirmware (s : State) : Out :=
  (((s.returnFirmware.updCore restartStreams).reissue s.core.fw.blockAt s.core.fw.block).restartCmds).resumeGrid

/-- Kill the task of the core that moves (R367, R390). -/
def killMine (s : State) : State :=
  let id := s.core.task.getD 0
  ((s.performStores s.cur).updCore Core.release).killTask id

end State

def execTrap (n : BitVec 10) (s : State) : Out := s.trapN n.toNat id

/-- trap 0x300: a request for a rollback at runtime level (R332). -/
def execTrapRollback (s : State) : Out := s.trapN 0x300 fun s => s.raiseDomainFault 3

/-- trap 0x301: kills the core's task at runtime level (R367). -/
def execTrapKill (s : State) : Out := s.trapN 0x301 State.killMine

def execEret (s : State) : Out :=
  if s.pl = 0 then s.illegal .eret
  else if !s.core.drained then .next s
  else if s.pl = 1 then s.eretRuntime
  else s.eretFirmware

/-- wfi (R112): while it stalls, the core notes that it does, so that the wfi completes before an enabled cause is taken. -/
def execWfi (s : State) : Out :=
  if s.pl = 0 then s.illegal .wfi
  else if (s.core.asyncPending s.timeNow).isSome then .next ((s.updCore fun c => { c with wfi := false }).advance 4)
  else .next (s.updCore fun c => { c with wfi := true })

/-! ### Markers (R18) -/

namespace State

/-- A marker at issue: it waits for the GIQ and, in a run-ahead task, for the old halt (R26). -/
def marker (s : State) (i : Instr) (op : GOp) : Out :=
  if s.core.runAhead || s.core.giqFull then .next s else s.dispatch op i 4

/-- The check of a resume-record pointer at issue (R312, R314): none when it may be used. -/
def recordCheck (s : State) (ptr : Word) : State × Option Out :=
  if ptr = 0 then (s, none)
  else if ptr.toNat % 64 ≠ 0 then (s, some (s.trapA 0x03 ptr))
  else
    match s.translate (s.scalarWho false) .store ptr with
    | (s1, .wait) => (s1, some (.next s1))
    | (s1, .fault f) => (s1, some (s.trapPageA s1 ptr f))
    | (s1, .ok pa) =>
      if s1.logged pa then (s1, none) else (s1, some (s.trapPageA s1 ptr ⟨0x07, 7, 15⟩))

/-- seal and irrev at issue: the pointer is checked, then a member core places the marker and another core a fence.all of
domain scope (R312, R314). -/
def sealing (s : State) (i : Instr) (ptr : Word) (op : GOp) : Out :=
  if s.pl = 2 then s.illegal i
  else if s.core.runAhead then .next s
  else
    match s.recordCheck ptr with
    | (_, some o) => o
    | (s1, none) => s1.marker i (if s1.memberCore s1.cur then op else .fence 3 4)

/-- The pointer of an irrev (R314). -/
def irrevPtr (s : State) : Word :=
  match s.core.sealPtr, s.curTask with
  | some p, _ => p
  | none, some t => t.resume
  | none, none => 0

end State

def execFenceSv (scope : BitVec 3) (s : State) : Out := s.marker (.fenceSv scope) (.fence 0 scope.toNat)
def execFenceVs (scope : BitVec 3) (s : State) : Out := s.marker (.fenceVs scope) (.fence 1 scope.toNat)
def execFenceVv (scope : BitVec 3) (s : State) : Out := s.marker (.fenceVv scope) (.fence 2 scope.toNat)
def execFenceAll (scope : BitVec 3) (s : State) : Out := s.marker (.fenceAll scope) (.fence 3 scope.toNat)

def execSeal (a : Reg) (s : State) : Out :=
  s.slotA [a] fun s => s.sealing (.seal a) (s.reg a) (.seal (s.reg a))

def execIrrev (s : State) : Out := s.sealing .irrev s.irrevPtr (.irrev s.irrevPtr)

/-- sealq (R311, R313). -/
def execSealq (d : Reg) (s : State) : Out :=
  if s.pl = 2 then s.illegal (.sealq d) else s.slotAWrite [] d (zext s.dom.datum) 4

/-- halt (R113): the marker is placed and the core issues nothing more. -/
def execHalt (s : State) : Out :=
  if s.core.runAhead || s.core.giqFull then .next s
  else (s.updCore fun c => { c with run := .halting }).dispatch .halt .halt 4

/-- enq (R360): its release performs the scalar stores that wait, and waits for those that cannot be; a run-ahead task waits. -/
def execEnq (d a : Reg) (q : BitVec 3) (s : State) : Out :=
  s.slotA [d, a] fun s =>
    let n := (s.reg a).toNat
    if s.pl = 2 then s.illegal (.enq d a q)
    else if n = 0 || n % 16 ≠ 0 then s.trapA 0x02 (State.rawBits (.enq d a q))
    else if s.core.runAhead then .next s
    else if !s.landAll.core.sbuf.isEmpty then .next s.landAll
    else
      let s := s.landAll
      let x := s.getQueue s.part q.toNat
      if x.state ≠ 1 then .next ((s.setReg d (BitVec.ofInt 64 (-2))).advance 4)
      else if x.head.toNat + 2 ^ x.log2sz < x.tail.toNat + n then .next ((s.setReg d (BitVec.allOnes 64)).advance 4)
      else .next (((s.modQueue s.part q.toNat (State.publish (x.tail + BitVec.ofNat 64 n) s.ticks)).setReg d x.tail).advance 4)

/-! ### The retirement of markers -/

/-- FENCE_RETIRE (R241). -/
def execFenceRetire (s : State) : Out := s.runKind fun o => match o with | .fence _ _ => true | _ => false

/-- SEAL_RETIRE (R312). -/
def execSealRetire (s : State) : Out := s.runKind fun o => match o with | .seal _ => true | _ => false

/-- IRREV_RETIRE (R314): its first unit closes the interval, its second waits for the commit. -/
def execIrrevRetire (s : State) : Out := s.runKind fun o => match o with | .irrev _ => true | _ => false

/-- HALT_RETIRE (R12). -/
def execHaltRetire (s : State) : Out := s.runKind fun o => o == .halt

/-- GRID_RESET_ENTRY (R26). -/
def execGridResetEntry (s : State) : Out := s.runKind fun o => o == .gridReset

end Sys2Proof.Machine
end

