-- ==== Sys2Proof/Machine/Launch.lean ====
section
/-! DEFINITION. Sys2Proof/Machine/Launch.lean: launch records (R356 to R359), their wait-for entries (R362), reservations (R194,
R282, R291, R363, R364), the start of a task (R10, R11, R26) and the choice of victims for pre-emption (R368, R371). -/

namespace Sys2Proof.Machine

/-! ### Records (R356, R357) -/

/-- The bytes of a field. -/
def fieldBytes (b : Nat) : Nat := if b = 1 || (13 ≤ b && b ≤ 16) then 16 else 8

/-- The bytes of the header and the carried fields. -/
def recBytes (mask : Nat) : Nat := 8 + (((List.range 20).filter (bitNat mask)).map fieldBytes).sum

/-- Replace the held value of a field. -/
def RecFields.put (r : RecFields) (b : Nat) (bs : List Byte) : RecFields :=
  let lo : Word := BitVec.ofNat 64 (leField bs 0 8)
  let hi : Word := BitVec.ofNat 64 (leField bs 8 8)
  match b with
  | 0 => { r with entry := lo }
  | 1 => { r with place := hi ++ lo }
  | 2 => { r with argp := lo }
  | 11 => { r with spad := lo }
  | 12 => { r with cls := lo }
  | 13 | 14 | 15 | 16 => { r with waits := r.waits.set (b - 13) (lo, hi) }
  | 17 => { r with done := lo }
  | 18 => { r with sync := lo }
  | 19 => { r with resume := lo }
  | _ => { r with args := r.args.set (b - 3) lo }

/-- The held values after a record's carried fields, which follow the header in ascending bit order. -/
def takeFields (mask : Nat) : List Nat → List Byte → RecFields → RecFields
  | [], _, r => r
  | b :: rest, bs, r =>
    if bitNat mask b then takeFields mask rest (bs.drop (fieldBytes b)) (r.put b (bs.take (fieldBytes b)))
    else takeFields mask rest bs r

/-- The clusters that a PLACE names, with their core masks, ascending (R357). -/
def placeMasks (pl : BitVec 128) : List (Nat × Nat) :=
  ((List.range 24).map fun q => (q, fieldNat pl (4 * q) 4)).filter fun p => p.2 != 0

def RecFields.level (r : RecFields) : Nat := fieldNat r.cls 0 2
def RecFields.nb (r : RecFields) : Nat := fieldNat r.sync 0 7
def RecFields.nw (r : RecFields) : Nat := fieldNat r.sync 8 3

/-- Cores of a four-bit mask. -/
def maskCores (m : Nat) : Nat := countBits m 4

/-- FCAUSE 2: a field bit that R357 requires to be zero is set. A class above 3, for which R57 names FCAUSE 4, sets such a bit, and the
lowest code that applies is reported (R359; assumption log 62). -/
def RecFields.badBits (r : RecFields) : Bool :=
  fieldNat r.place 96 31 != 0 || (r.cls &&& ~~~0x703) != 0 || (r.sync &&& ~~~0x77F) != 0

/-- FCAUSE 4: a limit of R357 is broken, or PLACE or SPAD can never be granted. -/
def RecFields.badLimits (clusters : Nat) (r : RecFields) : Bool :=
  let pm := placeMasks r.place
  r.entry.toNat % 2 != 0 || pm.isEmpty || (pm.any fun p => !bitNat clusters p.1)
    || decide (33554432 < r.spad.toNat) || (r.waits.any fun w => w.1.toNat % 8 != 0) || r.done.toNat % 8 != 0
    || decide (64 < r.nb) || decide (4 < r.nw) || r.resume.toNat % 64 != 0
    || pm.any fun p => decide (33554432 < r.spad.toNat + r.nw * 2097152 * maskCores p.2)

/-- FCAUSE 1 of a header: LENGTH or its reserved bytes. -/
def badHeader (len mask rsv : Nat) : Bool :=
  decide (len < 16) || len % 16 != 0 || rsv != 0 || (mask != 0 && len != (recBytes mask + 15) / 16 * 16)

/-- Does the header alone show FCAUSE 2 or 3 (R359): what is reported for a record that cannot be read whole, since no field of
it is decoded (R356); else `k`. -/
def headerFault (first : Bool) (mask k : Nat) : Nat :=
  if mask / 2 ^ 20 ≠ 0 then 2
  else if mask ≠ 0 && first && !(bitNat mask 0 && bitNat mask 1 && bitNat mask 12 && bitNat mask 17) then 3
  else k

/-- The lowest code of R359 that applies to a record whose bytes could be read. -/
def recFault (clusters : Nat) (first : Bool) (bs : List Byte) (mask : Nat) (r : RecFields) : Option Nat :=
  if mask = 0 then none
  else if !allZero (bs.drop (recBytes mask)) then some 1
  else if mask / 2 ^ 20 != 0 || r.badBits then some 2
  else if first && !(bitNat mask 0 && bitNat mask 1 && bitNat mask 12 && bitNat mask 17) then some 3
  else if r.badLimits clusters then some 4
  else none

namespace State

/-- Read bytes of a queue's ring with the rights of runtime level (R358): the bytes, FCAUSE 6 or 7, or a wait for a translation. R229 has every
fault of an agent of the partition write a record, and R230 has no AGENT for the launch unit: DESIGN CHOICE, a translation or permission fault
of it writes none (assumption log 72). -/
def ringRead (s : State) (p q : Nat) (va : Word) (n : Nat) : State × Except (Option Nat) (List Byte) :=
  match s.peekRun (s.queueWho p q 0) va n with
  | (s1, .ok bs) => (s1, .ok bs)
  | (s1, .error none) => (s1, .error none)
  | (s1, .error (some f)) => (s1, .error (some (if f.code = 0x0C then 7 else 6)))

/-- Count `n` bytes of a ring that the launch unit has read (R384). -/
def meterRing (s : State) (p q : Nat) (va : Word) (n : Nat) : State := s.meterVirt (s.queueWho p q 0) (span va.toNat n)

/-- A record is consumed: HEAD passes it, and it waits for its entries or, as a pad, is gone. A queue being destroyed drops it
(R377). -/
def takeRecord (s : State) (p q len mask : Nat) (r : RecFields) : State :=
  s.modQueue p q fun x =>
    let y := { x with head := x.head + BitVec.ofNat 64 len, pubs := x.pubs.filter fun a => decide (x.head.toNat < a.1.toNat) }
    if mask = 0 then (if x.state = 3 then { y with state := 0 } else y)
    else
      let z := { y with held := r, first := false, start := x.head }
      if x.state = 3 then { z with state := 0 }
      else { z with hs := .wait (r.waits.map fun w => if w.1 = 0 then 1 else 0) }

/-- RECORD_FETCH (R356, R359, R361): the head record of a queue is read whole, decoded and checked. One whose LENGTH takes it across the end of
the ring faults as its header is read, since no write of TAIL need ever cover it. The spec does not say what becomes of any other
record that TAIL has published only in part: DESIGN CHOICE, it waits in FETCH until TAIL covers it, and a queue that is being destroyed drops
it, since TAIL moves no more (R353, R377; assumption log 39). -/
def recordFetch (s : State) (p q : Nat) : State :=
  let x := s.getQueue p q
  if 16 ≤ p || 8 ≤ q || !s.fetches p x then s
  else
    let off := x.head.toNat % 2 ^ x.log2sz
    let va := x.qbase + BitVec.ofNat 64 off
    match s.ringRead p q va 8 with
    | (s1, .error none) => s1
    | (s1, .error (some k)) => s1.haltQueue p q k x.head
    | (s1, .ok hb) =>
      let len := leField hb 0 2
      let mask := leField hb 4 4
      if badHeader len mask (leField hb 2 2) then (s1.meterRing p q va 8).haltQueue p q 1 x.head
      else if 2 ^ x.log2sz < off + len then (s1.meterRing p q va 8).haltQueue p q (headerFault x.first mask 6) x.head
      else if x.tail.toNat < x.head.toNat + len then
        (if x.state = 3 then (s1.meterRing p q va 8).modQueue p q fun x => { x with state := 0 } else s1)
      else
        match s1.ringRead p q va len with
        | (s2, .error none) => s2
        | (s2, .error (some k)) => (s2.meterRing p q va 8).haltQueue p q (headerFault x.first mask k) x.head
        | (s3, .ok bs) =>
          let s2 := s3.meterRing p q va len
          let r := takeFields mask (List.range 20) (bs.drop 8) x.held
          match recFault (s2.getPart p).clusters x.first bs mask r with
          | some k => s2.haltQueue p q k x.head
          | none =>
            (s2.takeRecord p q len mask r).modPart p fun x => { x with
              duties := x.duties.filter fun d => !(d.kind == 2 && d.queue == q)
              placeAns := x.placeAns.filter fun a => a.1 != q }

/-! ### Records in RESERVE (R364) -/

/-- RESERVE_AGE_EXPIRY (R364): what the queue has in RESERVE, its head record and its pre-empted tasks (R374), has waited there over
100 µs. -/
def ageExpiry (s : State) (p q : Nat) : State :=
  { s with tasks := s.tasks.map fun (t : Task) =>
      if t.part == p && t.queue == q && t.state == TaskState.preempted then { t with aged := true } else t }.modQueue p q fun x => match x.hs with
    | .reserve n _ => { x with hs := .reserve n true }
    | .fetch | .wait _ => x

/-! ### What a reservation needs (R194, R282, R291, R364) -/

end State

/-- A record in RESERVE. -/
structure Cand where
  p    : Nat
  q    : Nat
  r    : RecFields
  ord  : Nat
  aged : Bool
deriving DecidableEq, Repr

/-- What one cluster gives: its core mask, the offset of the reservation and that of the lane copies. -/
structure Share where
  cluster : Nat
  mask    : Nat
  off     : Nat
  copies  : Nat
deriving DecidableEq, Repr

/-- Scratchpad bytes rounded up to the grant unit (R194). -/
def spadRound (n : Nat) : Nat := (n + 262143) / 262144 * 262144

/-- The package cores of a cluster's mask. -/
def coresOf (cluster mask : Nat) : List Nat := ((List.range 4).filter (bitNat mask)).map fun i => cluster * 4 + i

/-- The lowest free offset for `size` bytes beside some used ranges (R194). -/
def firstFit (used : List (Nat × Nat)) (size : Nat) : Option Nat :=
  if size = 0 then some 0
  else ((List.range 128).map fun i => i * 262144).find? fun o =>
    decide (o + size ≤ spadBytes) && used.all fun u => decide (u.2 = 0) || decide (u.1 + u.2 ≤ o) || decide (o + size ≤ u.1)

namespace State

/-- The records in RESERVE of running queues, by partition and queue. -/
def candidates (s : State) : List Cand :=
  ((List.range 16).filter s.launches).flatMap fun p => (List.range 8).filterMap fun q =>
    let x := s.getQueue p q
    match x.state, x.hs with
    | 1, .reserve n a => some ⟨p, q, x.held, n, a⟩
    | _, _ => none

/-- Is a core held by a task; the cores of `skip` count as free. -/
def coreHeld (s : State) (skip : List Nat) (n : Nat) : Bool :=
  s.tasks.any fun t => t.state != .preempted && !skip.contains t.id && t.cores.contains n

/-- The scratchpad ranges used in a cluster; those of the tasks and clusters of `skip` count as free. -/
def spadUsed (s : State) (skip : List (Nat × Nat)) (q : Nat) : List (Nat × Nat) :=
  (s.tasks.filter fun t => !skip.contains (t.id, q)).flatMap fun t =>
    ((t.resv ++ t.copies).filter fun r => r.1 == q).map (·.2)

/-- Barrier objects granted in a cluster and on a die (R282). -/
def clusterNb (s : State) (skip : List (Nat × Nat)) (q : Nat) : Nat :=
  ((s.tasks.filter fun t => !skip.contains (t.id, q) && t.resv.any fun r => r.1 == q).map (·.nb)).sum

def dieNb (s : State) (die : Nat) : Nat := ((s.tasks.filter fun t => t.cores.any fun n => coreDie n == die).map (·.nb)).sum

/-- What a cluster gives a record, if it can: free and working cores, objects, a reservation and room for the lane copies. The spec
says only that the copies lie beside the reservation: DESIGN CHOICE, at the lowest free multiple of 262,144 once the reservation is
placed (R194; assumption log 63). A record that may run ahead and asks for windows gets them where the copies have room beside those of the
task ahead: R29 counts windows by reservation, and R26 starts the new task's afresh; DESIGN CHOICE (assumption log 63). -/
def clusterShare (s : State) (cores : List Nat) (spads : List (Nat × Nat)) (p : Nat) (r : RecFields) (q mask : Nat) : Option Share :=
  let used := s.spadUsed spads q
  let size := spadRound r.spad.toNat
  if bitNat (s.getPart p).clusters q && !s.deadDies.contains (q / 6)
      && (coresOf q mask).all (fun n => !s.coreHeld cores n && (s.getCore n).run != .fenced)
      && decide (s.clusterNb spads q + r.nb ≤ 64) && decide (s.dieNb (q / 6) + r.nb ≤ 256) then
    match firstFit used size with
    | none => none
    | some o => (firstFit (used ++ [(o, size)]) (r.nw * 2097152 * maskCores mask)).map fun k => ⟨q, mask, o, k⟩
  else none

/-- Assign masks to clusters as given. -/
def fixedShares (s : State) (cores : List Nat) (spads : List (Nat × Nat)) (p : Nat) (r : RecFields) : List (Nat × Nat) → Option (List Share)
  | [] => some []
  | (q, m) :: rest =>
    match s.clusterShare cores spads p r q m, s.fixedShares cores spads p r rest with
    | some x, some xs => some (x :: xs)
    | _, _ => none

/-- Assign masks in their order to the lowest clusters that are free for them (R364, MOVE). -/
def movedShares (s : State) (cores : List Nat) (spads : List (Nat × Nat)) (p : Nat) (r : RecFields) (lo : Nat) : List (Nat × Nat) → Option (List Share)
  | [] => some []
  | (_, m) :: rest =>
    match ((List.range 24).filter fun q => decide (lo ≤ q)).find? fun q => (s.clusterShare cores spads p r q m).isSome with
    | none => none
    | some q =>
      match s.clusterShare cores spads p r q m, s.movedShares cores spads p r (q + 1) rest with
      | some x, some xs => some (x :: xs)
      | _, _ => none

/-- The placement that a record would get now: as written, moved by the scheduler, or as the host answered (R364, R389). -/
def shares (s : State) (cores : List Nat) (spads : List (Nat × Nat)) (c : Cand) : Option (List Share) :=
  let pm := placeMasks c.r.place
  if !c.r.place.getLsbD 127 then s.fixedShares cores spads c.p c.r pm
  else if !(s.getPart c.p).placeha then s.movedShares cores spads c.p c.r 0 pm
  else
    match (s.getPart c.p).placeAns.find? fun a => a.1 == c.q with
    | none => none
    | some a =>
      let qs := (List.range 24).filter (bitNat a.2)
      if qs.length = pm.length then s.fixedShares cores spads c.p c.r (qs.zip (pm.map (·.2))) else none

/-- The task whose cores a run-ahead record takes (R26): it holds exactly the placed cores and has dispatched all its halts. -/
def aheadOf (s : State) (c : Cand) : Option Task :=
  let cs := (placeMasks c.r.place).flatMap fun p => coresOf p.1 p.2
  if !c.r.cls.getLsbD 9 then none
  else s.tasks.find? fun t => t.state == .running && t.part == c.p && t.cores == cs && cs.all fun n =>
    (s.getCore n).task == some t.id && (s.getCore n).prev.isNone && decide ((s.getCore n).outstanding.length < 64)
      && ((s.getCore n).run == .halting || t.halted.contains n) && !(s.getCore n).resetting

/-- The cores of a placement. -/
def shareCores (xs : List Share) : List Nat := xs.flatMap fun h => coresOf h.cluster h.mask

end State

/-- One that waits in RESERVE, or the placement that it would take (R364, R374): a record of a queue, or a pre-empted task, with the cores that
it needs and the clusters whose scratchpad it needs. -/
structure Waiter where
  task  : Option Nat
  part  : Nat
  queue : Nat
  cls   : Nat
  ord   : Nat
  aged  : Bool
  cores : List Nat
  pads  : List Nat
deriving DecidableEq, Repr

/-- A record that takes some (cluster, core mask) pairs: as its PLACE names them, that is what it needs while it waits (R364). -/
def Cand.taking (c : Cand) (pm : List (Nat × Nat)) : Waiter :=
  { task := none, part := c.p, queue := c.q, cls := c.r.level, ord := c.ord, aged := c.aged
    cores := pm.flatMap fun p => coresOf p.1 p.2
    pads := if c.r.spad != 0 || c.r.nw != 0 then pm.map (·.1) else [] }

/-- A pre-empted task, which waits for its own cores and for the ranges that were saved (R374). -/
def Task.waiter (t : Task) : Waiter :=
  { task := some t.id, part := t.part, queue := t.queue, cls := t.cls, ord := t.entered, aged := t.aged
    cores := t.cores, pads := t.spads.map (·.1.cluster) }

/-- Does one that has waited too long keep another from what it needs (R364): it is of the other's class or a lower one. Of two such in a
class the one that entered RESERVE first goes first, and a pre-empted task goes ahead of its partition's queues (R374). -/
def Waiter.bars (o w : Waiter) : Bool :=
  let same := o.task == w.task && o.part == w.part && o.queue == w.queue
  let ahead := o.cls == w.cls
    && ((w.aged && decide (w.ord < o.ord)) || (w.task.isSome && o.task.isNone && w.part == o.part))
  o.aged && !same && decide (o.cls ≤ w.cls) && !ahead && (o.cores.any w.cores.contains || o.pads.any w.pads.contains)

/-- The step in which the record in WAIT or RESERVE of a queue arrived at the launch unit (R374): that of the write of TAIL which published
it. -/
def arrival (x : LQueue) : Nat :=
  match x.pubs.find? fun a => decide (x.start.toNat < a.1.toNat) with
  | some a => a.2
  | none => 0

namespace State

/-- Is one that waits kept from what it would take by another that has waited too long. -/
def agedBlock (s : State) (w : Waiter) : Bool :=
  (s.candidates.any fun c => (c.taking (placeMasks c.r.place)).bars w)
    || s.tasks.any fun t => t.state == .preempted && t.waiter.bars w

/-- A pre-empted task of the record's class and partition that arrived before it resumes first (R28, R374). -/
def resumesFirst (s : State) (c : Cand) : Bool :=
  let x := s.getQueue c.p c.q
  s.tasks.any fun t => t.state == .preempted && t.part == c.p && t.cls == c.r.level
    && (if t.queue = c.q then t.epoch != x.epoch || decide (t.recAt < x.start.toNat) else decide (t.order < arrival x))

/-- The placement that a record would get, where a run-ahead record takes all the cores of the task that it follows, or none of them
(R26, R364). -/
def placement (s : State) (c : Cand) : Option (List Share) :=
  match s.aheadOf c with
  | none => s.shares [] [] c
  | some t =>
    match s.shares [t.id] [] c with
    | some xs => if shareCores xs == t.cores then some xs else s.shares [] [] c
    | none => none

/-- The reservation that a record can be granted now. -/
def grantable (s : State) (c : Cand) : Option (List Share) :=
  match s.placement c with
  | some xs => if s.agedBlock (c.taking (xs.map fun h => (h.cluster, h.mask))) || s.resumesFirst c then none else some xs
  | none => none

/-! ### The scheduler (R363) -/

/-- The weight of a partition (R380: 0 counts as 1). -/
def weight (s : State) (p : Nat) : Nat := if (s.getPart p).schedw = 0 then 1 else (s.getPart p).schedw

def deficitOf (s : State) (p cls : Nat) : Int := Sp.get 0 s.deficit (p * 4 + cls)

/-- The rounds of 65,536 times its weight after which a partition's deficit is not negative. -/
def roundsOf (s : State) (p cls : Nat) : Nat :=
  let d := s.deficitOf p cls
  if 0 ≤ d then 0 else (d.natAbs + s.weight p * 65536 - 1) / (s.weight p * 65536)

/-- Partitions with no record of a class in RESERVE have no positive deficit there. -/
def capIdle (s : State) (cls : Nat) : State :=
  (List.range 16).foldl (fun s p => s.capDeficit p cls) s

/-- Deficit round robin among the partitions with a grantable record of a class: the deficits after it and the partition
served. -/
def pickPart (s : State) (cls : Nat) (ps : List Nat) : State × Option Nat :=
  let k := (ps.map fun p => s.roundsOf p cls).foldl min ((ps.map fun p => s.roundsOf p cls).headD 0)
  let s1 := ps.foldl (fun s p =>
    let d : Int := min (s.deficitOf p cls + (k * s.weight p * 65536 : Nat)) (s.weight p * 2 ^ 20 : Nat)
    { s with deficit := Sp.put 0 s.deficit (p * 4 + cls) d }) s
  let from_ := Sp.get 0 s.lastPart cls
  (s1, ((List.range 16).map fun i => (from_ + i) % 16).find? fun p => ps.contains p && decide (0 ≤ s1.deficitOf p cls))

/-- What to serve among the records that can be granted and the pre-empted tasks that can resume (R363, R374): lowest class, then
partition, then a pre-empted task of the partition ahead of its queues. -/
def pick (s : State) (ts : List Task) (cs : List Cand) : State × Option (Task ⊕ Cand) :=
  match ts.map (·.cls) ++ cs.map (·.r.level) with
  | [] => (s, none)
  | k :: rest =>
    let cls := rest.foldl min k
    let mine := cs.filter fun x => x.r.level == cls
    let back := ts.filter fun t => t.cls == cls
    match s.pickPart cls (back.map (·.part) ++ mine.map (·.p)).eraseDups with
    | (s1, none) => (s1, none)
    | (s1, some p) =>
      match back.find? fun t => t.part == p with
      | some t => (s1, some (.inl t))
      | none =>
        let from_ := Sp.get 0 s.lastQue p
        (s1, (((List.range 8).map fun i => (from_ + i) % 8).findSome? fun q => mine.find? fun x => x.p == p && x.q == q).map .inr)

/-- The granted PLACE (R365): the masks where they were placed, MOVE as the record has it. -/
def grantedPlace (r : RecFields) (xs : List Share) : Nat :=
  (xs.map fun x => x.mask * 2 ^ (4 * x.cluster)).sum + natOfBool (r.place.getLsbD 127) * 2 ^ 127

/-- The head record leaves its queue (R361): what stood behind one that had come back is at the head again, or the next record is in FETCH. -/
def nextHead (x : LQueue) : LQueue :=
  match x.behind with
  | [] => { x with hs := .fetch }
  | b :: rest => { x with held := b.held, start := b.start, hs := b.hs, behind := rest }

/-- Grant a reservation (R364): the task holds its resources, zeroed (R196), and the record leaves the head (R361). -/
def grantRecord (s : State) (c : Cand) (xs : List Share) : State :=
  let x := s.getQueue c.p c.q
  let size := spadRound c.r.spad.toNat
  let s0 := xs.foldl (fun s h => s.zeroSpad (spadBase + h.cluster * spadBytes + h.off) size) s
  let t : Task :=
    { id := s.nextTask, part := c.p, queue := c.q, recAt := x.start.toNat, epoch := x.epoch, recd := c.r, order := arrival x
      entered := 0, aged := false
      cls := c.r.level, preempt := c.r.cls.getLsbD 8, runahd := c.r.cls.getLsbD 9, member := c.r.cls.getLsbD 10
      place := grantedPlace c.r xs, cores := xs.flatMap fun h => coresOf h.cluster h.mask
      entry := c.r.entry, argp := c.r.argp, args := c.r.args, spad := c.r.spad.toNat, nb := c.r.nb, nw := c.r.nw
      done := c.r.done, resume := c.r.resume, waits := c.r.waits
      resv := xs.map fun h => (h.cluster, h.off, size)
      copies := xs.map fun h => (h.cluster, h.copies, c.r.nw * 2097152 * maskCores h.mask)
      bars := [], chans := [], tables := [], halted := [], state := .granted, saved := [], spads := [], frames := []
      cycles := 0, pend := [], ptrs := [] }
  { ((s0.modQueue c.p c.q fun x => { nextHead x with ndisp := x.ndisp + 1 }).capDeficit c.p c.r.level) with
    tasks := s.tasks ++ [t], nextTask := (s.nextTask + 1) % 2 ^ 32
    lastPart := Sp.put 0 s.lastPart c.r.level ((c.p + 1) % 16), lastQue := Sp.put 0 s.lastQue c.p ((c.q + 1) % 8) }

/-! ### Host-assisted placement (R364, R389) -/

/-- Ask the host for the placement of a record with MOVE, once while a request is open. -/
def askPlace (s : State) (c : Cand) : State :=
  let x := s.getPart c.p
  if !(x.placeha && c.r.place.getLsbD 127) || (x.placeAns.any fun a => a.1 == c.q)
      || (x.duties.any fun d => d.kind == 2 && d.queue == c.q) then s
  else s.postDuty c.p ⟨x.nextTag, 2, 0, 0, c.q⟩ (2 * 2 ^ 56 + x.nextTag) ((s.getQueue c.p c.q).start.toNat + c.q)
    (fieldNat c.r.place 0 64) (fieldNat c.r.place 64 64)

/-- The answers that cannot be followed, with a wrong count of clusters or with one that is not allotted or not free, count as "not yet" and are
asked again; one that can be followed stays until its record is granted (R389). -/
def dropAnswers (s : State) : State :=
  let good (p q : Nat) : Bool := s.candidates.any fun c => c.p == p && c.q == q && (s.placement c).isSome
  { s with parts := s.parts.mapFinIdx fun p x _ => { x with placeAns := x.placeAns.filter fun a => good p a.1 } }

/-- The answer of a record that is granted is used up. -/
def useAnswer (s : State) (c : Cand) : State :=
  s.modPart c.p fun x => { x with placeAns := x.placeAns.filter fun a => a.1 != c.q }

/-! ### Victims (R368, R371) -/

end State

/-- The context frames of R371 by key: a core's, a cluster's (1000 +) or a die's (2000 +). -/
def frameBytes (key : Nat) : Nat := if key < 1000 then 524288 else if key < 2000 then 33619968 else 4096

namespace State

/-- The used ranges of a partition's context pool. -/
def poolUsed (s : State) (p : Nat) : List (Nat × Nat) :=
  (s.tasks.filter fun t => t.part == p).flatMap fun t => t.frames.map fun f => (f.2, frameBytes f.1)

/-- Place frames in the pool, each at the lowest free multiple of 4,096; none when one does not fit. -/
def placeFrames (base size : Nat) (used : List (Nat × Nat)) : List Nat → Option (List (Nat × Nat))
  | [] => some []
  | k :: rest =>
    let starts := base :: used.map fun u => u.1 + u.2
    let ok (a : Nat) : Bool := decide (base ≤ a) && decide (a + frameBytes k ≤ base + size)
      && used.all fun u => decide (u.1 + u.2 ≤ a) || decide (a + frameBytes k ≤ u.1)
    match (starts.filter ok) with
    | [] => none
    | a :: more =>
      let at_ := more.foldl min a
      (placeFrames base size (used ++ [(at_, frameBytes k)]) rest).map fun l => (k, at_) :: l

/-- The frames that a victim still needs: one for each core, each die and each cluster whose reservation is saved. -/
def framesNeeded (t : Task) (save : List Nat) : List Nat :=
  (t.cores.filter fun n => !t.halted.contains n && !t.frames.any fun f => f.1 == n)
    ++ ((t.cores.map coreDie).eraseDups.map fun d => 2000 + d)
    ++ (save.map fun q => 1000 + q)

/-- Give a victim its frames and stop its cores (R369 STOP); a run-ahead task behind it is withdrawn, and one that is granted its cores and
not dispatched gives its record back. None when its frames do not fit in the pool. -/
def stopVictim (s : State) (id : Nat) (save : List Nat) : Option State :=
  match s.findTask id with
  | none => none
  | some t =>
    let x := s.getPart t.part
    match placeFrames x.ctxbase.toNat x.ctxsize.toNat (s.poolUsed t.part) (framesNeeded t save) with
    | none => none
    | some fs =>
      let s0 := t.cores.foldl (fun s n => if (s.getCore n).prev == some id then s.asCore n withdraw else s) s
      let s1 := match s0.grantedAhead t with | some o => s0.giveBack o | none => s0
      let s2 := s1.modTask id fun t => { t with state := .preempting save, frames := t.frames ++ fs }
      some (s2.modCores t.cores fun _ c =>
        if c.task == some id && fieldNat c.status 0 2 == 0 && (c.run == .running || c.run == .halting) then
          { c with run := .stop } else c)

/-- The tasks that may be pre-empted, in the order of R368: highest class first, then the latest dispatched. -/
def victimOrder (s : State) (pre : Bool) : List Task :=
  [3, 2, 1].flatMap fun k =>
    ((s.tasks.filter fun t => t.cls == k && t.preempt == pre && t.state == .running
      && !(t.cores.any fun n => (s.getCore n).task == some t.id && ((s.getCore n).prev.isSome || (s.getCore n).resetting))).reverse)

/-- Could a record be granted if the cores of some victims, and the reservations of some (task, cluster) pairs, were free (R364, R368). -/
def wouldGrant (s : State) (vs : List Nat) (pairs : List (Nat × Nat)) (c : Cand) : Bool :=
  match s.shares vs pairs c with
  | some xs => !s.agedBlock (c.taking (xs.map fun h => (h.cluster, h.mask))) && !s.resumesFirst c
  | none => false

/-- Drop every pair from a list whose reservation the record can be granted beside (R370). -/
def leastSaved (s : State) (c : Cand) (vs : List Nat) (kept : List (Nat × Nat)) : List (Nat × Nat) → List (Nat × Nat)
  | [] => kept
  | x :: rest =>
    if s.wouldGrant vs (kept ++ rest) c then s.leastSaved c vs kept rest else s.leastSaved c vs (kept ++ [x]) rest

/-- With some victims, the reservations that have to be saved, as (task, cluster), for the record to be granted; none when it cannot
be (R370). -/
def savePlan (s : State) (c : Cand) (vs : List Nat) : Option (List (Nat × Nat)) :=
  let pairs := (s.tasks.filter fun t => vs.contains t.id).flatMap fun t => t.resv.map fun r => (t.id, r.1)
  if s.wouldGrant vs pairs c then some (s.leastSaved c vs [] pairs) else none

/-- Stop every victim, each saving its share of the plan; none when the frames do not fit. -/
def stopAll (s : State) (plan : List (Nat × Nat)) : List Nat → Option State
  | [] => some s
  | id :: rest =>
    match s.stopVictim id ((plan.filter fun x => x.1 == id).map (·.2)) with
    | none => none
    | some s1 => s1.stopAll plan rest

/-- Add victims one at a time, those whose frames fit, until the record can be granted (R368). -/
def chooseVictims (s : State) (c : Cand) (vs : List Nat) : List Nat → Option State
  | [] => none
  | id :: rest =>
    let vs' := vs ++ [id]
    match s.savePlan c vs' with
    | some plan =>
      (match s.stopAll plan vs' with
        | some s1 => some s1
        | none => s.chooseVictims c vs rest)
    | none => s.chooseVictims c (if (s.stopAll [] vs').isSome then vs' else vs) rest

/-- Notice to the tasks that are never pre-empted and hold cores in the clusters of a class-0 record (R368), until the record is
dispatched or the task ends (R105). -/
def notice (s : State) (c : Cand) : State :=
  let qs := (placeMasks c.r.place).map (·.1)
  let x := s.getQueue c.p c.q
  let ns := ((s.victimOrder false).filter fun t => t.cores.any fun n => qs.contains (coreCluster n)).map fun t =>
    (⟨t.id, c.p, c.q, x.epoch, x.start.toNat⟩ : Notice)
  s.setNotices (s.notices ++ ns.filter fun n => !s.notices.contains n)

/-- Serve the class-0 records that cannot be granted (R368): the first that victims can serve gets them, and where none can, the tasks
that are never pre-empted get notices. Nothing more is chosen while victims are still on their way. -/
def preemptFor (s : State) (cs : List Cand) : State :=
  if s.tasks.any fun t => match t.state with | .preempting _ => true | .granted | .running | .preempted => false then s
  else
    match cs.findSome? fun c => s.chooseVictims c [] ((s.victimOrder true).map (·.id)) with
    | some s1 => s1
    | none => cs.foldl notice s

/-- The notices that a record caused end with its dispatch (R105). -/
def endNotices (s : State) (t : Task) : State :=
  s.setNotices (s.notices.filter fun n => !(n.part == t.part && n.queue == t.queue && n.epoch == t.epoch && n.recAt == t.recAt))

/-! ### The start of a task (R10, R11, R26) -/

end State

/-- The x registers at a task's first instruction (R11). -/
def startRegs (t : Task) (rank : Nat) : Vector Word 32 :=
  Vector.ofFn fun i : Fin 32 =>
    match i.val with
    | 2 => BitVec.ofNat 64 apertureBase
    | 3 => BitVec.ofNat 64 rank
    | 4 => BitVec.ofNat 64 t.cores.length
    | 5 => BitVec.ofNat 64 t.id
    | 9 => t.resume
    | n => if 10 ≤ n && n ≤ 17 then t.args.getD (n - 10) 0 else 0

/-- A core at a task's first instruction (R11, R106), without its recovery state and trap vector. -/
def Core.start (t : Task) (rank : Nat) (c : Core) : Core :=
  { c.discard with
    regs := startRegs t rank, pc := t.entry, status := setField c.status 0 2 0
    flags := 0, eidxNv := 0, eidxDz := 0, eidxOf := 0, eidxUf := 0, eidxSat := 0, ffi := 0, restidx := 0
    stepprog := 0, rowprog := 0, timecmp := 0, grid := [], masks := Vector.replicate 24 0
    wins := Vector.replicate 8 none, awdecl := [], awins := Vector.replicate 4 none
    ctrs := Vector.replicate 32 Counter.init, run := .running, task := some t.id, prev := none, front := none, frame := none }

/-- A core on which a run-ahead task begins behind the old task's halt (R26): its scalar side starts, its timer off (R106), and a grid-reset
entry follows the halt. `waits` says that the halt has not retired yet; the old task's front-end state is kept until then. An x register that an old
entry has still to write stays pending, and the entry's result lands in it after the launch unit's value: DESIGN CHOICE (assumption log 32). -/
def Core.startAhead (t : Task) (rank ord : Nat) (waits : Bool) (c : Core) : Core :=
  let e : Entry := { op := .gridReset, ord := ord, pc := t.entry, word := 0, st := c.vstat, pl := 0 }
  { c with
    regs := startRegs t rank, pc := t.entry, status := setField c.status 0 2 0
    wins := Vector.replicate 8 none, awdecl := [], flags := c.flags &&& ~~~scalarFlags, timecmp := 0, run := .running, task := some t.id
    prev := if waits then c.task else none
    front := if waits then some ⟨c.wins, c.awdecl, c.flags &&& scalarFlags, c.timecmp⟩ else none
    giq := c.giq ++ [e] }

namespace State

/-- Load one core of a task; `entry` is the entry interval, which a run-ahead member task takes at its grid reset only (R26, R303). -/
def loadCore (s : State) (t : Task) (old : Option Nat) (entry : BitVec 32) (n : Nat) : State :=
  let rank := t.cores.idxOf n
  match old with
  | some id =>
    let waits := match s.findTask id with | some o => !o.halted.contains n | none => false
    let s1 := s.modCore n fun c =>
      ({ c with task := some id }).startAhead t rank s.nextCmd waits
    { s1 with nextCmd := s.nextCmd + 1 }
  | none => (s.modCore n (Core.start t rank)).asCore n fun s => s.beginTask entry

/-- TASK_DISPATCH (R10, R11): the oldest granted task of a queue starts on all its cores. -/
def taskDispatch (s : State) (p q : Nat) : State :=
  match s.tasks.find? fun t => t.state == .granted && t.part == p && t.queue == q with
  | some t =>
    if !s.launches p then s
    else
      let old := s.heldBy t
      let room := old.isNone || t.cores.all fun n => decide ((s.getCore n).outstanding.length < 64)
      if !room then s
      else t.cores.foldl (fun s' n => s'.loadCore t old s.entryInterval n)
        ((s.modTask t.id fun (t : Task) => { t with state := .running }).endNotices t)
  | none => s

end State
end Sys2Proof.Machine
end

