-- ==== Sys2Proof/Machine/Preempt.lean ====
section
/-! DEFINITION. Sys2Proof/Machine/Preempt.lean: pre-emption and resumption (R192, R281, R300, R369 to R374): the drain, the core frame,
what the launch unit keeps of a pre-empted task, and lazy restore; with the events of the launch unit and of translation. -/

namespace Sys2Proof.Machine

/-! ### The core frame (R371, R373) -/

/-- The CSRs of the map of R101 (the frame holds each at 0x100 + 8 × its number). -/
def csrNumbers : List Nat := (List.range 0x70).filter fun n => isCsr (BitVec.ofNat 10 n)

/-- The CSRs that belong to the task and come back with it (R106, R371): the others are the core's own, or read-only. -/
def taskCsrs : List Nat := csrNumbers.filter fun n => decide (n < 0x016) || n == 0x053

/-- A window's doubleword in the frame (R122, R371). -/
def frameWindow (n : Nat) (w : Option Window) : Word :=
  match w with
  | some w => w.descriptor n ||| (1#64 <<< 63)
  | none => 0

/-- The window that a frame's doubleword names. -/
def windowAt (d : Word) : Option Window :=
  if d.getLsbD 63 then
    some { half := fieldNat d 11 1, mode := WMode.ofCode (fieldNat d 12 2), origin := fieldNat d 14 7
           count := fieldNat d 21 7 + 1, stride := signedNat 4 (fieldNat d 28 4) }
  else none

/-- The touched bits of a window as 512 bytes (R71 numbering). -/
def touchedBytes (w : Option AWin) : List Byte :=
  match w with
  | some w => leBytes 512 (packBits 1 ((List.range 4096).map fun e => natOfBool (w.touched.contains e)))
  | none => List.replicate 512 0

namespace State

/-- Bytes whose content the spec leaves to Wirvale take free values (assumption log 11). -/
def scribble (s : State) (lo n : Nat) : State :=
  { s.rawWrite lo ((List.range n).map fun i => Config.frameByte (lo + i) s.free) with free := s.free + 1 }

def poke8 (s : State) (pa : Nat) (v : Word) : State := s.rawWrite pa (leBytes 8 v.toNat)

/-- Write some doublewords. -/
def pokeAll (s : State) (l : List (Nat × Word)) : State := l.foldl (fun s p => s.poke8 p.1 p.2) s

/-- The bytes of a core frame that a save writes (R371, R373): all but the rows that need no write. -/
def frameWrites (g : Grid) : Nat :=
  let rows := (List.range 256).filter fun k =>
    let x := g.row (k / 128) (k % 128)
    x.valid && x.dirty && !x.absent
  524288 - 2 * 65536 + 512 * rows.length

/-- The bytes of a core frame that a restore reads at once (R373): all but the grid rows and the zeros at its end. -/
def frameReads : Nat := 0x2_4040 + 64

/-- The rows that a save has written, or that need no write, are clean (R124, R373). -/
def cleaned (g : Grid) : Grid :=
  (List.range 256).foldl (fun g k =>
    let x := g.row (k / 128) (k % 128)
    if x.valid && x.dirty then g.setRow (k / 128) (k % 128) { x with dirty := false } else g) g

/-- The rows of a half: the image header, and each row that is valid and dirty (R373). -/
def saveHalf (s : State) (base half : Nat) : State :=
  let g := s.core.grid
  (List.range 128).foldl (fun s r =>
    let x := g.row half r
    if x.valid && x.dirty && !x.absent then s.rawWrite (base + 64 + 512 * r) (rowImage g half r) else s)
    (s.rawWrite base (imageHeader g half 0 128))

/-- Write the core frame of the core that moves (R371). -/
def saveFrame (s : State) (fr : Nat) : State :=
  let c := s.core
  let s1 := s.pokeAll (((List.range 32).map fun n => (fr + 8 * n, c.getReg n))
    ++ (csrNumbers.map fun n => (fr + 0x100 + 8 * n, s.csrRead n)) ++ [(fr + 0xFF8, c.pc)]
    ++ ((List.range 8).map fun n => (fr + 0x1200 + 8 * n, frameWindow n (c.wins.getD n none)))
    ++ ((List.range 32).map fun n => (fr + 0x1300 + 8 * n, s.crdWord n)))
  let s2 := (List.range 24).foldl (fun s n => s.rawWrite (fr + 0x1000 + 16 * n) (leBytes 16 (c.masks.read n).toNat)) s1
  let s3 := (List.range 4).foldl (fun s n => s.rawWrite (fr + 0x1500 + 512 * n) (touchedBytes (c.awins.getD n none))) s2
  let s4 := ((s3.scribble (fr + 0x1400) 64).scribble (fr + 0x2000) 8192).scribble (fr + 0x4000) 131072
  ((s4.saveHalf (fr + 0x2_4000) 0).saveHalf (fr + 0x3_4040) 1).rawWrite (fr + 0x4_4080) (List.replicate 245632 0)

/-! ### DRAIN, SAVE, GONE (R369) -/

/-- The stages that a core may have reached when its gang moves on together. -/
def gangAt (s : State) (t : Task) (ok : RunState → Bool) : Bool :=
  t.cores.all fun n => t.halted.contains n || (s.getCore n).task != some t.id || ok (s.getCore n).run

/-- PREEMPT_DRAIN (R369): the scalar side is idle, SPC names the first instruction not executed, and the GIQ drains; the core stays in
STOP while an entry is in a pipe or a scalar store waits. A trap under way is not taken: its fault is raised again later. -/
def preemptDrain (s : State) : State :=
  match s.curTask with
  | some t =>
    if s.core.run != .stop || !s.gangAt t (fun r => r == .stop || r == .drain) then s
    else
      let s1 := ((s.updCore fun c =>
        { c with era := c.era + 1, spc := setField c.pc 0 1 0, load := none, resv := none, wfi := false, drn := none
                 flight := c.flight.map fun (e : Entry) => { e with epc := false } }).landAll.clearLstall s.part).drainRun true
      if s1.core.run != .stop || s1.drainBusy || !s1.core.sbuf.isEmpty then s1 else s1.updCore fun c => { c with run := .drain }
  | none => s

/-- The part of a core's context that is saved in Wirvale's layouts (R371, R372, R281, R300). -/
def savedCore (s : State) : SavedCore :=
  let c := s.core
  { core := s.cur, queues := c.queues, streams := c.streams, block := c.block, held := c.blk, heldAt := c.blkAt, fw := c.fw, awins := c.awins
    awdecl := c.awdecl, openN := c.openN, now := c.now, sealPtr := c.sealPtr, rin := rinOf c, ctrs := c.ctrs }

/-- PREEMPT_SAVE: flags of stopped entries are merged, then the frame is written and the rest is kept with the task. -/
def preemptSave (s : State) : State :=
  match s.curTask with
  | some t =>
    if s.core.run != .drain || !s.gangAt t (fun r => r == .drain || r == .save || r == .gone) then s
    else
      match t.frames.find? fun f => f.1 == s.cur with
      | none => s
      | some f =>
        let s1 := s.updCore Core.mergeAll
        let v := s1.savedCore
        let s2 := ((s1.saveFrame f.2).meterMem t.part f.2 (frameWrites s1.core.grid) 1).modTask t.id fun t => { t with saved := t.saved.filter (fun x => x.core != s.cur) ++ [v] }
        s2.updCore fun c => { c.discard with run := .save, grid := cleaned c.grid }
  | none => s

/-- The scratchpad of one cluster of a task as it is saved (R370). -/
def spadOf (s : State) (t : Task) (r : Nat × Nat × Nat) : SavedSpad × List TagEnt :=
  let lo := spadBase + r.1 * spadBytes + r.2.1
  let in_ (a : Nat) : Bool := decide (lo ≤ a) && decide (a < lo + r.2.2)
  ({ cluster := r.1, off := r.2.1, size := r.2.2
     copies := (t.copies.filter fun c => c.1 == r.1).map (·.2)
     bytes := (s.mem.filter fun p => in_ p.1).map fun p => (p.1 - lo, p.2)
     tags := (s.seqtags.filter fun p => in_ (spadBase + p.1 * 4096)).map fun p => (p.1 - (lo - spadBase) / 4096, p.2)
     pois := (s.poison.filter fun p => in_ p.1).map fun p => (p.1 - lo, p.2) },
   s.tagtab.filter fun e => e.cluster == r.1 && e.task == t.id)

/-- Save the clusters of a victim whose reservations the class-0 record displaces: the ranges are free, and the frames hold what
Wirvale wrote (R370, R371). -/
def saveSpads (s : State) (t : Task) (save : List Nat) : State :=
  let rs := t.resv.filter fun r => save.contains r.1
  let xs := rs.map (s.spadOf t)
  let s1 := (t.frames.filter fun f => decide (1000 ≤ f.1)).foldl (fun s f =>
    (s.scribble f.2 (frameBytes f.1)).meterMem t.part f.2 (frameBytes f.1) 1) s
  let s2 := rs.foldl (fun s r => s.zeroSpad (spadBase + r.1 * spadBytes + r.2.1) r.2.2) s1
  { s2 with tagtab := s2.tagtab.filter fun e => !(e.task == t.id && save.contains e.cluster) }.modTask t.id fun t =>
    { t with spads := xs, resv := t.resv.filter (fun r => !save.contains r.1), copies := t.copies.filter fun r => !save.contains r.1 }

/-- Every core of the gang is GONE: the cores are free (R369). -/
def freeGang (s : State) (t : Task) : State :=
  let s1 := { s with nextCmd := s.nextCmd + 1 }.modTask t.id fun t => { t with
    state := .preempted, entered := s.nextCmd, aged := false
    saved := t.saved.map fun (v : SavedCore) => { v with ctrs := (s.getCore v.core).ctrs } }
  let s2 := s1.modCores t.cores fun _ c => if c.task == some t.id then c.release else c
  s2.saveSpads ((s2.findTask t.id).getD t) (match t.state with | .preempting save => save | .granted | .running | .preempted => [])

/-- The tasks that are being pre-empted. -/
def victims (s : State) : List Task :=
  s.tasks.filter fun t => match t.state with | .preempting _ => true | .granted | .running | .preempted => false

/-- PREEMPT_GONE: the core is gone, and once every core of every victim is, they are free together (R369). -/
def preemptGone (s : State) : State :=
  if s.core.run != .save && s.core.run != .gone then s
  else
    let s1 := s.updCore fun c => { c with run := .gone }
    if s1.victims.all fun t => s1.gangAt t fun r => r == .gone then s1.victims.foldl freeGang s1 else s1

/-! ### Resumption (R373, R374) -/

/-- The rows of a half as they come back: every row saved valid is valid and absent. -/
def lazyRows (s : State) (base half : Nat) (g : Grid) : Grid :=
  let bm := s.readNat base 16
  (List.range 128).foldl (fun g r =>
    if bitNat bm r then
      g.setRow half r { valid := true, dirty := false, absent := true, cells := Vector.replicate 128 0 }
    else g) g

/-- The open intervals of a core that resumes in the entry interval `entry`: two where it saved two and the one before `entry` has not
committed (R303, R305). -/
def openAt (s : State) (t : Task) (v : SavedCore) (entry : BitVec 32) : Nat :=
  if !t.member then 0 else if v.openN = 2 && v.rin == entry && later (entry - 1) s.dom.datum then 2 else 1

/-- The first poisoned line of a core frame among those that are restored eagerly: all but the grid rows (R373). -/
def frameBad (s : State) (fr : Nat) : Option Nat :=
  (unitsOf 256 fr 0x2_4040 ++ unitsOf 256 (fr + 0x3_4040) 64).find? s.poisoned

/-- Restore the core that moves from its frame and from what the task kept (R371, R373, R374); a qldz decodes and checks the block of
its next step again (R192). Poison among the lines that are restored goes to the first instruction, as cause 0x0C with the block held;
the frame has no virtual address, so TVAL is the line's physical one (assumption log 58). Its qldz have their decompressors back at once, without
a grant, be there more than four in use in the cluster then: DESIGN CHOICE (R179, R192, R257; assumption log 67). -/
def restoreCore (s : State) (t : Task) (v : SavedCore) (fr : Nat) (entry : BitVec 32) : State :=
  let rd (pa : Nat) : Word := BitVec.ofNat 64 (s.readNat pa 8)
  let s1 := s.updCore fun c =>
    { c.discard with
      regs := Vector.ofFn fun i : Fin 32 => if i.val = 0 then 0 else rd (fr + 8 * i.val)
      pc := setField (rd (fr + 0xFF8)) 0 1 0, task := some t.id, prev := none, front := none, run := .running, frame := some fr
      masks := Vector.ofFn fun i : Fin 24 => BitVec.ofNat 128 (s.readNat (fr + 0x1000 + 16 * i.val) 16)
      wins := Vector.ofFn fun i : Fin 8 => windowAt (rd (fr + 0x1200 + 8 * i.val))
      grid := s.lazyRows (fr + 0x3_4040) 1 (s.lazyRows (fr + 0x2_4000) 0 [])
      ctrs := v.ctrs, queues := v.queues, streams := v.streams.map fun (x : Stream) => { x with dzImg := [], era := x.era + 1 }
      blk := v.held, blkAt := v.heldAt, fw := v.fw, awins := v.awins, awdecl := v.awdecl
      openN := s.openAt t v entry, now := v.now, sealPtr := v.sealPtr, rin := if t.member then zext entry else c.rin }
  let s2 := taskCsrs.foldl (fun s n =>
    match n with
    | 0x000 => s.updCore fun c =>
      let w := rd (fr + 0x100)
      { c with status := setField (setField (w &&& 0x3_773F) 2 2 (min 1 (fieldNat w 2 2))) 0 2 (min 2 (fieldNat w 0 2)) }
    | _ => s.csrWrite n (rd (fr + 0x100 + 8 * n))) s1
  let s3 := if t.member then s2.withdrawArrival else s2
  match s.frameBad fr with
  | none => s3.reissue s3.nextCmd v.block
  | some line =>
    s3.updCore fun c =>
      { c.enterRuntime false 0x0C (BitVec.ofNat 64 line) c.pc c.pc with blk := v.block, blkAt := s3.nextCmd }

/-- Can the saved ranges of a task come back to their offsets (R370). -/
def spadsFit (s : State) (t : Task) : Bool :=
  t.spads.all fun p =>
    let used := s.spadUsed [] p.1.cluster
    ((p.1.off, p.1.size) :: p.1.copies).all (fun r =>
      used.all fun u => decide (u.2 = 0) || decide (r.2 = 0) || decide (u.1 + u.2 ≤ r.1) || decide (r.1 + r.2 ≤ u.1))
      && decide (s.clusterNb [] p.1.cluster + t.nb ≤ 64)
      && decide ((s.tagtab.filter fun e => e.cluster == p.1.cluster).length + p.2.length ≤ 1024)

/-- Put a saved range back (R370): bytes, sequence tags, poison and tag-table entries. -/
def putSpad (s : State) (p : SavedSpad × List TagEnt) : State :=
  let lo := spadBase + p.1.cluster * spadBytes + p.1.off
  let s1 := s.zeroSpad lo p.1.size
  { s1 with
    mem := p.1.bytes.foldl (fun m b => Sp.put 0 m (lo + b.1) b.2) s1.mem
    seqtags := p.1.tags.foldl (fun m b => Sp.put 0 m ((lo - spadBase) / 4096 + b.1) b.2) s1.seqtags
    poison := p.1.pois.foldl (fun m b => Sp.put false m (lo + b.1) b.2) s1.poison
    tagtab := s1.tagtab ++ p.2 }

/-- May a pre-empted task resume now (R28, R374): its cores and its saved ranges are free, no task of its class and partition that arrived
before it is pre-empted still, and nothing that has waited too long needs what it takes. -/
def mayResume (s : State) (t : Task) : Bool :=
  t.state == .preempted && s.launches t.part && !(t.cores.any fun n => s.coreHeld [] n || (s.getCore n).run == .fenced)
    && s.spadsFit t && !(s.tasks.any fun o => o.state == .preempted && o.part == t.part && o.cls == t.cls && decide (o.order < t.order))
    && !s.agedBlock t.waiter

/-- A pre-empted task resumes (R374): its saved ranges come back, and each core whose halt has not retired restores its frame (R373,
R384). -/
def resumeTask (s : State) (t : Task) : State :=
  let live := t.cores.filter fun n => !t.halted.contains n
  let entry := s.entryInterval
  let s1 := (t.frames.filter fun f => decide (1000 ≤ f.1) || live.contains f.1).foldl (fun s f =>
    s.meterMem t.part f.2 (if f.1 < 1000 then frameReads else frameBytes f.1) 0) (t.spads.foldl putSpad s)
  let t1 : Task := { t with
    state := .running, saved := [], spads := [], aged := false
    resv := t.resv ++ t.spads.map fun p => (p.1.cluster, p.1.off, p.1.size)
    copies := t.copies ++ t.spads.flatMap fun p => p.1.copies.map fun r => (p.1.cluster, r)
    frames := t.frames.filter fun f => decide (f.1 < 1000) }
  let s2 := { s1.modTask t.id fun _ => t1 with lastPart := Sp.put 0 s1.lastPart t.cls ((t.part + 1) % 16) }
  live.foldl (fun s n =>
    match t.saved.find? (fun v => v.core == n), t.frames.find? (fun f => f.1 == n) with
    | some v, some f => s.asCore n fun s => s.restoreCore t1 v f.2 entry
    | _, _ => s) s2

/-- The scheduler's choice (R363, R374), with the deficits after it. -/
def choose (s : State) : State × Option (Task ⊕ Cand) :=
  s.pick (s.tasks.filter s.mayResume) (s.candidates.filter fun c => (s.grantable c).isSome)

/-- RESERVE_ATTEMPT (R363, R364, R368, R374): the scheduler on the lowest-numbered working die serves one record or one pre-empted task. -/
def reserveAttempt (s : State) (die : Nat) : State :=
  if s.liveDies.head? ≠ some die || !s.launching then s
  else
    match (s.candidates.foldl askPlace ([0, 1, 2, 3].foldl capIdle s)).choose with
    | (s1, some (.inl t)) => s1.dropAnswers.resumeTask t
    | (s1, some (.inr c)) =>
      (match s1.grantable c with
        | some xs => (s1.dropAnswers.grantRecord c xs).useAnswer c
        | none => s1)
    | (s1, none) => (s1.preemptFor (s1.candidates.filter fun c => c.r.level == 0 && (s1.grantable c).isNone)).dropAnswers

/-- TASK_RESUME (R374): the task resumes where it is the one that the scheduler serves. -/
def taskResume (s : State) (id : Nat) : State :=
  match ([0, 1, 2, 3].foldl capIdle s).choose with
  | (s1, some (.inl t)) => if t.id = id then s1.resumeTask t else s
  | (_, some (.inr _)) | (_, none) => s

end State

/-! ### Events of translation (R219 to R227, R389) -/

/-- PAGE_WALK (R219, R221): none reads its tables between STOP and RUN (R323, R324). -/
def execPageWalk (va : Word) (s : State) : Out := .next (if s.dom.state.commits then s.pageWalk va else s)

/-- HOST_ANSWER (R389): the host writes ANSTAG and then ANSVAL. No partition exists after a boot that stopped (R398). -/
def execHostAnswer (part : Nat) (tag value : Word) (s : State) : Out :=
  if 16 ≤ part || s.boot.status ≠ 0 then .next s
  else .next (((s.devWrite true (.pcb part 0x048) (BitVec.allOnes 64) tag).1.devWrite true (.pcb part 0x050) (BitVec.allOnes 64)
    value).1)

/-- INVALIDATION (R227): INVCTL is written. No partition exists after a boot that stopped (R398). -/
def execInvalidation (part : Nat) (ctl : Word) (s : State) : Out :=
  if 16 ≤ part || s.boot.status ≠ 0 then .next s else .next (s.devWrite true (.tcb part 0x038) (BitVec.allOnes 64) ctl).1

namespace State

/-- Does an access of the partition that used a translation which the invalidation dropped, or one of its range, have still to be performed
(R225, R227): of an accepted command in any state, of a stream or an entry whose pages a probe found, or of the scalar side. -/
def mapsHeld (s : State) (p : Nat) : Bool :=
  let x := s.getPart p
  let hit (va : Nat) : Bool := unitInv x.invrun x.invpages va || x.invdrop.any fun d => decide (d.1 ≤ va) && decide (va < d.1 + 2 ^ d.2)
  let held (m : List (Nat × Nat)) : Bool := m.any fun q => hit (q.1 * 2 ^ 17)
  (s.cmds.any fun c => c.part == p && (match c.op with
    | .xfer _ _ _ sm dm => held sm || held dm
    | .send x => held x.smap || held x.rmap
    | .recv x => held x.dmap
    | .xdz _ _ _ | .dztab _ _ => false))
  || s.tasks.any fun t => t.part == p
    && ((t.saved.any fun v => v.streams.any fun x => held x.maps)
      || t.cores.any fun n =>
        let c := s.getCore n
        c.task == some t.id && ((match c.load with | some w => hit w.va.toNat | none => false) || !c.sbuf.isEmpty
          || (c.flight.any fun e => held e.maps) || c.streams.any fun x => held x.maps))

end State

/-- INVALIDATION_COMPLETE (R227): accesses through dropped translations have been performed. -/
def execInvalidationComplete (part : Nat) (s : State) : Out := .next (if s.mapsHeld part then s else s.finishInv part)

/-! ### Events of the launch unit (R353 to R367) -/

/-- A write of a queue descriptor's doubleword by the host; a boot that stopped left none (R398). -/
def State.writeDesc (s : State) (part q off : Nat) (v : Word) : State :=
  if 16 ≤ part || 8 ≤ q || s.boot.status ≠ 0 then s else (s.devWrite true (.area part (q * 0x40 + off)) (BitVec.allOnes 64) v).1

def execQueueEnable (part q : Nat) (ctl : Word) (s : State) : Out := .next (s.writeDesc part q 0x08 (setField ctl 63 1 1))
def execQueueDestroy (part q : Nat) (ctl : Word) (s : State) : Out := .next (s.writeDesc part q 0x08 (setField ctl 63 1 0))
def execTailWrite (part q : Nat) (v : Word) (s : State) : Out := .next (s.writeDesc part q 0x18 v)
def execRecordFetch (part q : Nat) (s : State) : Out := .next (s.recordFetch part q)
def execWaitPoll (part q : Nat) (s : State) : Out := .next (s.waitPoll part q)
def execReserveAttempt (die : Nat) (s : State) : Out := .next (s.reserveAttempt die)
def execReserveAgeExpiry (part q : Nat) (s : State) : Out := .next (s.ageExpiry part q)
def execTaskDispatch (part q : Nat) (s : State) : Out := .next (s.taskDispatch part q)

/-! ### Events of pre-emption (R369, R374) and kills (R367) -/

def execPreemptDrain (s : State) : Out := .next s.preemptDrain
def execPreemptSave (s : State) : Out := .next s.preemptSave
def execPreemptGone (s : State) : Out := .next s.preemptGone
def execTaskResume (task : BitVec 32) (s : State) : Out := .next (s.taskResume task.toNat)

/-- KILL (R367): management writes the task's number to its partition's launch area. -/
def execKill (task : BitVec 32) (s : State) : Out := .next (if s.boot.status ≠ 0 then s else s.killTask task.toNat)

end Sys2Proof.Machine
end

