-- ==== Sys2Proof/Machine/Recovery.lean ====
section
/-! DEFINITION. Sys2Proof/Machine/Recovery.lean: the events of recovery (R309 to R333): arrival and commit, stalls beyond their
limit, domain faults, the states of a rollback, lane sparing, poison and the fencing of a die. An event whose condition
does not hold leaves the machine as it is (assumption log 1). -/

namespace Sys2Proof.Machine

/-! ### Arrival, commit and stalls (R309, R315, R316, R320) -/

/-- SEAL_AGENT_ARRIVE (R315). -/
def execSealAgentArrive (die : Nat) (n : Word) (s : State) : Out := .next (s.sealAgentArrive die (bits n 0 32))

/-- ARRIVE (R316): the meridian takes an ARRIVE(n) of a device of the domain, and broadcasts COMMIT when it can. -/
def execArrive (dev : Nat) (n : Word) (sealed : Bool) (s : State) : Out :=
  .next (if s.isMeridian && s.dom.members.contains dev then (s.takeArrive dev (bits n 0 32) sealed).tryCommit else s)

/-- COMMIT(n) reaches the device (R316): commits come in the order of their intervals. -/
def execCommit (n : Word) (s : State) : Out :=
  .next (if s.dom.state.commits && bits n 0 32 == s.dom.datum + 1 then s.applyCommit (bits n 0 32) else s)

/-- A partition whose write waits for capacity reaches its stall limit (R309, R320, R322). -/
def State.stallLimit (s : State) : State := if s.parts.toList.any (·.lstall) then s.raiseDomainFault 1 else s

/-- LOG_STALL_TIMEOUT (R309). -/
def execLogStallTimeout (s : State) : Out := .next s.stallLimit

/-- HOLD_STALL_TIMEOUT (R320). -/
def execHoldStallTimeout (s : State) : Out := .next s.stallLimit

/-! ### Domain faults and rollback (R322 to R325, R329) -/

/-- Jorhin fences a unit (R329): a core, whose issued stores are performed (R428), an engine of a cluster, or the egress quantiser of a
link. -/
def State.fenceUnit (s : State) (u : FencedUnit) : State :=
  match u with
  | .core n => if n < 96 then (s.performStores n).modCore n fun c => { c.discard with run := .fenced } else s
  | .engine q k => { s with badUnits := s.badUnits ++ [(q, match k with | .transfer => 0 | .decomp => 1 | .loader => 3)] }
  | .quantiser l => { s with badUnits := s.badUnits ++ [(l, 2)] }

/-- DOMAIN_FAULT (R322): with it Jorhin may fence the unit whose test failed (R329). -/
def execDomainFault (cause : Nat) (unit : Option FencedUnit) (s : State) : Out :=
  .next ((match unit with | some u => s.fenceUnit u | none => s).raiseDomainFault cause)

/-- DOMAIN_FAULT_REPORT (R323): the meridian takes a device's report and broadcasts ROLLBACK(d): d is its DATUM, once it has
applied every COMMIT that it broadcast; a second fault before RESUME takes the same d. -/
def execDomainFaultReport (dev _cause : Nat) (s : State) : Out :=
  .next
    (if !s.isMeridian || !s.dom.members.contains dev then s
     else if s.dom.state.commits then
       if s.dom.bcast ≠ s.dom.datum then s
       else { s with dom := { s.dom with state := .fault, dones := [] } }.sendMsg (.rollback s.dom.datum)
     else { s with dom := { s.dom with dones := [] } }.sendMsg (.rollback s.dom.target))

/-- ROLLBACK(d) (R323). -/
def execRollback (d : Word) (s : State) : Out := .next (s.enterStop (bits d 0 32))

/-- ROLLBACK_RESTORE (R323): one die restores its segment. -/
def execRollbackRestore (die : Nat) (s : State) : Out :=
  .next (match s.dom.state with
    | .stop | .restore =>
      if s.liveDies.contains die && !s.dom.restored.contains die then s.restoreDie die else s
    | .run | .fault | .clean | .reported => s)

/-- ROLLBACK_CLEAN (R323): once every die has restored its records. -/
def execRollbackClean (s : State) : Out :=
  .next (if s.dom.state == .restore && s.liveDies.all fun d => s.dom.restored.contains d then s.cleanDomain else s)

/-- ROLLBACK_REPORT (R323, R325). -/
def execRollbackReport (s : State) : Out :=
  .next (if s.dom.state == .clean then s.reportDomain.tryResume else s)

/-- ROLLBACK_DONE (R323): the meridian takes DONE of a device. -/
def execRollbackDone (dev : Nat) (s : State) : Out :=
  .next (if s.isMeridian && s.dom.members.contains dev && !s.dom.dones.contains dev then
      { s with dom := { s.dom with dones := s.dom.dones ++ [dev] } }.tryResume
    else s)

/-- RESUME (R323): the device is in RUN again. -/
def execResume (s : State) : Out :=
  .next (if s.dom.state == .reported then { s with dom := { s.dom with state := .run } } else s)

/-! ### Lanes, poison and dies (R330, R331, R333) -/

/-- LANE_SPARING (R330): at a GIQ boundary of the core that moves, a spare takes the place of a lane. A core that runs below firmware
level enters it (R27). -/
def execLaneSparing (lane : BitVec 7) (s : State) : Out :=
  .next (if s.core.flight.all (·.fin) && decide (s.core.spares.length < 2) then
      s.updCore fun c =>
        let c1 := { c with spares := c.spares ++ [lane.toNat] }
        if c.run == .running && s.pl != 2 then c1.enterFirmware c.pc [] 0 else c1
    else s)

/-- POISON (R331): the unit is the address of a line or granule, or 2^48 and the place of a log record from the newest. -/
def execPoison (unit : Nat) (s : State) : Out :=
  .next (if 2 ^ 48 ≤ unit then { s with undo := s.undo.modify (unit - 2 ^ 48) fun (r : UndoRec) => { r with bad := true } }
    else match s.region unit with
      | .hbm | .tier2 | .spad =>
        { s with poison := Sp.put false s.poison (unit / poisonUnit (s.region unit) * poisonUnit (s.region unit)) true }
      | .dev | .host | .absent => s)

/-- DIE_FENCE (R333): the tasks with a core on the die are killed, its cores are fenced, its log segment and the held stores
of its hold buffer are gone, its links are lost together, its memory reads as poison, and the surviving dies may all have arrived. -/
def execDieFence (die : Nat) (s : State) : Out :=
  .next (if 4 ≤ die || s.deadDies.contains die then s
    else
      let dead := (s.tasks.filter fun t => t.cores.any fun n => State.coreDie n == die).map (·.id)
      let s1 := dead.foldl State.killTask s
      let s2 := s1.modCores ((List.range 24).map fun i => die * 24 + i) fun _ c => { c.release with run := .fenced }
      let s3 := { s2 with
        deadDies := s2.deadDies ++ [die]
        undo := s2.undo.filter fun r => s2.dieOf r.line != die
        held := s2.held.filter fun h => h.die != die }
      (((s3.dropSealRequests s).linksLost [3 * die, 3 * die + 1, 3 * die + 2]).survivorsArrive).tell (.vector 67))

end Sys2Proof.Machine
end

