-- ==== Sys2Proof/Machine/LinkEvents.lean ====
section
/-! DEFINITION. Sys2Proof/Machine/LinkEvents.lean: the events of the device links (R336, R339, R344, R349, R350, R388). -/

namespace Sys2Proof.Machine

/-- FLIT_TRANSMIT (R344): the link layer accepts the next flit of a send. -/
def execFlitTransmit (id : Nat) (s : State) : Out := .next (s.transmit id)

/-- FLIT_RECEIVE (R336, R346). -/
def execFlitReceive (f : FlitIn) (s : State) : Out := .next (s.receive f)

/-- REPLAY_REQUEST (R336). -/
def execReplayRequest (link seq : Nat) (s : State) : Out := .next (s.replay link seq)

/-- LINK_RETRAIN (R336). -/
def execLinkRetrain (link : Nat) (s : State) : Out := .next (s.retrain link)

/-- LINK_LOST (R336, R350): a training link that is not up within 20 ms is lost. -/
def execLinkLost (link : Nat) (s : State) : Out :=
  .next (if (s.links.getD link Link.init).state = 1 then s.linkLost link else s)

/-- LINK_UP (R336). -/
def execLinkUp (link peer : Nat) (s : State) : Out := .next (s.linkUp link peer)

/-- CREDIT (R339, R346). -/
def execCredit (id : Nat) (peer : List Byte) (s : State) : Out := .next (s.takeCredit id peer)

/-- CANCEL_NOTICE (R349). -/
def execCancelNotice (id : Nat) (s : State) : Out := .next (s.cancelNotice id)

/-- RETRAIN_START (R388). -/
def execRetrainStart (link : Nat) (s : State) : Out := .next (s.retrainStart link)

end Sys2Proof.Machine
end

