-- ==== Sys2Proof/Machine/Partitions.lean ====
section
/-! DEFINITION. Sys2Proof/Machine/Partitions.lean: the events of partitions and of the host (R380 to R394): messages, meters,
partition reset and teardown, energy, the CXL memory window, and management's register writes. -/

namespace Sys2Proof.Machine
namespace State

/-- A write of management to a register of the partition control block (R380); a boot that stopped left none (R398). -/
def managePcb (s : State) (part off : Nat) (v : Word) : State :=
  if s.boot.status ≠ 0 then s else (s.devWrite true (.pcb part off) 0xFFFF_FFFF_FFFF_FFFF v).1

/-- A write of the core that moves to a register of its partition's control block (R380). -/
def corePcb (s : State) (off : Nat) (v : Word) : State :=
  (s.devWrite false (.pcb s.part off) 0xFFFF_FFFF_FFFF_FFFF v).1

/-! ### Reset and teardown (R391, R392) -/

/-- DRAIN: the partition's engine and link commands are cancelled; walks in flight install nothing. -/
def resetDrain (s : State) (p : Nat) : State :=
  if (s.getPart p).stage == .quiesce && s.tasks.all fun t => t.part != p then
    { s with cmds := s.cmds.filter fun c => c.part != p
             walks := s.walks.filter fun w => w.part != p }.modPart p fun x => { x with stage := .drain, answers := [] }
  else s

/-- FLUSH: the partition's writes are performed or dropped; held ones have not committed and are dropped. -/
def resetFlush (s : State) (p : Nat) : State :=
  if (s.getPart p).stage == .drain && s.cmds.all fun c => c.part != p then
    { s with held := s.held.filter fun h => h.part != p }.modPart p fun x => { x with stage := .flush, lstall := false }
  else s

/-- Is a byte in a unit that the partition's grant table grants (R381). -/
def grantedByte (s : State) (p pa : Nat) : Bool :=
  match s.region pa with
  | .hbm => s.grantBit p (pa / 2 ^ 17)
  | .tier2 => s.grantBit p (4194304 + (pa - tierBase) / 2 ^ 21)
  | .host => s.grantBit p (5767168 + (pa - hostBase) / 2 ^ 30)
  | .spad | .dev | .absent => false

/-- Zero every granted unit and clear the grant table (R391 SCRUB with RELEASE). -/
def releaseUnits (s : State) (p : Nat) : State :=
  let base := (s.getPart p).grantbase.toNat
  let goes (pa : Nat) : Bool := s.grantedByte p pa || (decide (base ≤ pa) && decide (pa < base + 737280))
  { s with mem := s.mem.filter fun c => !goes c.1
           poison := s.poison.filter fun c => !goes c.1 }.modCores allCores fun _ c =>
    { c with resv := c.resv.filter fun g => !goes g.1 }

/-- SCRUB: the state of the partition's cores and clusters is zeroed and its undo records are freed, which ends the seal requests of shares that
fall below 75% by it (R309); with RELEASE its units are
zeroed too, for which the grant table is read: not between STOP and RUN of a rollback (R324), where this step waits. -/
def resetScrub (s : State) (p : Nat) : State :=
  let x := s.getPart p
  if x.stage == .flush && (!x.release || s.dom.state.commits) then
    let qs := (List.range 24).filter (bitNat x.clusters)
    let s1 := s.modCores (qs.flatMap fun q => (List.range 4).map fun i => q * 4 + i) fun _ c => c.zeroGrid
    let s2 := qs.foldl (fun s q => s.zeroSpad (spadBase + q * spadBytes) spadBytes) s1
    let s3 := { s2 with
      tagtab := s2.tagtab.filter fun e => !qs.contains e.cluster
      undo := s2.undo.filter fun r => r.part != p }
    ((if x.release then s3.releaseUnits p else s3).modPart p fun x => { x with stage := .scrub }).dropSealRequests s
  else s

/-- FREE: the clusters return to management. -/
def resetFree (s : State) (p : Nat) : State :=
  if (s.getPart p).stage == .scrub then
    s.modPart p fun x => { x with stage := .none, pstate := 0, clusters := 0 }
  else s

/-! ### Energy (R384) -/

/-- One partition's part of a die's energy: its whole millijoules are counted and the rest kept. -/
def energyPart (die mj total : Nat) (s : State) (p : Nat) : State :=
  let k := p * 4 + die
  let e : Rat := ((mj * Sp.get 0 s.coreTime k : Nat) : Rat) / ((total : Nat) : Rat) + Sp.get 0 s.energy k
  { s with energy := Sp.put 0 s.energy k (e - (e.floor : Rat)) }.meter p 9 e.floor.toNat

/-- A die's energy of the last millisecond is divided in proportion to core-active cycles; with none there is nobody to count
it for (assumption log 10). -/
def apportion (s : State) (die mj : Nat) : State :=
  let total := ((List.range 16).map fun p => Sp.get 0 s.coreTime (p * 4 + die)).sum
  let s1 := if total = 0 then s else (List.range 16).foldl (energyPart die mj total) s
  { s1 with coreTime := s1.coreTime.filter fun c => c.1 % 4 != die }

/-! ### The host (R393, R394) -/

/-- Does a host access lie in the memory window (R394). -/
def inWindow (s : State) (pa n : Nat) : Bool :=
  decide (s.hdmBase ≤ pa) && decide (pa + n ≤ s.hdmBase + 2 ^ 36) && decide (pa + n ≤ hbmBytes)

/-- An access through the window: a read returns the bytes; a write is logged for partition 0 (R306, R307) and waits, its event without
effect, while it lacks capacity (R309). R307 gives the host's record no more than the PART 0 of its header: DESIGN CHOICE, it counts against
the share of partition 0 in all that a record of that partition does, LOGMIB, stall, seal request and meter 0x068 (assumption log 72). -/
def hostAccess (s : State) (pa : Nat) (acc : HostAcc) : State :=
  match acc with
  | .read n => if s.inWindow pa n then s.tell (.memRead (s.readBytes pa n)) else s
  | .write bs =>
    if s.inWindow pa bs.length && !s.lost pa then
      let w : Wr := ⟨0, s.entryInterval, false, s.dieOf pa, none⟩
      if s.writeStalls w pa bs.length then s.setLstall 0
      else
        ((unitsOf 256 pa bs.length).foldl (fun s l =>
          (s.logLine w l).sealThreshold 0 (s.dieOf l) (s.occupancy 0 (s.dieOf l))) s).landBytes pa bs
    else s

/-- A setting of management that the spec gives no address (assumption log 14): 2^63 the base of the memory window (R394),
2^63 + 1 DEVID (R107), 2^63 + 2 and 2^63 + 3 a device that joins or leaves the domain (R301). -/
def setting (s : State) (k : Nat) (v : Word) : State :=
  match k with
  | 0 => { s with hdmBase := v.toNat / 2 ^ 36 * 2 ^ 36 }
  | 1 => { s with devid := v.toNat % 65536
                  dom := { s.dom with members := s.dom.members.map fun d => if d = s.devid then v.toNat % 65536 else d } }
  | 2 => if s.dom.members.contains (v.toNat % 65536) then s
    else { s with dom := { s.dom with members := s.dom.members ++ [v.toNat % 65536] } }
  | 3 => if v.toNat % 65536 = s.devid then s
    else { s with dom := { s.dom with members := s.dom.members.filter fun d => d != v.toNat % 65536 } }
  | _ => s

end State

/-! ### The events -/

/-- MSGBELL (R387). -/
def execMsgbell (part : Nat) (v : Word) (s : State) : Out := .next (s.managePcb part 0x058 v)
/-- MSGACK (R380, R387). -/
def execMsgack (v : Word) (s : State) : Out := .next (s.corePcb 0x060 v)
/-- OUTBELL (R380, R386). -/
def execOutbell (v : Word) (s : State) : Out := .next (s.corePcb 0x068 v)
/-- MRESET (R380, R385). -/
def execMreset (part : Nat) (v : Word) (s : State) : Out := .next (s.managePcb part 0x0D0 v)
/-- PARTITION_RESET (R391): GO without RELEASE. -/
def execPartitionReset (part : Nat) (s : State) : Out := .next (s.managePcb part 0x0D8 0x8000_0000_0000_0000)
/-- PARTITION_TEARDOWN (R391): GO with RELEASE. -/
def execPartitionTeardown (part : Nat) (s : State) : Out := .next (s.managePcb part 0x0D8 0x8000_0000_0000_0002)
def execResetDrain (part : Nat) (s : State) : Out := .next (s.resetDrain part)
def execResetFlush (part : Nat) (s : State) : Out := .next (s.resetFlush part)
def execResetScrub (part : Nat) (s : State) : Out := .next (s.resetScrub part)
def execResetFree (part : Nat) (s : State) : Out := .next (s.resetFree part)
/-- ENERGY_APPORTION (R384). -/
def execEnergyApportion (die : Nat) (mj : Nat) (s : State) : Out := .next (s.apportion die mj)
/-- HOST_MEM_ACCESS (R394): held from STOP until RUN (R323, R324); a boot that stopped brings up no CXL.mem (R398). -/
def execHostMemAccess (pa : Word) (acc : HostAcc) (s : State) : Out :=
  .next (if s.dom.state.commits && s.boot.status == 0 then s.hostAccess pa.toNat acc else s)
/-- REGISTER_WRITE (R5, R213): management writes a doubleword register. A write of the route table may cut a device off (R315). R393 puts BAR0
in CXL.io, which R398 leaves up after a boot that stopped, and no rule says what a write of a register does then: DESIGN CHOICE, it has no
effect (assumption log 72). -/
def execRegisterWrite (pa v : Word) (s : State) : Out :=
  .next (if s.boot.status ≠ 0 then s
    else if pa.getLsbD 63 then s.setting (pa.toNat - 2 ^ 63) v
    else (s.devWrite true (devReg pa.toNat) 0xFFFF_FFFF_FFFF_FFFF v).1.checkRoute s)

end Sys2Proof.Machine
end

