-- ==== Sys2Proof/Machine/BootSpdm.lean ====
section
/-! DEFINITION. Sys2Proof/Machine/BootSpdm.lean: package reset, boot and attestation (R395 to R398). Digests, signatures, keys
and the bytes of an answer are free values; which request is answered, and with which measurements, is the model's
(assumption log 9). An SPDM answer is numbered by its request in the order of R397 from 1; 0 is ERROR. -/

namespace Sys2Proof.Machine

/-- The measurements 1 to 7 after boot stopped at stage `stop`, 0 for success (R395, R398): those of completed stages, the fused
versions, and the boot status. -/
def measurements (image : List Byte) (stop : Nat) : List (List Byte) :=
  ([1, 2, 3, 4, 5].map fun i => if stop = 0 || i < stop then Config.digest i image else [])
    ++ [Config.digest 6 image, [BitVec.ofNat 8 stop]]

/-- The stage at which boot stops (R395): 0, or one of the five stages. -/
def bootStop (image : List Byte) : Nat := Config.bootCheck image % 6

/-- Boot as far as it goes (R395, R396): the identity key comes from the seed that the SRAM function gives, the alias key after stage 3 from
the seed and measurements 2 and 3. -/
def bootOf (image : List Byte) : Boot :=
  let stop := bootStop image
  let m := measurements image stop
  { booted := stop == 0, status := stop, meas := m, idKey := Config.identityKey Config.identitySeed
    akey := if stop = 0 || 3 < stop then Config.aliasKey Config.identitySeed (m.getD 1 []) (m.getD 2 []) else [] }

namespace State

/-- The partition table creates partition `p` (R379, R395), if it names it: active, with the clusters that the table gives it, and with the
weights, limits, grant table, tenant and page table of the table (assumption log 9). A cluster has one owner. -/
def createPart (image : List Byte) (s : State) (p : Nat) : State :=
  if !Config.tableHas p image then s
  else
    let word (off : Nat) : Word := Config.tableWord p off image
    let qs := ((List.range 24).filter fun q => Config.tableOwner q image == p).map (2 ^ ·)
    let set (s : State) (r : DevReg) (v : Word) : State := (s.devWrite true r (BitVec.allOnes 64) v).1
    let s1 := s.modPart p fun x => { x with pstate := 1, clusters := qs.sum }
    let s2 := [0x008, 0x010, 0x018, 0x070].foldl (fun s off => set s (.pcb p off) (word off)) s1
    set s2 (.tcb p 0) (word 0x1000)

end State

/-- PACKAGE_RESET (R395): the package is as after reset, boot runs, a boot that succeeds creates the partitions, and vector 64 reports its status (R386). Which events come next
and which agents the model paces stay; fresh values go on (assumption logs 1, 2, 5). -/
def execPackageReset (image : List Byte) (s : State) : Out :=
  let s1 := { State.reset with
    agenda := s.agenda, lagLoads := s.lagLoads, lagStores := s.lagStores, lagGrid := s.lagGrid, lagEng := s.lagEng, free := s.free
    boot := bootOf image }
  .next ((if bootStop image = 0 then (List.range 16).foldl (State.createPart image) s1 else s1).tell (.vector 64))

namespace State

/-- Answer a request: its number and the bytes. -/
def spdmAnswer (s : State) (code : Nat) (body : List Byte) : State := s.tell (.spdm code body)

/-- ERROR. -/
def spdmError (s : State) : State := s.spdmAnswer 0 []

def setSpdm (s : State) (f : Spdm → Spdm) : State := { s with spdm := f s.spdm }

/-- A request that needs the connection to have come to `phase`: nothing answers before a boot, and ERROR answers a request out of
its order (assumption log 9). -/
def spdmAt (s : State) (phase : Nat) (f : State → State) : Out :=
  .next (if s.boot.meas.isEmpty then s else if s.spdm.phase < phase then s.spdmError else f s)

/-- A request inside an established session. -/
def inSession (s : State) (sid : Nat) (f : State → State) : Out :=
  s.spdmAt 3 fun s => if s.spdm.sessions.contains (sid, true) then f s else s.spdmError

end State

/-- GET_VERSION (R397): a new connection. -/
def execGetVersion (s : State) : Out :=
  s.spdmAt 0 fun s => (s.setSpdm fun x => { x with phase := 1, sessions := [] }).spdmAnswer 1 (Config.spdmBody 1 0 [])

/-- The capabilities of the responder (R397). -/
def spdmCaps : List SpdmCap := [.cert, .chal, .measSig, .keyEx, .mac, .encrypt, .hbeat, .keyUpd]

/-- The algorithms of the responder (R397). -/
def spdmAlgs : List SpdmAlg := [.hashSm3, .measHashSm3, .signSm2, .kexSm2, .aeadSm4Gcm]

/-- GET_CAPABILITIES (R397): the answer names the capabilities. -/
def execGetCapabilities (s : State) : Out :=
  s.spdmAt 1 fun s =>
    ((s.setSpdm fun x => { x with phase := max x.phase 2 }).tell (.spdmCaps spdmCaps)).spdmAnswer 2 (Config.spdmBody 2 0 [])

/-- NEGOTIATE_ALGORITHMS (R397): `offered` says that the requester offers a listed algorithm of each kind; the answer
names those that are taken. -/
def execNegotiateAlgorithms (offered : Bool) (s : State) : Out :=
  s.spdmAt 2 fun s => if offered then
      ((s.setSpdm fun x => { x with phase := 3 }).tell (.spdmAlgs spdmAlgs)).spdmAnswer 3 (Config.spdmBody 3 0 [])
    else s.spdmError

/-- The key that the chain of a slot certifies (R396, R397): slot 0 the identity key, slot 1 the alias key, none after a stopped boot
(R398). -/
def Boot.slotKey (b : Boot) (slot : Nat) : List Byte := if slot = 0 then b.idKey else if b.status = 0 then b.akey else []

/-- GET_DIGESTS (R397): of the chains in the slots. -/
def execGetDigests (s : State) : Out :=
  s.spdmAt 3 fun s => s.spdmAnswer 4 (Config.spdmBody 4 0 (s.boot.slotKey 0 ++ s.boot.slotKey 1))

/-- GET_CERTIFICATE (R397, R398): slot 1 is empty after a stopped boot. -/
def execGetCertificate (slot : Nat) (s : State) : Out :=
  s.spdmAt 3 fun s =>
    if 2 ≤ slot then s.spdmError
    else s.spdmAnswer 5 (if slot = 1 && s.boot.status != 0 then [] else Config.spdmBody 5 slot (s.boot.slotKey slot))

/-- CHALLENGE (R397). -/
def execChallenge (nonce : List Byte) (s : State) : Out :=
  s.spdmAt 3 fun s => s.spdmAnswer 6 (Config.spdmBody 6 0 nonce)

/-- GET_MEASUREMENTS (R397): the measurements and their signature. -/
def execGetMeasurements (nonce : List Byte) (s : State) : Out :=
  s.spdmAt 3 fun s => s.spdmAnswer 7 (s.boot.meas.flatten ++ Config.spdmBody 7 0 nonce)

/-- KEY_EXCHANGE (R397, R398): refused after a stopped boot and beyond four sessions. -/
def execKeyExchange (nonce : List Byte) (s : State) : Out :=
  s.spdmAt 3 fun s =>
    if s.boot.status ≠ 0 || 4 ≤ s.spdm.sessions.length then s.spdmError
    else (s.setSpdm fun x => { x with sessions := x.sessions ++ [(x.nextSid, false)], nextSid := x.nextSid + 1 }).spdmAnswer 8
      (Config.spdmBody 8 s.spdm.nextSid nonce)

/-- FINISH (R397): a session whose requester authenticates is established; another one ends. -/
def execFinish (session : Nat) (mac : List Byte) (s : State) : Out :=
  s.spdmAt 3 fun s =>
    if !s.spdm.sessions.contains (session, false) then s.spdmError
    else
      let rest := s.spdm.sessions.filter fun x => x.1 != session
      if Config.spdmVerify session mac then
        (s.setSpdm fun x => { x with sessions := rest ++ [(session, true)] }).spdmAnswer 9 (Config.spdmBody 9 session mac)
      else (s.setSpdm fun x => { x with sessions := rest }).spdmError

/-- HEARTBEAT (R397). -/
def execHeartbeat (session : Nat) (s : State) : Out :=
  s.inSession session fun s => s.spdmAnswer 10 (Config.spdmBody 10 session [])

/-- KEY_UPDATE (R397). -/
def execKeyUpdate (session : Nat) (s : State) : Out :=
  s.inSession session fun s => s.spdmAnswer 11 (Config.spdmBody 11 session [])

/-- END_SESSION (R397). -/
def execEndSession (session : Nat) (s : State) : Out :=
  s.inSession session fun s =>
    (s.setSpdm fun x => { x with sessions := x.sessions.filter fun y => y.1 != session }).spdmAnswer 12
      (Config.spdmBody 12 session [])

end Sys2Proof.Machine
end

