-- ==== Sys2Proof/Machine/Window.lean ====
section
/-! DEFINITION. Sys2Proof/Machine/Window.lean: the window instructions at dispatch (R46, R119, R138, R142): their operands are
captured, and a type, a count or an unconfigured window that the instruction does not accept is an illegal operand. -/

namespace Sys2Proof.Machine
namespace State

/-- The descriptor of a window in the front-end copy (R15). -/
def win (s : State) (w : Win) : Option Window := s.core.wins.getD w.toNat none

/-- The x register behind a second operand of form 01 (R44). -/
def scalarReg (k : BitVec 3) : Reg := BitVec.ofNat 5 (8 + k.toNat)

/-- A window instruction with its captured operands; `args` is none where a window is unconfigured. A vector rounding mode
of 5 to 7 that the instruction uses is an illegal instruction (R63), before any illegal operand (DESIGN CHOICE, assumption log 17). -/
def windowOp (s : State) (i : Instr) (op : WOp) (rs : List Reg) (ty : BitVec 4) (args : Option WinArgs) : Out :=
  if (ETy.ofCode ty.toNat).any (usesVrm op) && decide (5 ≤ s.core.vstat.vrm) then s.slotA rs fun s => s.illegal i
  else s.slotB i rs 4 ((args.filter fun a => typeOk op a.ty && countsOk op a).map (.win op))

/-- The registers that a two-operand form reads. -/
def formRegs (form : BitVec 2) (ws2 : BitVec 3) : List Reg := if form.toNat = 1 then [scalarReg ws2] else []

/-- The second operand of a form (R44) with its window. -/
def operand2 (s : State) (form : BitVec 2) (ws2 : BitVec 3) : Option (Op2 × Option Window) :=
  match form.toNat with
  | 0 => (s.win ws2).map fun w => (.window, some w)
  | 1 => some (.scalar (s.reg (scalarReg ws2)), none)
  | _ => some (.const ws2.toNat, none)

/-- A two-operand window instruction (R44, R46). -/
def winBin (s : State) (i : Instr) (op : WOp) (f : VBin) : Out :=
  s.windowOp i op (formRegs f.form f.ws2) f.ty (do
    let t ← ETy.ofCode f.ty.toNat
    let d ← s.win f.wd
    let a ← s.win f.ws1
    let b ← s.operand2 f.form f.ws2
    some { ty := t, km := f.km, op2 := b.1, wd := some d, w1 := some a, w2 := b.2 })

/-- A window instruction with one source window. -/
def winUn (s : State) (i : Instr) (op : WOp) (f : VUn) : Out :=
  s.windowOp i op [] f.ty (do
    let t ← ETy.ofCode f.ty.toNat
    let d ← s.win f.wd
    let a ← s.win f.ws1
    some { ty := t, km := f.km, wd := some d, w1 := some a })

/-- A window instruction with no source window (viota, vrowi). -/
def winGen (s : State) (i : Instr) (op : WOp) (f : VGen) : Out :=
  s.windowOp i op [] f.ty (do
    let t ← ETy.ofCode f.ty.toNat
    let d ← s.win f.wd
    some { ty := t, km := f.km, wd := some d })

/-- A window instruction whose ws2 field is a format or a mode. -/
def winTri (s : State) (i : Instr) (op : WOp) (f : VTri) : Out :=
  s.windowOp i op [] f.ty (do
    let t ← ETy.ofCode f.ty.toNat
    let d ← s.win f.wd
    let a ← s.win f.ws1
    some { ty := t, km := f.km, wd := some d, w1 := some a })

/-- vcmp: no destination window, a destination mask (R46, R151). -/
def winCmp (s : State) (i : Instr) (p : Pred) (f : VCmp) : Out :=
  s.windowOp i (.cmp p) (formRegs f.form f.ws2) f.ty (do
    let t ← ETy.ofCode f.ty.toNat
    let a ← s.win f.ws1
    let b ← s.operand2 f.form f.ws2
    some { ty := t, km := f.km, op2 := b.1, w1 := some a, w2 := b.2, kd := f.kd.toNat })

end State

/-! ### Element-wise arithmetic (R144 to R150) -/

def execVadd (f : VBin) (s : State) : Out := s.winBin (.vadd f) (.elem .add) f
def execVsub (f : VBin) (s : State) : Out := s.winBin (.vsub f) (.elem .sub) f
def execVmul (f : VBin) (s : State) : Out := s.winBin (.vmul f) (.elem .mul) f
def execVfma (f : VBin) (s : State) : Out := s.winBin (.vfma f) (.elem .fma) f
def execVfms (f : VBin) (s : State) : Out := s.winBin (.vfms f) (.elem .fms) f
def execVmin (f : VBin) (s : State) : Out := s.winBin (.vmin f) (.elem .min) f
def execVmax (f : VBin) (s : State) : Out := s.winBin (.vmax f) (.elem .max) f
def execVabs (f : VUn) (s : State) : Out := s.winUn (.vabs f) (.elem .abs) f
def execVneg (f : VUn) (s : State) : Out := s.winUn (.vneg f) (.elem .neg) f
def execVand (f : VBin) (s : State) : Out := s.winBin (.vand f) (.elem .and) f
def execVor (f : VBin) (s : State) : Out := s.winBin (.vor f) (.elem .or) f
def execVxor (f : VBin) (s : State) : Out := s.winBin (.vxor f) (.elem .xor) f
def execVshl (f : VBin) (s : State) : Out := s.winBin (.vshl f) (.elem .shl) f
def execVshr (f : VBin) (s : State) : Out := s.winBin (.vshr f) (.elem .shr) f
def execVsra (f : VBin) (s : State) : Out := s.winBin (.vsra f) (.elem .sra) f
def execVsel (f : VBin) (s : State) : Out := s.winBin (.vsel f) (.sel) f
def execVclamp (f : VBin) (s : State) : Out := s.winBin (.vclamp f) (.elem .clamp) f
def execVscale2 (f : VBin) (s : State) : Out := s.winBin (.vscale2 f) (.elem .scale2) f
def execVclmul (f : VBin) (s : State) : Out := s.winBin (.vclmul f) (.elem .clmul) f
def execVclmulh (f : VBin) (s : State) : Out := s.winBin (.vclmulh f) (.elem .clmulh) f
def execVcpsgn (f : VBin) (s : State) : Out := s.winBin (.vcpsgn f) (.elem .cpsgn) f

/-! ### Comparisons (R151) -/

def execVcmpEq (f : VCmp) (s : State) : Out := s.winCmp (.vcmpEq f) .eq f
def execVcmpNe (f : VCmp) (s : State) : Out := s.winCmp (.vcmpNe f) .ne f
def execVcmpLt (f : VCmp) (s : State) : Out := s.winCmp (.vcmpLt f) .lt f
def execVcmpLe (f : VCmp) (s : State) : Out := s.winCmp (.vcmpLe f) .le f
def execVcmpGt (f : VCmp) (s : State) : Out := s.winCmp (.vcmpGt f) .gt f
def execVcmpGe (f : VCmp) (s : State) : Out := s.winCmp (.vcmpGe f) .ge f
def execVcmpUnord (f : VCmp) (s : State) : Out := s.winCmp (.vcmpUnord f) .unord f
def execVcmpOrd (f : VCmp) (s : State) : Out := s.winCmp (.vcmpOrd f) .ord f

/-! ### Reductions (R152, R153) -/

def execVrsum (f : VUn) (s : State) : Out := s.winUn (.vrsum f) (.rowRed .sum) f
def execVrmax (f : VUn) (s : State) : Out := s.winUn (.vrmax f) (.rowRed .max) f
def execVrmin (f : VUn) (s : State) : Out := s.winUn (.vrmin f) (.rowRed .min) f
def execVrsumsq (f : VUn) (s : State) : Out := s.winUn (.vrsumsq f) (.rowRed .sumsq) f
def execVcsum (f : VUn) (s : State) : Out := s.winUn (.vcsum f) (.colRed .sum) f
def execVcmax (f : VUn) (s : State) : Out := s.winUn (.vcmax f) (.colRed .max) f
def execVcmin (f : VUn) (s : State) : Out := s.winUn (.vcmin f) (.colRed .min) f

/-! ### Conversions (R154 to R158) -/

/-- vcvt: a source type code of 12 or more does not decode. -/
def execVcvt (f : VUn) (src : BitVec 5) (s : State) : Out :=
  match ETy.ofCode src.toNat with
  | some t => s.winUn (.vcvt f src) (.elem (.cvt t)) f
  | none => s.illegal (.vcvt f src)

def execVquant (f : VTri) (s : State) : Out := s.winTri (.vquant f) (.quant f.ws2.toNat) f
def execVdequant (f : VTri) (s : State) : Out := s.winTri (.vdequant f) (.dequant f.ws2.toNat) f
def execVround (f : VTri) (s : State) : Out := s.winTri (.vround f) (.elem (.round f.ws2.toNat)) f

/-! ### Moves (R159 to R164) -/

def execVmov (f : VUn) (s : State) : Out := s.winUn (.vmov f) (.elem .mov) f

/-- vmov of forms 01 and 10 (R46, R159). -/
def execVmovOp2 (f : VImm) (s : State) : Out :=
  s.windowOp (.vmovOp2 f) (.elem .mov) (State.formRegs f.form f.ws2) f.ty (do
    let t ← ETy.ofCode f.ty.toNat
    let d ← s.win f.wd
    let b ← s.operand2 f.form f.ws2
    some { ty := t, km := f.km, op2 := b.1, wd := some d })

/-- vperm: ws2 is the window of indices (R160). -/
def execVperm (f : VTri) (s : State) : Out :=
  s.windowOp (.vperm f) .perm [] f.ty (do
    let t ← ETy.ofCode f.ty.toNat
    let d ← s.win f.wd
    let a ← s.win f.ws1
    let b ← s.win f.ws2
    some { ty := t, km := f.km, wd := some d, w1 := some a, w2 := some b })

def execVslide (f : VBin) (s : State) : Out := s.winBin (.vslide f) .slide f

/-- vext: the wd field names x(8 + wd) (R46, R162). -/
def execVext (f : VBin) (s : State) : Out :=
  s.windowOp (.vext f) .ext (State.formRegs f.form f.ws2) f.ty (do
    let t ← ETy.ofCode f.ty.toNat
    let a ← s.win f.ws1
    let b ← s.operand2 f.form f.ws2
    some { ty := t, km := f.km, op2 := b.1, w1 := some a, xd := 8 + f.wd.toNat })

def execViota (f : VGen) (s : State) : Out := s.winGen (.viota f) .iota f
def execVcompress (f : VUn) (s : State) : Out := s.winUn (.vcompress f) .compress f
def execVrowi (f : VGen) (s : State) : Out := s.winGen (.vrowi f) .rowi f

/-! ### Special functions (R81, R165) -/

def execVrcp (f : VUn) (s : State) : Out := s.winUn (.vrcp f) (.elem .rcp) f
def execVsqrt (f : VUn) (s : State) : Out := s.winUn (.vsqrt f) (.elem .sqrt) f
def execVrsqrt (f : VUn) (s : State) : Out := s.winUn (.vrsqrt f) (.elem .rsqrt) f
def execVexp2 (f : VUn) (s : State) : Out := s.winUn (.vexp2 f) (.elem .exp2) f
def execVlog2 (f : VUn) (s : State) : Out := s.winUn (.vlog2 f) (.elem .log2) f

/-! ### The event of the pipe (R166) -/

/-- WINDOW_PIPE_VECTOR (R166, R168): one vector, row or element run of the oldest entry of the window pipe, with the outcome of
its residue checks. -/
def execWindowPipeVector (chk : Check) (s : State) : Out := s.runOldest (fun o => o.pipe == 1) true chk

end Sys2Proof.Machine
end

