-- ==== Sys2Proof/Machine/GridInstr.lean ====
section
/-! DEFINITION. Sys2Proof/Machine/GridInstr.lean: the 64-bit tile forms (R121, R122, R126 to R131, R182), the grid loads and stores
(R200) and the stream instructions (R172 to R179) at dispatch, and the events of rows, steps and streams. -/

namespace Sys2Proof.Machine

/-! ### Tile forms -/

/-- wset (R121): the front-end copy changes at dispatch. -/
def execWset (f : WsetF) (s : State) : Out :=
  let w := windowOf f (s.reg f.xo)
  s.slotB (.wset f) [f.xo] 8 (some (.wset f.w.toNat w)) fun c =>
    { c with wins := c.wins.setIfInBounds f.w.toNat (some w) }

/-- wrd (R122). -/
def execWrd (w : Win) (d : Reg) (s : State) : Out :=
  s.slotB (.wrd w d) [] 8 ((s.win w).map fun x => .wrd d.toNat (x.descriptor w.toNat))

/-- ofill (R126). -/
def execOfill (w : Win) (km : KField) (ty : BitVec 4) (v : BitVec 32) (s : State) : Out :=
  s.slotB (.ofill w km ty v) [] 8 ((s.win w).map fun x => .ofill x km v)

/-- gcopy and gtrans (R127). -/
def execGcopy (f : CopyF) (s : State) : Out :=
  s.slotB (.gcopy f) [] 8 (if copyOk false f then some (.copy false f) else none)

def execGtrans (f : CopyF) (s : State) : Out :=
  s.slotB (.gtrans f) [] 8 (if copyOk true f then some (.copy true f) else none)

/-- The entry of a gsave or grest; a row range that leaves its half is an illegal operand (R129). -/
def imageOp (rest : Bool) (f : GimF) (addr : Word) : Option GOp :=
  if f.first.toNat + f.cntm1.toNat + 1 ≤ 128 then
    some (.gimage rest f.half.toNat f.first.toNat (f.cntm1.toNat + 1) addr)
  else none

def execGsave (f : GimF) (s : State) : Out := s.slotB (.gsave f) [f.a] 8 (imageOp false f (s.reg f.a))
def execGrest (f : GimF) (s : State) : Out := s.slotB (.grest f) [f.a] 8 (imageOp true f (s.reg f.a))

/-- oacc (R182, R185). -/
def execOacc (f : OaccF) (s : State) : Out := s.slotB (.oacc f) [] 8 (if oaccOk f then some (.oacc f) else none)

/-! ### Grid loads and stores (R200) -/

/-- The element size in bytes (R47). -/
def glsBytes (sz : BitVec 2) : Nat := match sz.toNat with | 0 => 4 | 1 => 2 | _ => 1

/-- The entry of a strided grid load or store. -/
def State.glsOp (s : State) (k : GlsKind) (f : GlsS) : Option GOp :=
  (s.win f.w).map fun w => .gls k (glsBytes f.sz) w f.km (s.reg f.a) (s.reg f.b) none

/-- The entry of an indexed one: the index window has the data window's count, or 1 (R119). -/
def State.glxOp (s : State) (k : GlsKind) (f : GlsX) : Option GOp :=
  match s.win f.w, s.win f.wi with
  | some w, some wi =>
    if wi.count == w.count || wi.count == 1 then some (.gls k (glsBytes f.sz) w f.km (s.reg f.a) 0 (some wi)) else none
  | _, _ => none

def execGld (f : GlsS) (s : State) : Out := s.slotB (.gld f) [f.a, f.b] 4 (s.glsOp .ld f)
def execGst (f : GlsS) (s : State) : Out := s.slotB (.gst f) [f.a, f.b] 4 (s.glsOp .st f)
def execGldff (f : GlsS) (s : State) : Out := s.slotB (.gldff f) [f.a, f.b] 4 (s.glsOp .ldff f)
def execGldx (f : GlsX) (s : State) : Out := s.slotB (.gldx f) [f.a] 4 (s.glxOp .ldx f)
def execGstx (f : GlsX) (s : State) : Out := s.slotB (.gstx f) [f.a] 4 (s.glxOp .stx f)
def execGstxo (f : GlsX) (s : State) : Out := s.slotB (.gstxo f) [f.a] 4 (s.glxOp .stxo f)

/-! ### Streams (R172, R174) -/

/-- The entry of a stream instruction: its spec is the register pair from `b` (R47), an illegal one an illegal operand. -/
def State.streamOp (s : State) (k : SKind) (c a b : Reg) (idx : Word) (xd : Nat) : Option GOp :=
  (parseSpec k c.toNat (s.reg a) (s.reg b) (s.reg (b + 1))).map fun p => .stream k c.toNat (s.reg a) p idx xd

def execQld (c a b : Reg) (s : State) : Out := s.slotB (.qld c a b) [a, b, b + 1] 4 (s.streamOp .qld c a b 0 0)
def execQldt (c a b : Reg) (s : State) : Out := s.slotB (.qldt c a b) [a, b, b + 1] 4 (s.streamOp .qldt c a b 0 0)

def execQldff (d c a b : Reg) (s : State) : Out :=
  s.slotB (.qldff d c a b) [a, b, b + 1] 4 (s.streamOp .qldff c a b 0 d.toNat)

def execQldx (xi c a b : Reg) (s : State) : Out :=
  s.slotB (.qldx xi c a b) [xi, a, b, b + 1] 4 (s.streamOp .qldx c a b (s.reg xi) 0)

def execQldz (c a b : Reg) (s : State) : Out := s.slotB (.qldz c a b) [a, b, b + 1] 4 (s.streamOp .qldz c a b 0 0)

/-! ### Events -/

/-- OACC_STEP (R184, R191): one step of the oldest oacc, with the outcome of its residue check. -/
def execOaccStep (chk : Check) (s : State) : Out := s.runOldest GOp.isOacc true chk

/-- STREAM_STEP (R174, R180): the serviced stream of a queue forms and places one entry. -/
def execStreamStep (q : BitVec 3) (chk : Check) (s : State) : Out :=
  .next ((s.streamStep q.toNat chk).updCore fun c => c.countReplay chk).askAhead

/-- The absent rows that entries wait for (R125). -/
def Core.demanded (c : Core) : List Nat :=
  ((c.flight.filter fun e => !e.fin && !e.faulted).flatMap Entry.demands).filter fun k => (c.grid.row (k / 128) (k % 128)).absent

/-- May the save engine fetch a row next (R125, R373): one that an entry waits for, and where there is none the lowest absent one, g0 before
g1. -/
def Core.fetchesRow (c : Core) (k : Nat) : Bool :=
  if c.demanded.isEmpty then (List.range 256).find? (fun i => (c.grid.row (i / 128) (i % 128)).absent) == some k
  else c.demanded.contains k

/-- ABSENT_ROW_FETCH (R125, R373): a row in poisoned memory stays absent until an entry needs it. -/
def execAbsentRowFetch (half : BitVec 1) (row : BitVec 7) (s : State) : Out :=
  .next (if s.dom.state.commits && s.core.fetchesRow (half.toNat * 128 + row.toNat) then (s.fetchRow half.toNat row.toNat).1 else s)

/-- SCALAR_LOAD_RETURN (R89, R98): the data of the outstanding load returns; a core that a domain fault stopped takes none (R322). -/
def execScalarLoadReturn (s : State) : Out :=
  match s.core.load with
  | none => .next s
  | some w =>
    if !s.core.run.active then .next s
    else (s.updCore fun c => { c with load := none }).loadReturn (BitVec.ofNat 5 w.rd) w.va w.pa w.n w.sgn w.len

end Sys2Proof.Machine
end

