-- ==== Sys2Proof/Machine/Kop.lean ====
section
/-! DEFINITION. Sys2Proof/Machine/Kop.lean: the mask instructions at dispatch (R135). -/

namespace Sys2Proof.Machine

def execKbound (kd a b : Reg) (s : State) : Out := s.slotB (.kbound kd a b) [a, b] 4 (some (.kop .bound kd.toNat 0 0 (s.reg a) (s.reg b)))
def execKand (kd ka kb : Reg) (s : State) : Out := s.slotB (.kand kd ka kb) [] 4 (some (.kop .and kd.toNat ka.toNat kb.toNat 0 0))
def execKor (kd ka kb : Reg) (s : State) : Out := s.slotB (.kor kd ka kb) [] 4 (some (.kop .or kd.toNat ka.toNat kb.toNat 0 0))
def execKxor (kd ka kb : Reg) (s : State) : Out := s.slotB (.kxor kd ka kb) [] 4 (some (.kop .xor kd.toNat ka.toNat kb.toNat 0 0))
def execKandn (kd ka kb : Reg) (s : State) : Out := s.slotB (.kandn kd ka kb) [] 4 (some (.kop .andn kd.toNat ka.toNat kb.toNat 0 0))
def execKnot (kd ka : Reg) (s : State) : Out := s.slotB (.knot kd ka) [] 4 (some (.kop .not kd.toNat ka.toNat 0 0 0))
def execKmov (kd ka : Reg) (s : State) : Out := s.slotB (.kmov kd ka) [] 4 (some (.kop .mov kd.toNat ka.toNat 0 0 0))
def execKpop (d ka : Reg) (s : State) : Out := s.slotB (.kpop d ka) [] 4 (some (.kop .pop d.toNat ka.toNat 0 0 0))
def execKfirst (d ka : Reg) (s : State) : Out := s.slotB (.kfirst d ka) [] 4 (some (.kop .first d.toNat ka.toNat 0 0 0))
def execKset (kd a b : Reg) (s : State) : Out := s.slotB (.kset kd a b) [a, b] 4 (some (.kop .set kd.toNat 0 0 (s.reg a) (s.reg b)))
def execKgetl (d ka : Reg) (s : State) : Out := s.slotB (.kgetl d ka) [] 4 (some (.kop .getl d.toNat ka.toNat 0 0 0))
def execKgeth (d ka : Reg) (s : State) : Out := s.slotB (.kgeth d ka) [] 4 (some (.kop .geth d.toNat ka.toNat 0 0 0))
def execKzero (kd : Reg) (s : State) : Out := s.slotB (.kzero kd) [] 4 (some (.kop .zero kd.toNat 0 0 0 0))
def execKone (kd : Reg) (s : State) : Out := s.slotB (.kone kd) [] 4 (some (.kop .one kd.toNat 0 0 0 0))

end Sys2Proof.Machine
end

