-- ==== Sys2Proof/Machine/PortInstr.lean ====
section
/-! DEFINITION. Sys2Proof/Machine/PortInstr.lean: the engine commands (R257 to R275, R341), counters (R255), iteration rings (R278,
R279), barriers (R284 to R287), accumulation windows (R292 to R297) and the tag table (R209) at dispatch, and the events of the
engine port, the engines and the traps of entries. -/

namespace Sys2Proof.Machine

/-! ### Engine commands -/

def execXfer (c x3 a b : Reg) (s : State) : Out :=
  s.slotB (.xfer c x3 a b) [x3, a, b] 4 (some (.xfer c.toNat (s.reg a) (s.reg b) (s.reg x3)))

/-- xferb (R267): the window of commands is in row mode with count 1 to 8. -/
def execXferb (c kd : Reg) (w : Win) (km : KField) (s : State) : Out :=
  s.slotB (.xferb c kd w km) [] 4 (match s.win w with
    | some x => if x.mode == .row && decide (x.count ≤ 8) then some (.xferb kd.toNat x c.toNat km) else none
    | none => none)

/-- xdz (R275). -/
def execXdz (c x3 a b : Reg) (s : State) : Out :=
  s.slotB (.xdz c x3 a b) [x3, a, b] 4
    (if State.xdzOk (s.reg b) (s.reg x3) then some (.xdz c.toNat (s.reg a) (s.reg b) (s.reg x3)) else none)

def execDztab (c : Reg) (n : BitVec 5) (a : Reg) (s : State) : Out :=
  s.slotB (.dztab c n a) [a] 4 (some (.dztab c.toNat n.toNat (s.reg a)))

def execSendRaw (c a : Reg) (s : State) : Out :=
  s.slotB (.sendRaw c a) [a] 4 (some (.send c.toNat (s.reg a) 0 false))

def execSendQ8 (c a : Reg) (ef : BitVec 1) (s : State) : Out :=
  s.slotB (.sendQ8 c a ef) [a] 4 (some (.send c.toNat (s.reg a) 1 (ef == 1)))

def execSendQ8w (c a : Reg) (ef : BitVec 1) (s : State) : Out :=
  s.slotB (.sendQ8w c a ef) [a] 4 (some (.send c.toNat (s.reg a) 2 (ef == 1)))

def execSendQ4 (c a : Reg) (ef : BitVec 1) (s : State) : Out :=
  s.slotB (.sendQ4 c a ef) [a] 4 (some (.send c.toNat (s.reg a) 3 (ef == 1)))

def execRecv (c a : Reg) (s : State) : Out := s.slotB (.recv c a) [a] 4 (some (.recv c.toNat (s.reg a) false))
def execRecvAdd (c a : Reg) (s : State) : Out := s.slotB (.recvAdd c a) [a] 4 (some (.recv c.toNat (s.reg a) true))

/-! ### Counters (R255) -/

def execCinc (c a : Reg) (s : State) : Out := s.slotB (.cinc c a) [a] 4 (some (.cinc c.toNat (s.reg a)))
def execCwait (c a : Reg) (s : State) : Out := s.slotB (.cwait c a) [a] 4 (some (.cwait c.toNat (s.reg a)))
def execCset (c a : Reg) (s : State) : Out := s.slotB (.cset c a) [a] 4 (some (.cset c.toNat (s.reg a)))
def execCrd (d c : Reg) (s : State) : Out := s.slotB (.crd d c) [] 4 (some (.crd c.toNat d.toNat))

/-- h.cwait: cwait with an immediate threshold (R96, R255). -/
def execHCwait (c : Reg) (t : BitVec 7) (s : State) : Out :=
  s.slotB (.hCwait c t) [] 2 (some (.cwait c.toNat (zext t)))

/-! ### Iteration rings and barriers -/

/-- ipost (R278): a negative iteration is an illegal operand. -/
def execIpost (c a : Reg) (s : State) : Out :=
  s.slotB (.ipost c a) [a] 4 (if (s.reg a).toInt < 0 then none else some (.ipost c.toNat (s.reg a)))

def execIwait (c a : Reg) (s : State) : Out := s.slotB (.iwait c a) [a] 4 (some (.iwait c.toNat (s.reg a)))

/-- bar.init (R284, R285). -/
def execBarInit (a b : Reg) (s : State) : Out :=
  s.slotB (.barInit a b) [a, b] 4
    (if barAddrOk (s.reg a) && s.reg b != 0 && decide ((s.reg b).toNat ≤ 65535) then some (.barInit (s.reg a) (s.reg b)) else none)

def execBarArrive (d a : Reg) (s : State) : Out :=
  s.slotB (.barArrive d a) [a] 4 (if barAddrOk (s.reg a) then some (.barArrive false (s.reg a) d.toNat) else none)

def execBarArriveRlx (d a : Reg) (s : State) : Out :=
  s.slotB (.barArriveRlx d a) [a] 4 (if barAddrOk (s.reg a) then some (.barArrive true (s.reg a) d.toNat) else none)

def execBarWait (a b : Reg) (s : State) : Out :=
  s.slotB (.barWait a b) [a, b] 4 (if barAddrOk (s.reg a) then some (.barWait (s.reg a) (s.reg b)) else none)

/-! ### Accumulation windows (R291 to R297) -/

namespace State

/-- Is window `n` granted to the running task (R291). -/
def awGranted (s : State) (n : Nat) : Bool := match s.curTask with | some t => decide (n < t.nw) | none => false

/-- Is it declared, as the control core tracks at dispatch. -/
def awDeclared (s : State) (n : Nat) : Bool := s.awGranted n && s.core.awdecl.contains n

end State

def execAwin (op : BitVec 2) (aw : BitVec 2) (a b : Reg) (s : State) : Out :=
  let n := (s.reg b).toNat
  s.slotB (.awin op aw a b) [a, b] 4
    (if s.awGranted aw.toNat && (s.reg a).toNat % 4 == 0 && n != 0 && n % 4 == 0 && decide (n ≤ 16384) then
      some (.awin (AOp.ofCode op.toNat) aw.toNat (s.reg a) (s.reg b)) else none)
    fun c => { c with awdecl := if c.awdecl.contains aw.toNat then c.awdecl else c.awdecl ++ [aw.toNat] }

/-- ascat (R295): the value window has the index window's count, or 1. -/
def execAscat (aw : BitVec 2) (wv wi : Win) (km : KField) (s : State) : Out :=
  s.slotB (.ascat aw wv wi km) [] 4 (match s.win wi, s.win wv with
    | some i, some v =>
      if s.awDeclared aw.toNat && (v.count == i.count || v.count == 1) then some (.ascat aw.toNat i v km) else none
    | _, _ => none)

def execAmerge (aw : BitVec 2) (s : State) : Out :=
  s.slotB (.amerge aw) [] 4 (if s.awDeclared aw.toNat then some (.amerge aw.toNat) else none)

def execArel (aw : BitVec 2) (s : State) : Out :=
  s.slotB (.arel aw) [] 4 (if s.awDeclared aw.toNat then some (.arel aw.toNat) else none)
    fun c => { c with awdecl := c.awdecl.filter fun n => n != aw.toNat }

/-! ### The tag table (R209) -/

def execSlook (d a : Reg) (s : State) : Out := s.slotB (.slook d a) [a] 4 (some (.slook (s.reg a) d.toNat))

def execSins (d a b : Reg) (s : State) : Out :=
  s.slotB (.sins d a b) [a, b] 4 (if (s.reg b).toNat < 2 ^ 31 then some (.sins (s.reg a) (s.reg b) d.toNat) else none)

def execSinv (a : Reg) (s : State) : Out := s.slotB (.sinv a) [a] 4 (some (.sinv (s.reg a)))

/-! ### Events of the port -/

namespace State

/-- Grant one waiting restarted command of the core that moves, of those that take an engine of the kind; the commands of links, whose
units are the links' own, are granted with transfer engines. None when none can be granted. -/
def grantRestarted (s : State) (kind : EngKind) : Option State :=
  (s.cmds.filter fun c => c.core == s.cur && c.state == .waiting && c.op.kind.getD .transfer == kind).findSome? fun c =>
    let s1 := s.grantCmd c
    if s1 == s then none else some s1

end State

/-- Does an entry at the port wait for an engine of the kind; the commands of links are granted with transfer engines. -/
def GOp.asks (kind : EngKind) (o : GOp) : Bool :=
  match o with
  | .send _ _ _ _ | .recv _ _ _ => kind == .transfer
  | o => o.kind == some kind

/-- The entries that do their work at the engine port with no event of their own (R19, R255). -/
def GOp.atPort : GOp → Bool
  | .cinc _ _ | .cset _ _ | .crd _ _ | .barInit _ _ | .barArrive _ _ _ | .awin _ _ _ _ | .amerge _ | .arel _
  | .slook _ _ | .sins _ _ _ | .sinv _ => true
  | .stream k _ _ _ _ _ => k != .qldz
  | _ => false

/-- GIQ_DEPARTURE (R19): the port completes the work of the entry before, and the head of the GIQ leaves when nothing holds it
back. In a drain none leaves for an entry's fault, and none behind an unsatisfied wait for an asynchronous cause (R25, R369). -/
def execGiqDeparture (s : State) : Out :=
  match s.runKind GOp.atPort with
  | .next s1 =>
    .next (match s1.core.drn with
      | some (.fault _ _) => s1
      | some (.async _) => s1.departHead true
      | none => s1.departHead false)
  | o => o

/-- ENGINE_ACCEPT (R257): a restarted command of the core goes first (R259), then the command at the port. -/
def execEngineAccept (kind : EngKind) (s : State) : Out :=
  match s.grantRestarted kind with
  | some s1 => .next s1
  | none => s.runOldest (GOp.asks kind) true .pass

/-- ENGINE_COMPLETE (R258): an accepted command does its work and completes, or parks on its fault (R259). -/
def execEngineComplete (id : Nat) (s : State) : Out :=
  .next (match s.cmds.find? fun c => c.id == id with | some c => s.workCmd c | none => s)

/-- A running command works on until a residue mismatch that its replay confirms parks it with cause 0x0D (R259, R263): `k` elements of an xfer, or
blocks of an xdz, from its recorded point, and of an xfer no further than its last element; any other command parks at the point at which
it stands, and so does one that waits there for scratchpad saved in a frame. -/
def State.mismatchCmd (s : State) (c : Cmd) (k : Nat) : State :=
  let f : GFault := { code := 0x0D, tval := 0 }
  if s.reachesSaved c then s.parkCmd c f
  else
    match c.op with
    | .xfer d r x sm dm => s.runXfer c d r x sm dm (some (min (c.next + k) (r.count - 1)))
    | .xdz d _ p =>
      let s1 := s.runXdz c d p k
      match s1.cmds.find? fun m => m.id == c.id && m.state == .running with
      | some m => s1.parkXdz m f
      | none => s1
    | .dztab _ _ | .send _ | .recv _ => s.parkCmd c f

/-- ENGINE_RUNTIME_FAULT (R259, R263, R327): a residue mismatch in the work of a running command. R328 records no lane or row for an engine: the
model has them say where in the command's work the mismatch is, counted from its recorded point as row × 128 + lane
(DESIGN CHOICE, assumption log 73). -/
def execEngineRuntimeFault (id : Nat) (chk : Check) (s : State) : Out :=
  .next (match s.cmds.find? fun c => c.id == id with
    | some c =>
      if c.state != .running then s
      else match chk with
        | .pass => s
        | .replay => s.modCore c.core fun k => k.countReplay chk
        | .fail _ lane row => s.mismatchCmd c (row * 128 + lane)
    | none => s)

/-- CWAIT_SATISFIED (R255). -/
def execCwaitSatisfied (s : State) : Out := s.runKind fun o => match o with | .cwait _ _ => true | _ => false

/-- IPOST_APPLY (R278). -/
def execIpostApply (s : State) : Out := s.runKind fun o => match o with | .ipost _ _ => true | _ => false

/-- IWAIT_SATISFIED (R279). -/
def execIwaitSatisfied (s : State) : Out := s.runKind fun o => match o with | .iwait _ _ => true | _ => false

/-- BAR_WAIT_SATISFIED (R287). -/
def execBarWaitSatisfied (s : State) : Out := s.runKind fun o => match o with | .barWait _ _ => true | _ => false

namespace State

/-- The answer to the barrier operation `id` that the core sent to another device (R284, R286, R287): the entry completes, or takes
the fault with TVAL the barrier address. -/
def barAnswer (s : State) (id cause : Nat) (v : Word) : Out :=
  let asked (e : Entry) : Option Word :=
    match e.op with
    | .barInit a _ | .barArrive _ a _ | .barWait a _ => if !e.fin && !e.faulted && e.prog == 1 && e.since == id then some a else none
    | _ => none
  match s.core.flight.findIdx? fun e => (asked e).isSome with
  | none => .next s
  | some i =>
    match s.core.flight[i]? with
    | none => .next s
    | some e =>
      if cause = 0 then
        let s1 := match e.op with
          | .barArrive _ _ xd => s.updCore fun c => c.setReg xd v
          | _ => s
        .next ((s1.noteRun i (.done e)).updCore Core.retireFin)
      else s.giqFault { e with prog := 0, stop := .none } (barFault ((asked e).getD 0) cause)

end State

/-- BARRIER_REMOTE_OP (R284 to R287): an operation of another device on an object here, or the answer to one of this core. -/
def execBarrierRemoteOp (op : BarOp) (vaddr : Word) (asker : BarFrom) (s : State) : Out :=
  match op with
  | .answer n cause v => s.barAnswer n cause v
  | .init _ | .arrive | .wait _ => .next (s.remoteBar asker.id vaddr asker.part.toNat asker.tenant.toNat op)

/-- GIQ_FAULT_TRAP (R25, R375): the entries that have left the GIQ go on, and the oldest fault among them is reported. Where a trap
drains already, its drain goes on. -/
def execGiqFaultTrap (s : State) : Out :=
  if s.core.drn.isSome then s.drainOn
  else
    let s1 := (s.runFlight true 0 s.core.flight.length).1
    match s1.core.flight.find? fun e => !e.fin && e.faulted with
    | some e => s1.giqFault e (e.why.getD { code := 0, tval := 0 })
    | none => .next s

/-- ASYNC_TRAP (R109): the lowest pending asynchronous cause is taken when it is enabled and the core runs; where a trap drains already,
its drain goes on, and a wfi that stalls completes first (R112). -/
def execAsyncTrap (s : State) : Out :=
  if s.core.drn.isSome then s.drainOn
  else if s.core.asyncEnabled && !s.core.wfi && (s.core.run == .running || s.core.run == .halting) then
    match s.core.asyncPending s.timeNow with
    | some code => s.takeAsync code
    | none => .next s
  else .next s

/-- TIMER_EXPIRY (R106): TIME reaches TIMECMP, and cause 0x22 is pending. -/
def execTimerExpiry (s : State) : Out :=
  if s.core.timecmp = 0 || s.core.timecmp.toNat ≤ s.timeNow.toNat then .next s
  else .next { s with time := s.core.timecmp - BitVec.ofNat 64 (timeSum s.ticks) }

end Sys2Proof.Machine
end

