-- ==== Sys2Proof/Machine/Scalar.lean ====
section
/-! DEFINITION. Sys2Proof/Machine/Scalar.lean: the integer, branch, jump, load and store instructions of slot A and the
16-bit forms (R91 to R99). -/

namespace Sys2Proof.Machine

/-! ### Values (R91, R93) -/

/-- The two operands as signed and unsigned comparisons, 1 or 0. -/
def sltVal (a b : Word) : Word := ofBool (a.slt b)
def sltnVal (a b : Word) : Word := ofBool (a.ult b)

/-- Bits above the highest 1 bit; 64 for zero (R91). -/
def clzVal (a : Word) : Word := if a = 0 then 64 else BitVec.ofNat 64 (63 - Nat.log2 a.toNat)

/-- Position of the lowest 1 bit; 64 for zero (R91). -/
def ctzVal (a : Word) : Word := BitVec.ofNat 64 ((lowestBit a.toNat 64 0).getD 64)

/-- Number of 1 bits (R91). -/
def popcVal (a : Word) : Word := BitVec.ofNat 64 (countBits a.toNat 64)

/-- The carry-less product of R91. -/
def clmul128 (a b : Word) : Nat := clmulNat a.toNat b.toNat 64

/-- Shift amounts are bits 5 to 0 (R91). -/
def amount (b : Word) : Nat := b.toNat % 64

/-- div and rem with their corners (R93). -/
def divVal (a b : Word) : Word :=
  if b = 0 then BitVec.allOnes 64
  else if a = 0x8000_0000_0000_0000 && b = BitVec.allOnes 64 then 0x8000_0000_0000_0000
  else BitVec.ofInt 64 (a.toInt.tdiv b.toInt)

def remVal (a b : Word) : Word :=
  if b = 0 then a
  else if a = 0x8000_0000_0000_0000 && b = BitVec.allOnes 64 then 0
  else BitVec.ofInt 64 (a.toInt - b.toInt * a.toInt.tdiv b.toInt)

def divnVal (a b : Word) : Word := if b = 0 then BitVec.allOnes 64 else BitVec.ofNat 64 (a.toNat / b.toNat)
def remnVal (a b : Word) : Word := if b = 0 then a else BitVec.ofNat 64 (a.toNat % b.toNat)

/-- Bits 127 to 64 of an exact product (R93). -/
def highWord (p : Int) : Word := BitVec.ofInt 64 (p / 2 ^ 64)

/-- A three-register instruction without faults: its value goes to xd (R91, R93). -/
def State.alu2 (s : State) (d a b : Reg) (f : Word → Word → Word) : Out :=
  s.slotAWrite [a, b] d (f (s.reg a) (s.reg b)) 4

/-- The same with one source register. -/
def State.alu1 (s : State) (d a : Reg) (f : Word → Word) : Out := s.slotAWrite [a] d (f (s.reg a)) 4

/-! ### ALU (R91) -/

def execAdd (d a b : Reg) (s : State) : Out := s.alu2 d a b fun a b => a + b
def execSub (d a b : Reg) (s : State) : Out := s.alu2 d a b fun a b => a - b
def execAnd (d a b : Reg) (s : State) : Out := s.alu2 d a b fun a b => a &&& b
def execOr (d a b : Reg) (s : State) : Out := s.alu2 d a b fun a b => a ||| b
def execXor (d a b : Reg) (s : State) : Out := s.alu2 d a b fun a b => a ^^^ b
def execAndn (d a b : Reg) (s : State) : Out := s.alu2 d a b fun a b => a &&& ~~~b
def execOrn (d a b : Reg) (s : State) : Out := s.alu2 d a b fun a b => a ||| ~~~b
def execShl (d a b : Reg) (s : State) : Out := s.alu2 d a b fun a b => a <<< amount b
def execShr (d a b : Reg) (s : State) : Out := s.alu2 d a b fun a b => a >>> amount b
def execSra (d a b : Reg) (s : State) : Out := s.alu2 d a b fun a b => a.sshiftRight (amount b)
def execRotl (d a b : Reg) (s : State) : Out := s.alu2 d a b fun a b => a.rotateLeft (amount b)
def execRotr (d a b : Reg) (s : State) : Out := s.alu2 d a b fun a b => a.rotateRight (amount b)
def execSlt (d a b : Reg) (s : State) : Out := s.alu2 d a b fun a b => sltVal a b
def execSltn (d a b : Reg) (s : State) : Out := s.alu2 d a b fun a b => sltnVal a b
def execMin (d a b : Reg) (s : State) : Out := s.alu2 d a b fun a b => if b.slt a then b else a
def execMax (d a b : Reg) (s : State) : Out := s.alu2 d a b fun a b => if a.slt b then b else a
def execMinn (d a b : Reg) (s : State) : Out := s.alu2 d a b fun a b => if b.ult a then b else a
def execMaxn (d a b : Reg) (s : State) : Out := s.alu2 d a b fun a b => if a.ult b then b else a
def execClz (d a : Reg) (s : State) : Out := s.alu1 d a clzVal
def execCtz (d a : Reg) (s : State) : Out := s.alu1 d a ctzVal
def execPopc (d a : Reg) (s : State) : Out := s.alu1 d a popcVal
def execClmul (d a b : Reg) (s : State) : Out := s.alu2 d a b fun a b => BitVec.ofNat 64 (clmul128 a b)
def execClmulh (d a b : Reg) (s : State) : Out := s.alu2 d a b fun a b => BitVec.ofNat 64 (clmul128 a b >>> 64)

/-! ### MULDIV (R93) -/

def execMul (d a b : Reg) (s : State) : Out := s.alu2 d a b fun a b => a * b
def execMulh (d a b : Reg) (s : State) : Out := s.alu2 d a b fun a b => highWord (a.toInt * b.toInt)
def execMulhn (d a b : Reg) (s : State) : Out := s.alu2 d a b fun a b => highWord ((a.toNat : Int) * (b.toNat : Int))
def execMulhsn (d a b : Reg) (s : State) : Out := s.alu2 d a b fun a b => highWord (a.toInt * (b.toNat : Int))
def execDiv (d a b : Reg) (s : State) : Out := s.alu2 d a b fun a b => divVal a b
def execDivn (d a b : Reg) (s : State) : Out := s.alu2 d a b fun a b => divnVal a b
def execRem (d a b : Reg) (s : State) : Out := s.alu2 d a b fun a b => remVal a b
def execRemn (d a b : Reg) (s : State) : Out := s.alu2 d a b fun a b => remnVal a b

/-! ### Immediate operands (R92) -/

def execAddi (d a : Reg) (imm : BitVec 15) (s : State) : Out := s.alu1 d a fun a => a + sext imm
def execAndi (d a : Reg) (imm : BitVec 12) (s : State) : Out := s.alu1 d a fun a => a &&& sext imm
def execOri (d a : Reg) (imm : BitVec 12) (s : State) : Out := s.alu1 d a fun a => a ||| sext imm
def execXori (d a : Reg) (imm : BitVec 12) (s : State) : Out := s.alu1 d a fun a => a ^^^ sext imm
def execSlti (d a : Reg) (imm : BitVec 12) (s : State) : Out := s.alu1 d a fun a => sltVal a (sext imm)
def execSltni (d a : Reg) (imm : BitVec 12) (s : State) : Out := s.alu1 d a fun a => sltnVal a (sext imm)
def execShli (d a : Reg) (n : BitVec 6) (s : State) : Out := s.alu1 d a fun a => a <<< n.toNat
def execShri (d a : Reg) (n : BitVec 6) (s : State) : Out := s.alu1 d a fun a => a >>> n.toNat
def execSrai (d a : Reg) (n : BitVec 6) (s : State) : Out := s.alu1 d a fun a => a.sshiftRight n.toNat

/-- imm × 4,096, sign-extended (R92). -/
def upper (imm : BitVec 20) : Word := sext imm <<< 12

def execLhi (d : Reg) (imm : BitVec 20) (s : State) : Out := s.slotAWrite [] d (upper imm) 4
def execPcrel (d : Reg) (imm : BitVec 20) (s : State) : Out := s.slotAWrite [] d (s.core.pc + upper imm) 4

/-! ### Branches and jumps (R94, R95): offsets count halfwords -/

/-- A taken branch goes to its own address plus twice the offset; an untaken one falls through. -/
def State.branch (s : State) (taken : Bool) (off : Word) (len : Nat) : Out :=
  .next (if taken then (s.setPc (s.core.pc + 2 * off)).retire else s.advance len)

/-- A conditional branch on two registers (R94). -/
def State.branch2 (s : State) (a b : Reg) (imm : BitVec 12) (f : Word → Word → Bool) : Out :=
  s.slotA [a, b] fun s => s.branch (f (s.reg a) (s.reg b)) (sext imm) 4

def execBeq (a b : Reg) (imm : BitVec 12) (s : State) : Out := s.branch2 a b imm fun a b => a == b
def execBne (a b : Reg) (imm : BitVec 12) (s : State) : Out := s.branch2 a b imm fun a b => a != b
def execBlt (a b : Reg) (imm : BitVec 12) (s : State) : Out := s.branch2 a b imm fun a b => a.slt b
def execBge (a b : Reg) (imm : BitVec 12) (s : State) : Out := s.branch2 a b imm fun a b => !a.slt b
def execBltn (a b : Reg) (imm : BitVec 12) (s : State) : Out := s.branch2 a b imm fun a b => a.ult b
def execBgen (a b : Reg) (imm : BitVec 12) (s : State) : Out := s.branch2 a b imm fun a b => !a.ult b

/-- A jump: the link register gets the address after the instruction, then the pc the target (R95). -/
def State.jump (s : State) (d : Reg) (target : Word) : Out :=
  .next (((s.setReg d (s.core.pc + 4)).setPc target).retire)

def execJal (d : Reg) (imm : BitVec 20) (s : State) : Out :=
  s.slotA [d] fun s => s.jump d (s.core.pc + 2 * sext imm)

/-- jalr clears bit 0 of its target (R32, R95). -/
def execJalr (d a : Reg) (imm : BitVec 15) (s : State) : Out :=
  s.slotA [d, a] fun s => s.jump d (setField (s.reg a + sext imm) 0 1 0)

/-! ### Loads and stores (R97, R98) -/

/-- A load at off(xs1). -/
def State.loadOp (s : State) (d a : Reg) (imm : BitVec 12) (n : Nat) (sgn : Bool) : Out :=
  s.slotA [d, a] fun s => s.load d (s.reg a + sext imm) n sgn 4

/-- A store at off(xs1). -/
def State.storeOp (s : State) (b a : Reg) (imm : BitVec 12) (n : Nat) : Out :=
  s.slotA [b, a] fun s => s.store (s.reg a + sext imm) n (s.reg b) 4

def execLdb (d a : Reg) (imm : BitVec 12) (s : State) : Out := s.loadOp d a imm 1 true
def execLdh (d a : Reg) (imm : BitVec 12) (s : State) : Out := s.loadOp d a imm 2 true
def execLdw (d a : Reg) (imm : BitVec 12) (s : State) : Out := s.loadOp d a imm 4 true
def execLdd (d a : Reg) (imm : BitVec 12) (s : State) : Out := s.loadOp d a imm 8 true
def execLdbn (d a : Reg) (imm : BitVec 12) (s : State) : Out := s.loadOp d a imm 1 false
def execLdhn (d a : Reg) (imm : BitVec 12) (s : State) : Out := s.loadOp d a imm 2 false
def execLdwn (d a : Reg) (imm : BitVec 12) (s : State) : Out := s.loadOp d a imm 4 false
def execStb (b a : Reg) (imm : BitVec 12) (s : State) : Out := s.storeOp b a imm 1
def execSth (b a : Reg) (imm : BitVec 12) (s : State) : Out := s.storeOp b a imm 2
def execStw (b a : Reg) (imm : BitVec 12) (s : State) : Out := s.storeOp b a imm 4
def execStd (b a : Reg) (imm : BitVec 12) (s : State) : Out := s.storeOp b a imm 8

/-! ### 16-bit forms (R34, R96) -/

def execHAddi (d : Reg) (imm : BitVec 7) (s : State) : Out := s.slotAWrite [] d (s.reg d + sext imm) 2
def execHMv (d a : Reg) (s : State) : Out := s.slotAWrite [a] d (s.reg a) 2

/-- h.ldd and h.std address from x2, with the unsigned offset of R34. -/
def execHLdd (d : Reg) (imm : BitVec 7) (s : State) : Out :=
  s.slotA [d, 2] fun s => s.load d (s.reg 2 + 8 * zext imm) 8 true 2

def execHStd (b : Reg) (imm : BitVec 7) (s : State) : Out :=
  s.slotA [b, 2] fun s => s.store (s.reg 2 + 8 * zext imm) 8 (s.reg b) 2

def execHBz (a : Reg) (imm : BitVec 7) (s : State) : Out :=
  s.slotA [a] fun s => s.branch (s.reg a == 0) (sext imm) 2

def execHBnz (a : Reg) (imm : BitVec 7) (s : State) : Out :=
  s.slotA [a] fun s => s.branch (s.reg a != 0) (sext imm) 2

def execHJ (imm : BitVec 12) (s : State) : Out := s.branch true (sext imm) 2

end Sys2Proof.Machine
end

