-- ==== Sys2Proof/Machine/ScalarFloat.lean ====
section
/-! DEFINITION. Sys2Proof/Machine/ScalarFloat.lean: scalar floating point (R38, R63, R85, R100). -/

namespace Sys2Proof.FpsF

open Sys2Proof.Machine

/-- The precision of [9] (R38). -/
def fmt (f : FpsF) : FFmt := if f.p = 1 then fmtF64 else fmtF32

/-- An operand register as a pattern in the precision (R85). -/
def pat (f : FpsF) (x : Word) : Nat := if f.p = 1 then x.toNat else x.toNat % 2 ^ 32

/-- An operand register as a value. -/
def val (f : FpsF) (x : Word) : FV := f.fmt.decode (f.pat x)

end Sys2Proof.FpsF

namespace Sys2Proof.Machine

/-- The rounding mode of the operation (R38, R63); none when STATUS.SRM holds no mode. -/
def fpsMode (f : FpsF) (status : Word) : Option RMode :=
  RMode.ofCode (if f.m = 5 then fieldNat status 12 3 else f.m.toNat)

/-- A rounded result as a register value with its flags (R62, R85). -/
def fpsRound (f : FFmt) (m : RMode) (x : Exact) : Word × Fl :=
  let r := roundTo f .ieee m false x
  (BitVec.ofNat 64 r.1, r.2)

/-- The three operands, mode in hand, give a register value and flags. -/
abbrev FpsFn := RMode → Word → Word → Word → Word × Fl

/-- Merge scalar flags into FLAGS bits 12 to 8 (R82, R100). -/
def Core.raiseScalar (c : Core) (f : Fl) : Core := { c with flags := c.flags ||| BitVec.ofNat 64 f.toScalarNat }

/-- An FPS instruction: a dynamic mode that STATUS does not define is an illegal instruction (R63); otherwise the value and
the flags are written. `fn` takes the mode and the values of xs1, xs2 and xd. -/
def State.fps (s : State) (i : Instr) (f : FpsF) (fn : FpsFn) : Out :=
  s.slotA [f.a, f.b, f.d] fun s =>
    match fpsMode f s.core.status with
    | none => s.illegal i
    | some m =>
      let r := fn m (s.reg f.a) (s.reg f.b) (s.reg f.d)
      .next ((((s.updCore fun c => c.raiseScalar r.2)).setReg f.d r.1).advance 4)

/-- An operation that does not round: no mode is read. -/
def State.fpsExact (s : State) (f : FpsF) (fn : Word → Word → Word × Fl) : Out :=
  s.slotA [f.a, f.b, f.d] fun s =>
    let r := fn (s.reg f.a) (s.reg f.b)
    .next ((((s.updCore fun c => c.raiseScalar r.2)).setReg f.d r.1).advance 4)

/-- A value of the format as it is (min, max, conversions that are exact); NaN becomes the canonical NaN (R60). -/
def fpsKeep (f : FFmt) (x : FV) : Word := (fpsRound f .rne x.exact).1

/-- The sign bit of an operand inverted or cleared; a NaN gives the canonical NaN (R100). -/
def fpsSign (f : FpsF) (neg : Bool) (x : Word) : Word :=
  if (f.val x).isNaN then BitVec.ofNat 64 f.fmt.cnan
  else
    let sb := 2 ^ (f.fmt.ebits + f.fmt.mbits)
    let mag := f.pat x % sb
    BitVec.ofNat 64 (if neg && f.pat x < sb then mag + sb else mag)

/-- A comparison (R100). -/
def fpsCmp (f : FpsF) (nv : Bool) (p : FV → FV → Bool) (a b : Word) : Word × Fl :=
  let x := f.val a
  let y := f.val b
  let nan := x.isNaN || y.isNaN
  (ofBool (!nan && p x y), { nv := nv && nan })

/-- fclass (R100). -/
def fclassVal (f : FpsF) (a : Word) : Word :=
  let sign := f.pat a / 2 ^ (f.fmt.ebits + f.fmt.mbits)
  let kind := match f.val a with
    | .nan => 4
    | .inf _ => 3
    | .fin _ m _ => if m = 0 then 0 else if m < 2 ^ f.fmt.mbits then 1 else 2
  let int := match f.val a with
    | .fin n m e => !(roundInt .rtz n m e).2
    | .nan | .inf _ => false
  BitVec.ofNat 64 (natOfBool int * 16 + sign * 8 + kind)

def intLo64 : Int := -(2 ^ 63 : Nat)
def intHi64 : Int := (2 ^ 63 : Nat) - 1
def natHi64 : Int := (2 ^ 64 : Nat) - 1

def execFadd (f : FpsF) (s : State) : Out := s.fps (.fadd f) f fun m a b _ => fpsRound f.fmt m (addFV m (f.val a) (f.val b))
def execFsub (f : FpsF) (s : State) : Out := s.fps (.fsub f) f fun m a b _ => fpsRound f.fmt m (addFV m (f.val a) (f.val b).neg)
def execFmul (f : FpsF) (s : State) : Out := s.fps (.fmul f) f fun m a b _ => fpsRound f.fmt m (mulFV (f.val a) (f.val b))
def execFdiv (f : FpsF) (s : State) : Out := s.fps (.fdiv f) f fun m a b _ => fpsRound f.fmt m (divFV (f.val a) (f.val b))
def execFsqrt (f : FpsF) (s : State) : Out := s.fps (.fsqrt f) f fun m a _ _ => fpsRound f.fmt m (sqrtFV (f.val a))
def execFma (f : FpsF) (s : State) : Out := s.fps (.fma f) f fun m a b d => fpsRound f.fmt m (fmaFV m (f.val a) (f.val b) (f.val d))
def execFmin (f : FpsF) (s : State) : Out := s.fpsExact f fun a b => (fpsKeep f.fmt (minFV (f.val a) (f.val b)), {})
def execFmax (f : FpsF) (s : State) : Out := s.fpsExact f fun a b => (fpsKeep f.fmt (maxFV (f.val a) (f.val b)), {})
def execFneg (f : FpsF) (s : State) : Out := s.fpsExact f fun a _ => (fpsSign f true a, {})
def execFabs (f : FpsF) (s : State) : Out := s.fpsExact f fun a _ => (fpsSign f false a, {})
def execFeq (f : FpsF) (s : State) : Out := s.fpsExact f fun a b => fpsCmp f false eqFV a b
def execFlt (f : FpsF) (s : State) : Out := s.fpsExact f fun a b => fpsCmp f true ltFV a b
def execFle (f : FpsF) (s : State) : Out := s.fpsExact f fun a b => fpsCmp f true (fun x y => !ltFV y x) a b
def execFclass (f : FpsF) (s : State) : Out := s.fpsExact f fun a _ => (fclassVal f a, {})

/-! Conversions (R67, R68, R100) -/

def execFcvti (f : FpsF) (s : State) : Out := s.fps (.fcvti f) f fun m a _ _ => let r := toIntRange m intLo64 intHi64 (f.val a); (BitVec.ofInt 64 r.1, r.2)
def execFcvtn (f : FpsF) (s : State) : Out := s.fps (.fcvtn f) f fun m a _ _ => let r := toIntRange m 0 natHi64 (f.val a); (BitVec.ofInt 64 r.1, r.2)
def execFcvtfi (f : FpsF) (s : State) : Out := s.fps (.fcvtfi f) f fun m a _ _ => fpsRound f.fmt m (intExact a.toInt)
def execFcvtfn (f : FpsF) (s : State) : Out := s.fps (.fcvtfn f) f fun m a _ _ => fpsRound f.fmt m (intExact (a.toNat : Int))

/-- .s rounds the FP64 operand to FP32; .d widens the FP32 operand to FP64, exactly. -/
def execFcvtp (f : FpsF) (s : State) : Out :=
  s.fps (.fcvtp f) f fun m a _ _ =>
    if f.p = 1 then fpsRound fmtF64 m (fmtF32.decode (a.toNat % 2 ^ 32)).exact
    else fpsRound fmtF32 m (fmtF64.decode a.toNat).exact

end Sys2Proof.Machine
end

