-- ==== Sys2Proof/Machine/Dispatch.lean ====
section
/-! DEFINITION. Sys2Proof/Machine/Dispatch.lean: which meaning each instruction and event has. -/

namespace Sys2Proof.Machine

def exec (i : Instr) (s : State) : Host.Outcome State Fault Refusal :=
  match i with
  | .add x y z => Sys2Proof.Machine.execAdd x y z s
  | .sub x y z => Sys2Proof.Machine.execSub x y z s
  | .and x y z => Sys2Proof.Machine.execAnd x y z s
  | .or x y z => Sys2Proof.Machine.execOr x y z s
  | .xor x y z => Sys2Proof.Machine.execXor x y z s
  | .andn x y z => Sys2Proof.Machine.execAndn x y z s
  | .orn x y z => Sys2Proof.Machine.execOrn x y z s
  | .shl x y z => Sys2Proof.Machine.execShl x y z s
  | .shr x y z => Sys2Proof.Machine.execShr x y z s
  | .sra x y z => Sys2Proof.Machine.execSra x y z s
  | .rotl x y z => Sys2Proof.Machine.execRotl x y z s
  | .rotr x y z => Sys2Proof.Machine.execRotr x y z s
  | .slt x y z => Sys2Proof.Machine.execSlt x y z s
  | .sltn x y z => Sys2Proof.Machine.execSltn x y z s
  | .min x y z => Sys2Proof.Machine.execMin x y z s
  | .max x y z => Sys2Proof.Machine.execMax x y z s
  | .minn x y z => Sys2Proof.Machine.execMinn x y z s
  | .maxn x y z => Sys2Proof.Machine.execMaxn x y z s
  | .clz x y => Sys2Proof.Machine.execClz x y s
  | .ctz x y => Sys2Proof.Machine.execCtz x y s
  | .popc x y => Sys2Proof.Machine.execPopc x y s
  | .clmul x y z => Sys2Proof.Machine.execClmul x y z s
  | .clmulh x y z => Sys2Proof.Machine.execClmulh x y z s
  | .mul x y z => Sys2Proof.Machine.execMul x y z s
  | .mulh x y z => Sys2Proof.Machine.execMulh x y z s
  | .mulhn x y z => Sys2Proof.Machine.execMulhn x y z s
  | .mulhsn x y z => Sys2Proof.Machine.execMulhsn x y z s
  | .div x y z => Sys2Proof.Machine.execDiv x y z s
  | .divn x y z => Sys2Proof.Machine.execDivn x y z s
  | .rem x y z => Sys2Proof.Machine.execRem x y z s
  | .remn x y z => Sys2Proof.Machine.execRemn x y z s
  | .fadd x => Sys2Proof.Machine.execFadd x s
  | .fsub x => Sys2Proof.Machine.execFsub x s
  | .fmul x => Sys2Proof.Machine.execFmul x s
  | .fdiv x => Sys2Proof.Machine.execFdiv x s
  | .fsqrt x => Sys2Proof.Machine.execFsqrt x s
  | .fmin x => Sys2Proof.Machine.execFmin x s
  | .fmax x => Sys2Proof.Machine.execFmax x s
  | .fma x => Sys2Proof.Machine.execFma x s
  | .fneg x => Sys2Proof.Machine.execFneg x s
  | .fabs x => Sys2Proof.Machine.execFabs x s
  | .feq x => Sys2Proof.Machine.execFeq x s
  | .flt x => Sys2Proof.Machine.execFlt x s
  | .fle x => Sys2Proof.Machine.execFle x s
  | .fclass x => Sys2Proof.Machine.execFclass x s
  | .fcvti x => Sys2Proof.Machine.execFcvti x s
  | .fcvtn x => Sys2Proof.Machine.execFcvtn x s
  | .fcvtfi x => Sys2Proof.Machine.execFcvtfi x s
  | .fcvtfn x => Sys2Proof.Machine.execFcvtfn x s
  | .fcvtp x => Sys2Proof.Machine.execFcvtp x s
  | .addi x y z => Sys2Proof.Machine.execAddi x y z s
  | .andi x y z => Sys2Proof.Machine.execAndi x y z s
  | .ori x y z => Sys2Proof.Machine.execOri x y z s
  | .xori x y z => Sys2Proof.Machine.execXori x y z s
  | .shli x y z => Sys2Proof.Machine.execShli x y z s
  | .shri x y z => Sys2Proof.Machine.execShri x y z s
  | .srai x y z => Sys2Proof.Machine.execSrai x y z s
  | .slti x y z => Sys2Proof.Machine.execSlti x y z s
  | .sltni x y z => Sys2Proof.Machine.execSltni x y z s
  | .lhi x y => Sys2Proof.Machine.execLhi x y s
  | .pcrel x y => Sys2Proof.Machine.execPcrel x y s
  | .jal x y => Sys2Proof.Machine.execJal x y s
  | .jalr x y z => Sys2Proof.Machine.execJalr x y z s
  | .beq x y z => Sys2Proof.Machine.execBeq x y z s
  | .bne x y z => Sys2Proof.Machine.execBne x y z s
  | .blt x y z => Sys2Proof.Machine.execBlt x y z s
  | .bge x y z => Sys2Proof.Machine.execBge x y z s
  | .bltn x y z => Sys2Proof.Machine.execBltn x y z s
  | .bgen x y z => Sys2Proof.Machine.execBgen x y z s
  | .ldb x y z => Sys2Proof.Machine.execLdb x y z s
  | .ldh x y z => Sys2Proof.Machine.execLdh x y z s
  | .ldw x y z => Sys2Proof.Machine.execLdw x y z s
  | .ldd x y z => Sys2Proof.Machine.execLdd x y z s
  | .ldbn x y z => Sys2Proof.Machine.execLdbn x y z s
  | .ldhn x y z => Sys2Proof.Machine.execLdhn x y z s
  | .ldwn x y z => Sys2Proof.Machine.execLdwn x y z s
  | .stb x y z => Sys2Proof.Machine.execStb x y z s
  | .sth x y z => Sys2Proof.Machine.execSth x y z s
  | .stw x y z => Sys2Proof.Machine.execStw x y z s
  | .std x y z => Sys2Proof.Machine.execStd x y z s
  | .amoadd x => Sys2Proof.Machine.execAmoadd x s
  | .amoand x => Sys2Proof.Machine.execAmoand x s
  | .amoor x => Sys2Proof.Machine.execAmoor x s
  | .amoxor x => Sys2Proof.Machine.execAmoxor x s
  | .amomin x => Sys2Proof.Machine.execAmomin x s
  | .amomax x => Sys2Proof.Machine.execAmomax x s
  | .amominn x => Sys2Proof.Machine.execAmominn x s
  | .amomaxn x => Sys2Proof.Machine.execAmomaxn x s
  | .amoswap x => Sys2Proof.Machine.execAmoswap x s
  | .cas x => Sys2Proof.Machine.execCas x s
  | .lr x => Sys2Proof.Machine.execLr x s
  | .sc x => Sys2Proof.Machine.execSc x s
  | .fenceSv x => Sys2Proof.Machine.execFenceSv x s
  | .fenceVs x => Sys2Proof.Machine.execFenceVs x s
  | .fenceVv x => Sys2Proof.Machine.execFenceVv x s
  | .fenceAll x => Sys2Proof.Machine.execFenceAll x s
  | .fenceRetire => Sys2Proof.Machine.execFenceRetire s
  | .trap x => Sys2Proof.Machine.execTrap x s
  | .trapRollback => Sys2Proof.Machine.execTrapRollback s
  | .trapKill => Sys2Proof.Machine.execTrapKill s
  | .eret => Sys2Proof.Machine.execEret s
  | .wfi => Sys2Proof.Machine.execWfi s
  | .csrr x y => Sys2Proof.Machine.execCsrr x y s
  | .csrw x y z => Sys2Proof.Machine.execCsrw x y z s
  | .csrs x y z => Sys2Proof.Machine.execCsrs x y z s
  | .csrc x y z => Sys2Proof.Machine.execCsrc x y z s
  | .timecmpWrite x => Sys2Proof.Machine.execTimecmpWrite x s
  | .giqsaveWrite x => Sys2Proof.Machine.execGiqsaveWrite x s
  | .seal x => Sys2Proof.Machine.execSeal x s
  | .sealRetire => Sys2Proof.Machine.execSealRetire s
  | .sealq x => Sys2Proof.Machine.execSealq x s
  | .irrev => Sys2Proof.Machine.execIrrev s
  | .irrevRetire => Sys2Proof.Machine.execIrrevRetire s
  | .enq x y z => Sys2Proof.Machine.execEnq x y z s
  | .halt => Sys2Proof.Machine.execHalt s
  | .haltRetire => Sys2Proof.Machine.execHaltRetire s
  | .gridResetEntry => Sys2Proof.Machine.execGridResetEntry s
  | .kbound x y z => Sys2Proof.Machine.execKbound x y z s
  | .kand x y z => Sys2Proof.Machine.execKand x y z s
  | .kor x y z => Sys2Proof.Machine.execKor x y z s
  | .kxor x y z => Sys2Proof.Machine.execKxor x y z s
  | .kandn x y z => Sys2Proof.Machine.execKandn x y z s
  | .knot x y => Sys2Proof.Machine.execKnot x y s
  | .kmov x y => Sys2Proof.Machine.execKmov x y s
  | .kpop x y => Sys2Proof.Machine.execKpop x y s
  | .kfirst x y => Sys2Proof.Machine.execKfirst x y s
  | .kset x y z => Sys2Proof.Machine.execKset x y z s
  | .kgetl x y => Sys2Proof.Machine.execKgetl x y s
  | .kgeth x y => Sys2Proof.Machine.execKgeth x y s
  | .kzero x => Sys2Proof.Machine.execKzero x s
  | .kone x => Sys2Proof.Machine.execKone x s
  | .vadd x => Sys2Proof.Machine.execVadd x s
  | .vsub x => Sys2Proof.Machine.execVsub x s
  | .vmul x => Sys2Proof.Machine.execVmul x s
  | .vfma x => Sys2Proof.Machine.execVfma x s
  | .vfms x => Sys2Proof.Machine.execVfms x s
  | .vmin x => Sys2Proof.Machine.execVmin x s
  | .vmax x => Sys2Proof.Machine.execVmax x s
  | .vabs x => Sys2Proof.Machine.execVabs x s
  | .vneg x => Sys2Proof.Machine.execVneg x s
  | .vand x => Sys2Proof.Machine.execVand x s
  | .vor x => Sys2Proof.Machine.execVor x s
  | .vxor x => Sys2Proof.Machine.execVxor x s
  | .vshl x => Sys2Proof.Machine.execVshl x s
  | .vshr x => Sys2Proof.Machine.execVshr x s
  | .vsra x => Sys2Proof.Machine.execVsra x s
  | .vsel x => Sys2Proof.Machine.execVsel x s
  | .vclamp x => Sys2Proof.Machine.execVclamp x s
  | .vscale2 x => Sys2Proof.Machine.execVscale2 x s
  | .vclmul x => Sys2Proof.Machine.execVclmul x s
  | .vclmulh x => Sys2Proof.Machine.execVclmulh x s
  | .vcpsgn x => Sys2Proof.Machine.execVcpsgn x s
  | .vcmpEq x => Sys2Proof.Machine.execVcmpEq x s
  | .vcmpNe x => Sys2Proof.Machine.execVcmpNe x s
  | .vcmpLt x => Sys2Proof.Machine.execVcmpLt x s
  | .vcmpLe x => Sys2Proof.Machine.execVcmpLe x s
  | .vcmpGt x => Sys2Proof.Machine.execVcmpGt x s
  | .vcmpGe x => Sys2Proof.Machine.execVcmpGe x s
  | .vcmpUnord x => Sys2Proof.Machine.execVcmpUnord x s
  | .vcmpOrd x => Sys2Proof.Machine.execVcmpOrd x s
  | .vrsum x => Sys2Proof.Machine.execVrsum x s
  | .vrmax x => Sys2Proof.Machine.execVrmax x s
  | .vrmin x => Sys2Proof.Machine.execVrmin x s
  | .vrsumsq x => Sys2Proof.Machine.execVrsumsq x s
  | .vcsum x => Sys2Proof.Machine.execVcsum x s
  | .vcmax x => Sys2Proof.Machine.execVcmax x s
  | .vcmin x => Sys2Proof.Machine.execVcmin x s
  | .vcvt x y => Sys2Proof.Machine.execVcvt x y s
  | .vquant x => Sys2Proof.Machine.execVquant x s
  | .vdequant x => Sys2Proof.Machine.execVdequant x s
  | .vround x => Sys2Proof.Machine.execVround x s
  | .vmov x => Sys2Proof.Machine.execVmov x s
  | .vmovOp2 x => Sys2Proof.Machine.execVmovOp2 x s
  | .vperm x => Sys2Proof.Machine.execVperm x s
  | .vslide x => Sys2Proof.Machine.execVslide x s
  | .vext x => Sys2Proof.Machine.execVext x s
  | .viota x => Sys2Proof.Machine.execViota x s
  | .vcompress x => Sys2Proof.Machine.execVcompress x s
  | .vrowi x => Sys2Proof.Machine.execVrowi x s
  | .vrcp x => Sys2Proof.Machine.execVrcp x s
  | .vsqrt x => Sys2Proof.Machine.execVsqrt x s
  | .vrsqrt x => Sys2Proof.Machine.execVrsqrt x s
  | .vexp2 x => Sys2Proof.Machine.execVexp2 x s
  | .vlog2 x => Sys2Proof.Machine.execVlog2 x s
  | .qld x y z => Sys2Proof.Machine.execQld x y z s
  | .qldt x y z => Sys2Proof.Machine.execQldt x y z s
  | .qldff x y z w => Sys2Proof.Machine.execQldff x y z w s
  | .qldx x y z w => Sys2Proof.Machine.execQldx x y z w s
  | .qldz x y z => Sys2Proof.Machine.execQldz x y z s
  | .gld x => Sys2Proof.Machine.execGld x s
  | .gst x => Sys2Proof.Machine.execGst x s
  | .gldff x => Sys2Proof.Machine.execGldff x s
  | .gldx x => Sys2Proof.Machine.execGldx x s
  | .gstx x => Sys2Proof.Machine.execGstx x s
  | .gstxo x => Sys2Proof.Machine.execGstxo x s
  | .xfer x y z w => Sys2Proof.Machine.execXfer x y z w s
  | .xferb x y z w => Sys2Proof.Machine.execXferb x y z w s
  | .xdz x y z w => Sys2Proof.Machine.execXdz x y z w s
  | .dztab x y z => Sys2Proof.Machine.execDztab x y z s
  | .sendRaw x y => Sys2Proof.Machine.execSendRaw x y s
  | .sendQ8 x y z => Sys2Proof.Machine.execSendQ8 x y z s
  | .sendQ8w x y z => Sys2Proof.Machine.execSendQ8w x y z s
  | .sendQ4 x y z => Sys2Proof.Machine.execSendQ4 x y z s
  | .recv x y => Sys2Proof.Machine.execRecv x y s
  | .recvAdd x y => Sys2Proof.Machine.execRecvAdd x y s
  | .cinc x y => Sys2Proof.Machine.execCinc x y s
  | .cwait x y => Sys2Proof.Machine.execCwait x y s
  | .cset x y => Sys2Proof.Machine.execCset x y s
  | .crd x y => Sys2Proof.Machine.execCrd x y s
  | .ipost x y => Sys2Proof.Machine.execIpost x y s
  | .iwait x y => Sys2Proof.Machine.execIwait x y s
  | .barInit x y => Sys2Proof.Machine.execBarInit x y s
  | .barArrive x y => Sys2Proof.Machine.execBarArrive x y s
  | .barArriveRlx x y => Sys2Proof.Machine.execBarArriveRlx x y s
  | .barWait x y => Sys2Proof.Machine.execBarWait x y s
  | .awin x y z w => Sys2Proof.Machine.execAwin x y z w s
  | .ascat x y z w => Sys2Proof.Machine.execAscat x y z w s
  | .amerge x => Sys2Proof.Machine.execAmerge x s
  | .arel x => Sys2Proof.Machine.execArel x s
  | .slook x y => Sys2Proof.Machine.execSlook x y s
  | .sins x y z => Sys2Proof.Machine.execSins x y z s
  | .sinv x => Sys2Proof.Machine.execSinv x s
  | .hAddi x y => Sys2Proof.Machine.execHAddi x y s
  | .hMv x y => Sys2Proof.Machine.execHMv x y s
  | .hLdd x y => Sys2Proof.Machine.execHLdd x y s
  | .hStd x y => Sys2Proof.Machine.execHStd x y s
  | .hBz x y => Sys2Proof.Machine.execHBz x y s
  | .hBnz x y => Sys2Proof.Machine.execHBnz x y s
  | .hJ x => Sys2Proof.Machine.execHJ x s
  | .hCwait x y => Sys2Proof.Machine.execHCwait x y s
  | .wset x => Sys2Proof.Machine.execWset x s
  | .wrd x y => Sys2Proof.Machine.execWrd x y s
  | .ofill x y z w => Sys2Proof.Machine.execOfill x y z w s
  | .gcopy x => Sys2Proof.Machine.execGcopy x s
  | .gtrans x => Sys2Proof.Machine.execGtrans x s
  | .gsave x => Sys2Proof.Machine.execGsave x s
  | .grest x => Sys2Proof.Machine.execGrest x s
  | .oacc x => Sys2Proof.Machine.execOacc x s
  | .giqDeparture => Sys2Proof.Machine.execGiqDeparture s
  | .windowPipeVector x => Sys2Proof.Machine.execWindowPipeVector x s
  | .scalarLoadReturn => Sys2Proof.Machine.execScalarLoadReturn s
  | .oaccStep x => Sys2Proof.Machine.execOaccStep x s
  | .streamStep x y => Sys2Proof.Machine.execStreamStep x y s
  | .engineAccept x => Sys2Proof.Machine.execEngineAccept x s
  | .engineComplete x => Sys2Proof.Machine.execEngineComplete x s
  | .engineRuntimeFault x y => Sys2Proof.Machine.execEngineRuntimeFault x y s
  | .cwaitSatisfied => Sys2Proof.Machine.execCwaitSatisfied s
  | .ipostApply => Sys2Proof.Machine.execIpostApply s
  | .iwaitSatisfied => Sys2Proof.Machine.execIwaitSatisfied s
  | .barWaitSatisfied => Sys2Proof.Machine.execBarWaitSatisfied s
  | .barrierRemoteOp x y z => Sys2Proof.Machine.execBarrierRemoteOp x y z s
  | .giqFaultTrap => Sys2Proof.Machine.execGiqFaultTrap s
  | .asyncTrap => Sys2Proof.Machine.execAsyncTrap s
  | .timerExpiry => Sys2Proof.Machine.execTimerExpiry s
  | .absentRowFetch x y => Sys2Proof.Machine.execAbsentRowFetch x y s
  | .pageWalk x => Sys2Proof.Machine.execPageWalk x s
  | .hostAnswer x y z => Sys2Proof.Machine.execHostAnswer x y z s
  | .invalidation x y => Sys2Proof.Machine.execInvalidation x y s
  | .invalidationComplete x => Sys2Proof.Machine.execInvalidationComplete x s
  | .queueEnable x y z => Sys2Proof.Machine.execQueueEnable x y z s
  | .queueDestroy x y z => Sys2Proof.Machine.execQueueDestroy x y z s
  | .tailWrite x y z => Sys2Proof.Machine.execTailWrite x y z s
  | .recordFetch x y => Sys2Proof.Machine.execRecordFetch x y s
  | .waitPoll x y => Sys2Proof.Machine.execWaitPoll x y s
  | .reserveAttempt x => Sys2Proof.Machine.execReserveAttempt x s
  | .reserveAgeExpiry x y => Sys2Proof.Machine.execReserveAgeExpiry x y s
  | .taskDispatch x y => Sys2Proof.Machine.execTaskDispatch x y s
  | .preemptDrain => Sys2Proof.Machine.execPreemptDrain s
  | .preemptSave => Sys2Proof.Machine.execPreemptSave s
  | .preemptGone => Sys2Proof.Machine.execPreemptGone s
  | .taskResume x => Sys2Proof.Machine.execTaskResume x s
  | .kill x => Sys2Proof.Machine.execKill x s
  | .sealAgentArrive x y => Sys2Proof.Machine.execSealAgentArrive x y s
  | .arrive x y z => Sys2Proof.Machine.execArrive x y z s
  | .commit x => Sys2Proof.Machine.execCommit x s
  | .logStallTimeout => Sys2Proof.Machine.execLogStallTimeout s
  | .holdStallTimeout => Sys2Proof.Machine.execHoldStallTimeout s
  | .domainFault x y => Sys2Proof.Machine.execDomainFault x y s
  | .rollback x => Sys2Proof.Machine.execRollback x s
  | .rollbackRestore x => Sys2Proof.Machine.execRollbackRestore x s
  | .rollbackClean => Sys2Proof.Machine.execRollbackClean s
  | .rollbackReport => Sys2Proof.Machine.execRollbackReport s
  | .resume => Sys2Proof.Machine.execResume s
  | .laneSparing x => Sys2Proof.Machine.execLaneSparing x s
  | .poison x => Sys2Proof.Machine.execPoison x s
  | .dieFence x => Sys2Proof.Machine.execDieFence x s
  | .domainFaultReport x y => Sys2Proof.Machine.execDomainFaultReport x y s
  | .rollbackDone x => Sys2Proof.Machine.execRollbackDone x s
  | .flitTransmit x => Sys2Proof.Machine.execFlitTransmit x s
  | .flitReceive x => Sys2Proof.Machine.execFlitReceive x s
  | .replayRequest x y => Sys2Proof.Machine.execReplayRequest x y s
  | .linkRetrain x => Sys2Proof.Machine.execLinkRetrain x s
  | .linkLost x => Sys2Proof.Machine.execLinkLost x s
  | .linkUp x y => Sys2Proof.Machine.execLinkUp x y s
  | .credit x y => Sys2Proof.Machine.execCredit x y s
  | .cancelNotice x => Sys2Proof.Machine.execCancelNotice x s
  | .retrainStart x => Sys2Proof.Machine.execRetrainStart x s
  | .msgbell x y => Sys2Proof.Machine.execMsgbell x y s
  | .msgack x => Sys2Proof.Machine.execMsgack x s
  | .outbell x => Sys2Proof.Machine.execOutbell x s
  | .mreset x y => Sys2Proof.Machine.execMreset x y s
  | .partitionReset x => Sys2Proof.Machine.execPartitionReset x s
  | .partitionTeardown x => Sys2Proof.Machine.execPartitionTeardown x s
  | .resetDrain x => Sys2Proof.Machine.execResetDrain x s
  | .resetFlush x => Sys2Proof.Machine.execResetFlush x s
  | .resetScrub x => Sys2Proof.Machine.execResetScrub x s
  | .resetFree x => Sys2Proof.Machine.execResetFree x s
  | .energyApportion x y => Sys2Proof.Machine.execEnergyApportion x y s
  | .hostMemAccess x y => Sys2Proof.Machine.execHostMemAccess x y s
  | .registerWrite x y => Sys2Proof.Machine.execRegisterWrite x y s
  | .packageReset x => Sys2Proof.Machine.execPackageReset x s
  | .getVersion => Sys2Proof.Machine.execGetVersion s
  | .getCapabilities => Sys2Proof.Machine.execGetCapabilities s
  | .negotiateAlgorithms x => Sys2Proof.Machine.execNegotiateAlgorithms x s
  | .getDigests => Sys2Proof.Machine.execGetDigests s
  | .getCertificate x => Sys2Proof.Machine.execGetCertificate x s
  | .challenge x => Sys2Proof.Machine.execChallenge x s
  | .getMeasurements x => Sys2Proof.Machine.execGetMeasurements x s
  | .keyExchange x => Sys2Proof.Machine.execKeyExchange x s
  | .finish x y => Sys2Proof.Machine.execFinish x y s
  | .heartbeat x => Sys2Proof.Machine.execHeartbeat x s
  | .keyUpdate x => Sys2Proof.Machine.execKeyUpdate x s
  | .endSession x => Sys2Proof.Machine.execEndSession x s

end Sys2Proof.Machine
end

