-- ==== Sys2Proof/Machine/Fetch.lean ====
section
/-! DEFINITION. Sys2Proof/Machine/Fetch.lean: fetching and running one instruction of a core (R31, R32, R90, R109): what step does
for the core that moves; and how one instruction is placed where the next fetch reads it. -/

namespace Sys2Proof.Machine

/-- What a fetch gives: the halfwords' bytes with the first line of poison among them, a fetch trap, or a wait for the host's walk. -/
inductive FetchRes where
  | ok (bs : List Byte) (poison : Option Word)
  | fault (va : Word) (f : PFault)
  | wait
deriving DecidableEq, Repr

/-- The datapath of a scalar instruction that a residue check covers, as MCKIND numbers it (R326, R328): 1 the integer ALU and MULDIV, 2
the scalar float paths, 3 the address generation of loads, stores and atomics. -/
def checkKind (i : Instr) : Option Nat :=
  match i with
  | .add .. | .sub .. | .and .. | .or .. | .xor .. | .andn .. | .orn .. | .shl .. | .shr .. | .sra .. | .rotl .. | .rotr .. | .slt ..
  | .sltn .. | .min .. | .max .. | .minn .. | .maxn .. | .clz .. | .ctz .. | .popc .. | .clmul .. | .clmulh .. | .mul .. | .mulh ..
  | .mulhn .. | .mulhsn .. | .div .. | .divn .. | .rem .. | .remn .. | .addi .. | .andi .. | .ori .. | .xori .. | .shli .. | .shri ..
  | .srai .. | .slti .. | .sltni .. | .lhi .. | .pcrel .. | .hAddi .. | .hMv .. => some 1
  | .fadd _ | .fsub _ | .fmul _ | .fdiv _ | .fsqrt _ | .fma _ | .fcvti _ | .fcvtn _ | .fcvtfi _ | .fcvtfn _ | .fcvtp _ => some 2
  | .ldb .. | .ldh .. | .ldw .. | .ldd .. | .ldbn .. | .ldhn .. | .ldwn .. | .stb .. | .sth .. | .stw .. | .std .. | .amoadd _
  | .amoand _ | .amoor _ | .amoxor _ | .amomin _ | .amomax _ | .amominn _ | .amomaxn _ | .amoswap _ | .cas _ | .lr _ | .sc _
  | .hLdd .. | .hStd .. => some 3
  | _ => none

namespace State

/-- The core that moves, as the agent of a fetch (R230: agent 0). -/
def fetchWho (s : State) : Who := { s.scalarWho false with agent := 0 }

/-- Fetch `n` halfwords from an address on, lowest first: a fault of any of them comes before poison (R32). -/
def fetchHalves (s : State) (va : Word) : Nat → State × FetchRes
  | 0 => (s, .ok [] none)
  | n + 1 =>
    match s.translate s.fetchWho .fetch va with
    | (s1, .wait) => (s1, .wait)
    | (s1, .fault f) => (s1, .fault va f)
    | (s1, .ok pa) =>
      let here := if s1.poisonedRange pa 2 then some (s1.poisonVa va pa 2) else none
      match s1.fetchHalves (va + 2) n with
      | (s2, .ok bs p) => (s2, .ok (s1.readBytes pa 2 ++ bs) (match here with | some x => some x | none => p))
      | (s2, r) => (s2, r)

/-- Count the bytes of a fetch of `n` halfwords at the pc (R384): once for an instruction, however long it then waits to issue (assumption
log 10). -/
def countFetch (s : State) (n : Nat) : State :=
  if s.core.fetched = some (s.core.pc, s.core.instret) then s
  else ((List.range n).foldl (fun s' (i : Nat) => match (s'.translate s'.fetchWho .fetch (s'.core.pc + BitVec.ofNat 64 (2 * i))).2 with
      | .ok pa => s'.meterMem s'.part pa 2 0
      | .fault _ | .wait => s') s).updCore fun c => { c with fetched := some (c.pc, c.instret) }

/-- Fetch one instruction at the pc: its first halfword gives its length (R31). A poisoned first halfword ends the fetch. -/
def fetch (s : State) : State × FetchRes :=
  match s.fetchHalves s.core.pc 1 with
  | (s1, .ok bs none) =>
    match s1.fetchHalves (s.core.pc + 2) (lengthOf (bs.headD 0) / 2 - 1) with
    | (s2, .ok more p) => (s2.countFetch (lengthOf (bs.headD 0) / 2), .ok (bs ++ more) p)
    | (s2, r) => (s2, r)
  | r => r

/-- A trap of the fetch or of an illegal encoding: taken once earlier GIQ entries have drained (R25, R33, R90). -/
def trapFetch (s : State) (f : State → Out) : Out := if s.core.drained then f s else .next s

/-- Run an instruction with the outcome of its datapath's residue check (R326, R327): the first listed one, which is used up when the
instruction moves on; with none listed, and for an instruction without such a check, it passes. A mismatch that the replay confirms is
a machine check of the instruction, precise as its other traps (R90, R328). -/
def runChecked (s : State) (i : Instr) : Out :=
  match checkKind i, s.upsets with
  | some k, .fail _ _ _ :: rest =>
    s.trapFetch fun s =>
      { s with upsets := rest }.machineCheck [] k none none (BitVec.ofNat 32 (rawBits i).toNat) s.core.pc s.core.pc s.core.pc
  | some _, chk :: rest =>
    (match exec i s with
      | .next t =>
        if t.core.instret == s.core.instret && t.core.load.isNone then .next t
        else .next ({ t with upsets := rest }.updCore fun c => c.countReplay chk)
      | o => o)
  | _, _ => exec i s

/-- What decoding gives is run; an illegal encoding traps with its bits (R33). -/
def runBytes (s : State) (bs : List Byte) : Out :=
  match decodeBytes bs with
  | .instr i _ => s.runChecked i
  | .illegal c => s.trapFetch fun s => s.trap 0x01 c.raw
  | .short => .next s

/-- Fetch and run one instruction (R32). A faulting fetch that still waits for the drain leaves the machine as it was, and a host's answer
that there is no translation stays for it (R223). -/
def fetchRun (s : State) : Out :=
  match s.fetch with
  | (s1, .wait) => .next s1
  | (s1, .fault va f) => if s1.core.drained then s1.trapPage 0 va f else .next s
  | (s1, .ok _ (some va)) => s1.trapFetch fun s => (s.updCore fun c => { c with restidx := 0 }).trap 0x0C va
  | (s1, .ok bs none) => s1.runBytes bs

/-- The core issues: a wfi that stalls completes once a cause is pending, before it is taken (R112); an enabled asynchronous cause is taken
between instructions; issue waits for a scalar load in the paced mode and for an irrev (R89, R109, R314). -/
def issue (s : State) : Out :=
  if s.core.load.isSome then .next s
  else
    match s.core.asyncPending s.timeNow with
    | some code =>
      if s.core.wfi then .next ((s.updCore fun c => { c with wfi := false }).advance 4)
      else if s.core.asyncEnabled then s.takeAsync code
      else if s.core.run != .running || s.core.issueHeld then .next s else s.fetchRun
    | none => if s.core.run != .running || s.core.issueHeld then .next s else s.fetchRun

/-- In the paced mode the core's oldest waiting store may be performed now (R237; assumption log 30). -/
def landSome (s : State) : State :=
  match s.core.sbuf with
  | [] => s
  | w :: rest =>
    if Config.storeLands s.free then (s.tickFree.landStores [w]).updCore fun c => { c with sbuf := c.sbuf ++ rest } else s.tickFree

/-- The core that moves: a drain under way goes on; else its grid side goes on where it moves at once, then it issues one instruction.
A core that does not run stays as it is. -/
def coreStep (s : State) : Out :=
  match s.core.run with
  | .running | .halting =>
    let s0 := s.landSome
    if s0.core.drn.isSome then s0.drainOn
    else
      match s0.pumpAll with
      | (s1, some (e, f)) => s1.giqFault e f
      | (s1, none) => match s1.core.run with
        | .running | .halting => s1.issue
        | .idle | .stop | .drain | .save | .gone | .halted | .fenced => .next s1
  | .idle | .stop | .drain | .save | .gone | .halted | .fenced => .next s

/-- One entry of the agenda: a core moves, or an event happens at it. What is no event runs only by being fetched. -/
def agendaStep (s : State) (n : Nat) (i : Option Instr) : Out :=
  let s1 := if n < 96 then s.switchTo n else s
  match i with
  | none => s1.coreStep
  | some i => if i.isEvent then exec i s1 else .next s1

/-! ### Placing an instruction (assumption log 15) -/

/-- The five entries of a page table at 0x20000, 0x24000, 0x26000, 0x26100 and 0x26200 that map the first 128 KiB of virtual
addresses to 0x40000 (R216, R217), with the grant bits of the units 1 and 2 at 0x100000 (R381). -/
def placedTable : List (Nat × List Byte) :=
  [(0x20000, leBytes 8 (0x24000 + 1)), (0x24000, leBytes 8 (0x26000 + 1)), (0x26000, leBytes 8 (0x26100 + 1)),
   (0x26100, leBytes 8 (0x26200 + 1)), (0x26200, leBytes 8 (0x40000 + 0x37)), (0x100000, [0x06])]

/-- The core that moves runs at task level from address 0 with an empty grid side, no store waiting and no asynchronous cause. -/
def placedCore (c : Core) : Core :=
  { c with run := .running, pc := 0, status := setField c.status 0 2 0, load := none, giq := [], flight := [], streams := []
           sbuf := [], older := [], wfi := false, drn := none, prev := none, front := none, preReq := false, sealReq := false, msgReq := false, timecmp := 0 }

/-- The machine with an instruction's bytes where the next step fetches, as the launch of a task would have left it. -/
def placeBytes (s : State) (bs : List Byte) : State :=
  let s1 := (placedTable ++ [(0x40000, bs)]).foldl (fun (s : State) (p : Nat × List Byte) => s.rawWrite p.1 p.2) s
  { s1.updCore placedCore with
    agenda := [], tlb := [], walks := [], upsets := [], cmds := [], deadDies := s.deadDies.filter fun d => d != 0 }.modPart s.part fun x =>
      { x with ptroot := 0x20000, grantbase := 0x100000, ha := false }

end State
end Sys2Proof.Machine
end

