-- ==== Sys2Proof/Machine/Step.lean ====
section
/-! DEFINITION. Sys2Proof/Machine/Step.lean: one step of the package: time passes, and the core or event that the agenda names
next moves; with an empty agenda the present core moves (assumption log 1). -/

namespace Sys2Proof.Machine

/-- One step. -/
def step (s : State) : Host.Outcome State Fault Refusal :=
  let s1 := s.tick
  match s1.agenda with
  | [] => s1.coreStep
  | (n, i) :: rest => { s1 with agenda := rest }.agendaStep n i

/-- The machine with an instruction placed where the next step fetches it: its bits below `nbits`, zeros above (assumption log 15). -/
def State.withFetchWord (s : State) (nbits w : Nat) : State := s.placeBytes (leBytes 8 (w % 2 ^ nbits))

end Sys2Proof.Machine
end

