-- ==== Sys2Proof/Safety.lean ====
section
/-! DEFINITION. Sys2Proof/Safety.lean: what counts as a safe run, and the terms in which claims about one instruction are made:
which registers are free, how a grid-side instruction is dispatched, and what a frame leaves unchanged. -/

namespace Sys2Proof.Safety
open Sys2Proof.Machine

/-! ### Runs -/

/-- The first `n` steps from a state all give a next state. -/
def safeFor (s : State) : Nat → Prop
  | 0 => True
  | n + 1 => ∃ t, step s = .next t ∧ safeFor t n

/-- Does a state come from another in some number of steps. -/
inductive Reaches (s : State) : State → Prop where
  | refl : Reaches s s
  | step {t u : State} : Reaches s t → Machine.step t = .next u → Reaches s u

/-- The memory of a state has its canonical form: addresses strictly rise and no listed byte is zero. -/
abbrev memoryWf (s : State) : Prop := Sp.wf 0 s.mem = true

/-! ### Conditions on a state -/

/-- No register of the list is pending (R16). -/
abbrev Clear (s : State) (rs : List Reg) : Prop := ∀ r ∈ rs, s.core.pendingReg r.toNat = false

/-- The grid side and the engines move only by events of their own (assumption log 2). -/
abbrev Paced (s : State) : Prop := s.lagGrid = true ∧ s.lagEng = true

/-- No entry is in the GIQ or outside it incomplete, and no stream, command or held block is outstanding. -/
abbrev Idle (s : State) : Prop :=
  s.core.giq = [] ∧ s.core.flight = [] ∧ s.core.streams = [] ∧ s.cmds = []

/-- Scalar accesses may start: no marker holds them and no old task's halt is outstanding (R26, R241). -/
abbrev Unheld (s : State) : Prop := s.core.scalarHeld = false ∧ s.core.runAhead = false

/-- The entry is the only one that has left the GIQ, it is incomplete and nothing stopped it, no stream is outstanding, and no trap
drains. -/
abbrev Alone (s : State) (e : Entry) : Prop :=
  s.core.flight = [e] ∧ e.fin = false ∧ e.stop = .none ∧ s.core.streams = [] ∧ s.core.drn = none

/-- Every scalar store of the core has been performed (R237; assumption log 30). -/
abbrev Landed (s : State) : Prop := s.core.sbuf = []

/-- No scalar store of any core waits (assumption log 30). -/
abbrev NoStores (s : State) : Prop := ∀ n, (s.getCore n).sbuf = []

/-- No row of the grid is absent (R125). -/
def NoAbsent (s : State) : Prop := ∀ half r, (s.core.grid.row half r).absent = false

/-! ### Invariants of a step -/

/-- A core runs or is being pre-empted only while its device takes commits: its domain is in RUN, or a fault was raised there and no
rollback has begun (R322, R323). -/
def RunsInDomain (s : State) : Prop := ∀ n < 96, (s.getCore n).run.active = true → s.dom.state.commits = true

/-- The levels of one core: STATUS.PL, STATUS.PPL and the level that its firmware returns to are legal (R102). -/
def CoreLevels (c : Core) : Prop := fieldNat c.status 0 2 ≤ 2 ∧ fieldNat c.status 2 2 ≤ 2 ∧ c.fw.pl ≤ 2

/-- No core is at level 3 or can return to it, neither those of the package nor those saved with a pre-empted task (R102, R371). -/
def LevelsLegal (s : State) : Prop := (∀ n, CoreLevels (s.getCore n)) ∧ ∀ t ∈ s.tasks, ∀ v ∈ t.saved, v.fw.pl ≤ 2

/-! ### Results -/

/-- The machine after an entry has been written into the GIQ (R14): the instruction counts and the pc moves on. -/
def dispatched (s : State) (op : GOp) (i : Instr) (len : Nat) : State := (s.push op i).advance len

/-- The instruction dispatches an entry with these captured operands (R14, R15): then whatever moves at once goes on, which is
nothing where the grid side and the engines are paced. -/
def Dispatches (i : Instr) (s : State) (op : GOp) (len : Nat) : Prop :=
  exec i s = (dispatched s op i len).andPump ∧ (Paced s → exec i s = .next (dispatched s op i len))

/-- A slot-B instruction may dispatch: no register that it reads is pending, and the GIQ takes one more entry (R14, R16). -/
abbrev MayDispatch (s : State) (rs : List Reg) : Prop := Clear s rs ∧ s.core.giqFull = false

/-- The window instruction dispatches with these operands when it accepts their type and counts (R46, R119). -/
def DispatchesWindow (i : Instr) (s : State) (op : WOp) (a : WinArgs) : Prop :=
  typeOk op a.ty = true → countsOk op a = true → Dispatches i s (.win op a) 4

/-- The machine after the only entry outside the GIQ has completed with its flags merged (R84); a machine check at its address is no
longer the latest one since it last retired (R329). -/
def retired (s : State) (e : Entry) : State :=
  s.updCore fun c => { c.retireEntry e with flight := [] }

/-- The entry as an event leaves it when there is more to do or it still waits. -/
def still (s : State) (e : Entry) : State := s.updCore fun c => { c with flight := [e] }

/-- The entry as it waits for its condition (R369). -/
def waiting (s : State) (e : Entry) : State := still s { e with stop := .wait }

/-- Everything of the machine but the core that moves is the same. -/
def SameOutside (s t : State) : Prop := t = { s with core := t.core }

/-- The core is the same but for the x registers, the pc, INSTRET, FLAGS and the list of machine checks not yet retired past (R329). -/
def SameBeside (c d : Core) : Prop :=
  d = { c with regs := d.regs, pc := d.pc, instret := d.instret, flags := d.flags, lastMc := d.lastMc }

/-- The x register that an instruction of the ALU, MULDIV, immediate or jump forms writes: they touch no memory and no flag. -/
def writesOnly : Instr → Option Reg
  | .add d _ _ | .sub d _ _ | .and d _ _ | .or d _ _ | .xor d _ _ | .andn d _ _ | .orn d _ _ | .shl d _ _ | .shr d _ _
  | .sra d _ _ | .rotl d _ _ | .rotr d _ _ | .slt d _ _ | .sltn d _ _ | .min d _ _ | .max d _ _ | .minn d _ _ | .maxn d _ _
  | .clz d _ | .ctz d _ | .popc d _ | .clmul d _ _ | .clmulh d _ _ | .mul d _ _ | .mulh d _ _ | .mulhn d _ _ | .mulhsn d _ _
  | .div d _ _ | .divn d _ _ | .rem d _ _ | .remn d _ _ | .addi d _ _ | .andi d _ _ | .ori d _ _ | .xori d _ _ | .shli d _ _
  | .shri d _ _ | .srai d _ _ | .slti d _ _ | .sltni d _ _ | .lhi d _ | .pcrel d _ | .jal d _ | .jalr d _ _ | .hAddi d _
  | .hMv d _ => some d
  | _ => none

/-- The instructions that write no register and touch no memory: the branches. -/
def onlyBranches : Instr → Bool
  | .beq _ _ _ | .bne _ _ _ | .blt _ _ _ | .bge _ _ _ | .bltn _ _ _ | .bgen _ _ _ | .hBz _ _ | .hBnz _ _ | .hJ _ => true
  | _ => false

/-- A byte of memory as an agent of the package reads it. -/
def byte (s : State) (pa : Nat) : Byte := s.byteAt pa

end Sys2Proof.Safety
end

