-- ==== Sys2Proof/Certificates/Slice0/Obligations.lean ====
section
/-! DEFINITION. Sys2Proof/Certificates/Slice0/Obligations.lean: the statements for the provers. Each docstring names the rule that it
formalises, or says that it is a choice of the model. -/

open Sys2Proof Sys2Proof.Machine Sys2Proof.Safety

/-! ### The scalar side -/

/-- R91: the value that each ALU instruction writes to xd (a write to x0 is discarded, R85), for all operands. -/
def Obligations.AluWritesTheValueOfR91 : Prop :=
  ∀ (s : State) (d a b : Reg), Clear s [d, a, b] →
    let done (v : Word) : Out := .next ((s.setReg d v).advance 4)
    let x := s.reg a
    let y := s.reg b
    let n := y.toNat % 64
    let p := (List.range 64).foldl (fun (acc : BitVec 128) i =>
      if y.getLsbD i then acc ^^^ (x.setWidth 128 <<< i) else acc) 0
    exec (.add d a b) s = done (x + y) ∧
    exec (.sub d a b) s = done (x - y) ∧
    exec (.and d a b) s = done (x &&& y) ∧
    exec (.or d a b) s = done (x ||| y) ∧
    exec (.xor d a b) s = done (x ^^^ y) ∧
    exec (.andn d a b) s = done (x &&& ~~~y) ∧
    exec (.orn d a b) s = done (x ||| ~~~y) ∧
    exec (.shl d a b) s = done (x <<< n) ∧
    exec (.shr d a b) s = done (x >>> n) ∧
    exec (.sra d a b) s = done (x.sshiftRight n) ∧
    exec (.rotl d a b) s = done (x.rotateLeft n) ∧
    exec (.rotr d a b) s = done (x.rotateRight n) ∧
    exec (.slt d a b) s = done (if x.toInt < y.toInt then 1 else 0) ∧
    exec (.sltn d a b) s = done (if x.toNat < y.toNat then 1 else 0) ∧
    exec (.min d a b) s = done (if y.toInt < x.toInt then y else x) ∧
    exec (.max d a b) s = done (if x.toInt < y.toInt then y else x) ∧
    exec (.minn d a b) s = done (if y.toNat < x.toNat then y else x) ∧
    exec (.maxn d a b) s = done (if x.toNat < y.toNat then y else x) ∧
    (∃ k ≤ 64, exec (.clz d a) s = done (BitVec.ofNat 64 k) ∧ (∀ i, 64 - k ≤ i → x.getLsbD i = false) ∧
      (k < 64 → x.getLsbD (63 - k) = true)) ∧
    (∃ k ≤ 64, exec (.ctz d a) s = done (BitVec.ofNat 64 k) ∧ (∀ i < k, x.getLsbD i = false) ∧
      (k < 64 → x.getLsbD k = true)) ∧
    exec (.popc d a) s = done (BitVec.ofNat 64 ((List.range 64).filter fun i => x.getLsbD i).length) ∧
    exec (.clmul d a b) s = done (p.setWidth 64) ∧
    exec (.clmulh d a b) s = done ((p >>> 64).setWidth 64)

/-- R93: the results of multiplication and division, with the corners of division. -/
def Obligations.MuldivWritesTheValueOfR93 : Prop :=
  ∀ (s : State) (d a b : Reg), Clear s [d, a, b] →
    let done (v : Word) : Out := .next ((s.setReg d v).advance 4)
    let x := s.reg a
    let y := s.reg b
    exec (.mul d a b) s = done (BitVec.ofNat 64 (x.toNat * y.toNat)) ∧
    exec (.mulh d a b) s = done (BitVec.ofInt 64 (x.toInt * y.toInt / 2 ^ 64)) ∧
    exec (.mulhn d a b) s = done (BitVec.ofNat 64 (x.toNat * y.toNat / 2 ^ 64)) ∧
    exec (.mulhsn d a b) s = done (BitVec.ofInt 64 (x.toInt * (y.toNat : Int) / 2 ^ 64)) ∧
    exec (.div d a b) s = done (if y.toNat = 0 then BitVec.ofNat 64 (2 ^ 64 - 1)
      else if x.toInt = -2 ^ 63 ∧ y.toInt = -1 then BitVec.ofNat 64 (2 ^ 63) else BitVec.ofInt 64 (x.toInt.tdiv y.toInt)) ∧
    exec (.rem d a b) s = done (if y.toNat = 0 then x else if x.toInt = -2 ^ 63 ∧ y.toInt = -1 then 0
      else BitVec.ofInt 64 (x.toInt - y.toInt * x.toInt.tdiv y.toInt)) ∧
    exec (.divn d a b) s = done (if y.toNat = 0 then BitVec.ofNat 64 (2 ^ 64 - 1) else BitVec.ofNat 64 (x.toNat / y.toNat)) ∧
    exec (.remn d a b) s = done (if y.toNat = 0 then x else BitVec.ofNat 64 (x.toNat % y.toNat))

/-- R92: the instructions with an immediate operand. -/
def Obligations.ImmediateFormsWriteTheValueOfR92 : Prop :=
  ∀ (s : State) (d a : Reg) (i15 : BitVec 15) (i12 : BitVec 12) (n : BitVec 6) (i20 : BitVec 20), Clear s [d, a] →
    let done (v : Word) : Out := .next ((s.setReg d v).advance 4)
    let x := s.reg a
    let m : Word := i12.signExtend 64
    exec (.addi d a i15) s = done (x + i15.signExtend 64) ∧
    exec (.andi d a i12) s = done (x &&& m) ∧
    exec (.ori d a i12) s = done (x ||| m) ∧
    exec (.xori d a i12) s = done (x ^^^ m) ∧
    exec (.shli d a n) s = done (x <<< n.toNat) ∧
    exec (.shri d a n) s = done (x >>> n.toNat) ∧
    exec (.srai d a n) s = done (x.sshiftRight n.toNat) ∧
    exec (.slti d a i12) s = done (if x.toInt < i12.toInt then 1 else 0) ∧
    exec (.sltni d a i12) s = done (if x.toNat < m.toNat then 1 else 0) ∧
    exec (.lhi d i20) s = done (BitVec.ofInt 64 (i20.toInt * 4096)) ∧
    exec (.pcrel d i20) s = done (s.core.pc + BitVec.ofInt 64 (i20.toInt * 4096))

/-- R94: a taken branch goes to its own address plus twice the offset; an untaken one falls through.
R95 and R32: jal and jalr link the address after themselves; jalr forms its target first and clears its bit 0.
R96: the 16-bit forms that touch no memory. -/
def Obligations.ControlTransfersGoWhereTheRulesSay : Prop :=
  (∀ (s : State) (a b : Reg) (imm : BitVec 12), Clear s [a, b] →
    let go (taken : Prop) [Decidable taken] : Out :=
      .next (if taken then (s.setPc (s.core.pc + BitVec.ofInt 64 (imm.toInt * 2))).retire else s.advance 4)
    let x := s.reg a
    let y := s.reg b
    exec (.beq a b imm) s = go (x = y) ∧
    exec (.bne a b imm) s = go (x ≠ y) ∧
    exec (.blt a b imm) s = go (x.toInt < y.toInt) ∧
    exec (.bge a b imm) s = go (y.toInt ≤ x.toInt) ∧
    exec (.bltn a b imm) s = go (x.toNat < y.toNat) ∧
    exec (.bgen a b imm) s = go (y.toNat ≤ x.toNat)) ∧
  (∀ (s : State) (d a : Reg) (i20 : BitVec 20) (i15 : BitVec 15), Clear s [d, a] →
    exec (.jal d i20) s =
      .next (((s.setReg d (s.core.pc + 4)).setPc (s.core.pc + BitVec.ofInt 64 (i20.toInt * 2))).retire) ∧
    exec (.jalr d a i15) s =
      .next (((s.setReg d (s.core.pc + 4)).setPc ((s.reg a + i15.signExtend 64) &&& ~~~1)).retire)) ∧
  (∀ (s : State) (d a : Reg) (i7 : BitVec 7) (i12 : BitVec 12), Clear s [d, a] →
    let go (taken : Prop) [Decidable taken] (off : Int) : Out :=
      .next (if taken then (s.setPc (s.core.pc + BitVec.ofInt 64 (off * 2))).retire else s.advance 2)
    exec (.hAddi d i7) s = .next ((s.setReg d (s.reg d + i7.signExtend 64)).advance 2) ∧
    exec (.hMv d a) s = .next ((s.setReg d (s.reg a)).advance 2) ∧
    exec (.hBz a i7) s = go (s.reg a = 0) i7.toInt ∧
    exec (.hBnz a i7) s = go (s.reg a ≠ 0) i7.toInt ∧
    exec (.hJ i12) s = go True i12.toInt)

/-- R100 with R63: the operations that round run in the mode of the instruction, dynamic from STATUS.SRM; the value and the flags
are those of the exact result rounded once (R62).
R61: the exact results of finite operands: the sum, difference, product and fused product as real numbers, with the sign of a zero sum; a
quotient or a root that has no short binary form lies between two neighbours of more bits than any format keeps.
R62, R65: what rounding such a result `v` into f32 or f64 gives, in each mode, with NX exactly where the rounded value differs, and where OF and
UF rise; that a value overflows when its rounded value does is the model's reading (assumption log 65). -/
def Obligations.RoundingFloatOperationsAct : Prop :=
  let num (n : Bool) (m : Nat) (e : Int) : ℝ := (if n then -1 else 1) * (m : ℝ) * (2 : ℝ) ^ e
  let between (n : Bool) (m : Nat) (e : Int) (v : ℝ) : Prop :=
    |num n m e| < |v| ∧ |v| < |num n (m + 1) e| ∧ 0 < v * num n 1 0
  (∀ F ∈ [fmtF32, fmtF64], ∀ (mode : RMode) (neg sticky : Bool) (m : Nat) (e : Int) (v : ℝ),
    (sticky = false ∧ v = num neg m e) ∨ (sticky = true ∧ 2 ^ (F.mbits + 2) ≤ m ∧ between neg m e v) →
    let r := roundTo F .ieee mode false (.num neg m e sticky)
    let there (y : ℝ) : Prop := ∃ u n k q, F.decode u = .fin n k q ∧ num n k q = y
    let top : Int := F.qmin + 2 ^ F.ebits - 3
    r.1 < 2 ^ F.width ∧ F.decode r.1 ≠ .nan ∧
    (∀ n k q, F.decode r.1 = .fin n k q →
      let x := num n k q
      n = neg ∧ (r.2.nx = true ↔ x ≠ v) ∧
      (mode = .rtz → |x| ≤ |v| ∧ ∀ y, there y → |y| ≤ |v| → |y| ≤ |x|) ∧
      (mode = .rdn → x ≤ v ∧ ∀ y, there y → y ≤ v → y ≤ x) ∧
      (mode = .rup → v ≤ x ∧ ∀ y, there y → v ≤ y → x ≤ y) ∧
      (mode = .rne ∨ mode = .rmm → ∀ y, there y → |v - x| ≤ |v - y| ∧
        (|v - y| = |v - x| → y ≠ x → if mode = .rne then r.1 % 2 = 0 else |y| < |x|))) ∧
    (∀ n, F.decode r.1 = .inf n → n = neg ∧ r.2.nx = true ∧ r.2.ov = true ∧ mode ≠ .rtz ∧ (mode = .rdn → neg = true) ∧
      (mode = .rup → neg = false) ∧ (mode = .rne ∨ mode = .rmm → num false (2 ^ (F.mbits + 2) - 1) (top - 1) ≤ |v|)) ∧
    (r.2.ov = true → r.2.nx = true ∧ num false (2 ^ (F.mbits + 1) - 1) top < |v|) ∧
    (num false 1 (top + F.mbits + 1) ≤ |v| → r.2.ov = true) ∧
    (r.2.uf = true → r.2.nx = true ∧ |v| < num false 1 (F.qmin + F.mbits)) ∧
    (r.2.nx = true → |v| ≤ num false (2 ^ (F.mbits + 1) - 1) (F.qmin - 1) → r.2.uf = true) ∧
    r.2.nv = false ∧ r.2.dz = false ∧ r.2.sat = false) ∧
  (∀ (mode : RMode) (n1 n2 n3 : Bool) (m1 m2 m3 : Nat) (e1 e2 e3 : Int),
    let a : FV := .fin n1 m1 e1
    let b : FV := .fin n2 m2 e2
    let x := num n1 m1 e1
    let y := num n2 m2 e2
    let exactly (r : Exact) (v : ℝ) : Prop := ∃ n m e, r = .num n m e false ∧ num n m e = v
    let within (r : Exact) (v : ℝ) : Prop := exactly r v ∨ ∃ n m e, r = .num n m e true ∧ 2 ^ 54 ≤ m ∧ between n m e v
    exactly (addFV mode a b) (x + y) ∧ exactly (addFV mode a b.neg) (x - y) ∧ exactly (mulFV a b) (x * y) ∧
    exactly (fmaFV mode a b (.fin n3 m3 e3)) (x * y + num n3 m3 e3) ∧
    (x + y = 0 → addFV mode a b = .num (if n1 = n2 then n1 else decide (mode = .rdn)) 0 0 false) ∧
    (m2 ≠ 0 → within (divFV a b) (x / y)) ∧
    (n1 = false ∨ m1 = 0 → ∃ v : ℝ, 0 ≤ v ∧ v * v = x ∧ within (sqrtFV a) v)) ∧
  ∀ (s : State) (f : FpsF) (m : RMode), Clear s [f.a, f.b, f.d] → fpsMode f s.core.status = some m →
    let x := s.reg f.a
    let y := s.reg f.b
    let z := s.reg f.d
    let F := f.fmt
    let done (r : Word × Fl) : Out := .next (((s.updCore fun c => c.raiseScalar r.2).setReg f.d r.1).advance 4)
    exec (.fadd f) s = done (fpsRound F m (addFV m (f.val x) (f.val y))) ∧
    exec (.fsub f) s = done (fpsRound F m (addFV m (f.val x) (f.val y).neg)) ∧
    exec (.fmul f) s = done (fpsRound F m (mulFV (f.val x) (f.val y))) ∧
    exec (.fdiv f) s = done (fpsRound F m (divFV (f.val x) (f.val y))) ∧
    exec (.fsqrt f) s = done (fpsRound F m (sqrtFV (f.val x))) ∧
    exec (.fma f) s = done (fpsRound F m (fmaFV m (f.val x) (f.val y) (f.val z))) ∧
    exec (.fcvti f) s = done (let r := toIntRange m (-2 ^ 63) (2 ^ 63 - 1) (f.val x); (BitVec.ofInt 64 r.1, r.2)) ∧
    exec (.fcvtn f) s = done (let r := toIntRange m 0 (2 ^ 64 - 1) (f.val x); (BitVec.ofInt 64 r.1, r.2)) ∧
    exec (.fcvtfi f) s = done (fpsRound F m (intExact x.toInt)) ∧
    exec (.fcvtfn f) s = done (fpsRound F m (intExact (x.toNat : Int))) ∧
    (f.p = 0 → exec (.fcvtp f) s = done (fpsRound fmtF32 m (fmtF64.decode x.toNat).exact)) ∧
    (f.p = 1 → exec (.fcvtp f) s = done (fpsRound fmtF64 m (fmtF32.decode (x.toNat % 2 ^ 32)).exact))

/-- R100: the operations that do not round, in every mode that STATUS holds: they read none. fmin and fmax choose as R61 says; fneg
and fabs change the sign bit; a NaN among the operands makes every comparison false, and flt and fle raise SNV; fclass gives INT,
SIGN and KIND. -/
def Obligations.ExactFloatOperationsAct : Prop :=
  ∀ (s : State) (f : FpsF), Clear s [f.a, f.b, f.d] →
    let a := s.reg f.a
    let x := f.val a
    let y := f.val (s.reg f.b)
    let nan := x.isNaN || y.isNaN
    let single (v : BitVec 32) : Word := v.setWidth 64
    let signed (v : Word) : Word := if x.isNaN then BitVec.ofNat 64 f.fmt.cnan else v
    let int : Bool := match x with
      | .fin _ m e => decide (0 ≤ e ∨ m % 2 ^ (-e).toNat = 0)
      | .nan | .inf _ => false
    let sign : Bool := if f.p = 1 then a.getLsbD 63 else a.getLsbD 31
    let kind : Nat := if x.isNaN then 4 else if x.isInf then 3 else if x.isZero then 0
      else if f.pat a / 2 ^ f.fmt.mbits % 2 ^ f.fmt.ebits = 0 then 1 else 2
    let done (v : Word) (g : Fl) : Out := .next (((s.updCore fun c => c.raiseScalar g).setReg f.d v).advance 4)
    exec (.fmin f) s = done (fpsKeep f.fmt (minFV x y)) {} ∧
    exec (.fmax f) s = done (fpsKeep f.fmt (maxFV x y)) {} ∧
    exec (.fneg f) s = done (signed (if f.p = 1 then a ^^^ ((1 : Word) <<< 63)
      else single (a.setWidth 32 ^^^ ((1 : BitVec 32) <<< 31)))) {} ∧
    exec (.fabs f) s = done (signed (if f.p = 1 then a &&& ~~~((1 : Word) <<< 63)
      else single (a.setWidth 32 &&& ~~~((1 : BitVec 32) <<< 31)))) {} ∧
    exec (.feq f) s = done (if !nan && eqFV x y then 1 else 0) {} ∧
    exec (.flt f) s = done (if !nan && ltFV x y then 1 else 0) { nv := nan } ∧
    exec (.fle f) s = done (if !nan && !ltFV y x then 1 else 0) { nv := nan } ∧
    exec (.fclass f) s = done (BitVec.ofNat 64 (16 * int.toNat + 8 * sign.toNat + kind)) {}

/-! ### Memory -/

/-- R97, R98, R99: a load that passes its checks, the earlier stores of its core being performed, writes its n bytes, extended as R40
says, to xd. A walk may change the state on the way (`s1`), and so do the stores that wait (`s2`; assumption log 30); device registers are
read by another rule. -/
def Obligations.LoadWritesTheExtendedBytes : Prop :=
  ∀ (s s1 : State) (d a : Reg) (imm : BitVec 12) (i7 : BitVec 7) (pa n len : Nat) (sgn : Bool) (i : Instr) (ea : Word),
    (i, ea, n, sgn, len) ∈ ([(.ldb d a imm, s.reg a + imm.signExtend 64, 1, true, 4),
      (.ldh d a imm, s.reg a + imm.signExtend 64, 2, true, 4), (.ldw d a imm, s.reg a + imm.signExtend 64, 4, true, 4),
      (.ldd d a imm, s.reg a + imm.signExtend 64, 8, true, 4), (.ldbn d a imm, s.reg a + imm.signExtend 64, 1, false, 4),
      (.ldhn d a imm, s.reg a + imm.signExtend 64, 2, false, 4), (.ldwn d a imm, s.reg a + imm.signExtend 64, 4, false, 4),
      (.hLdd d i7, s.reg 2 + 8 * i7.setWidth 64, 8, true, 2)] : List (Instr × Word × Nat × Bool × Nat)) →
    Clear s [d, a, 2] → Unheld s → s.lagLoads = false → ea.toNat % n = 0 →
    s.translate (s.scalarWho (n == 8 || n == 4)) .load ea = (s1, .ok pa) →
    let s2 := s1.landAll
    s2.core.sbuf = [] → s2.lagLoads = false → s2.poisonedRange pa n = false → s2.region pa ≠ .dev →
    let v : BitVec (8 * n) := BitVec.ofNat (8 * n) (s2.readNat pa n)
    exec i s = .next (((s2.meterMem s2.part pa n 0).setReg d (if sgn then v.signExtend 64 else v.setWidth 64)).advance len)

/-- R97, R99, R237, R306, R320: a store that passes its checks and finds log and hold capacity writes the low n bytes of its register:
at once, or in its turn where stores wait (assumption log 30), with the partition and, for a member's, the interval that it had when it was
issued; a held store enters the hold buffer as it is issued. -/
def Obligations.StoreWritesTheLowBytes : Prop :=
  ∀ (s s1 : State) (b a : Reg) (imm : BitVec 12) (i7 : BitVec 7) (pa n len : Nat) (i : Instr) (ea : Word),
    (i, ea, n, len) ∈ ([(.stb b a imm, s.reg a + imm.signExtend 64, 1, 4),
      (.sth b a imm, s.reg a + imm.signExtend 64, 2, 4), (.stw b a imm, s.reg a + imm.signExtend 64, 4, 4),
      (.std b a imm, s.reg a + imm.signExtend 64, 8, 4),
      (.hStd b i7, s.reg 2 + 8 * i7.setWidth 64, 8, 2)] : List (Instr × Word × Nat × Nat)) →
    Clear s [b, a, 2] → Unheld s → ea.toNat % n = 0 →
    s.translate (s.scalarWho (n == 8 || n == 4)) .store ea = (s1, .ok pa) →
    s1.region pa ≠ .dev → s1.lost pa = false → s1.writeStalls s1.writer pa n = false →
    let bytes := (List.range n).map fun k => (s.reg b).extractLsb' (8 * k) 8
    (s1.lagStores = false ∨ s1.holds s1.writer pa = true → exec i s = .next ((s1.write s1.writer pa bytes).advance len)) ∧
    (s1.lagStores = true → s1.holds s1.writer pa = false → exec i s = .next ((s1.updCore fun c =>
      { c with sbuf := c.sbuf ++ [⟨s1.nextCmd, pa, bytes, s1.writer.part,
                                  if s1.memberCore s1.cur then some s1.writer.rin else none, s1.writer.hold⟩] }).advance len))

/-- What is written reads back, and nothing else changes (R97, R306, R320): logged memory and scratchpads, where no held store
covers the range.
R307: a logged write appends one record for each line that needs one, newest first, with the line's old bytes and poison, its
writer's partition and its interval; a line whose latest record carries that interval gets none.
R246, R247, R415: where loads are paced, each of a core's own grid-side or engine writes leaves its scalar side what it replaces, to be read
until something orders the write before its loads, or another write reaches the granule (assumption log 30). -/
def Obligations.WritesReadBackAndAreLogged : Prop :=
  (∀ (s : State) (w : Wr) (pa : Nat) (bs : List Byte),
    s.lost pa = false → s.region pa = .hbm ∨ s.region pa = .tier2 ∨ s.region pa = .spad →
    (∀ h ∈ s.held, h.pa + h.bytes.length ≤ pa ∨ pa + bs.length ≤ h.pa) →
    (∀ k (hk : k < bs.length), byte (s.write w pa bs) (pa + k) = bs[k]) ∧
    (∀ a, a < pa ∨ pa + bs.length ≤ a → byte (s.write w pa bs) a = byte s a) ∧
    (let c := (s.write w pa bs).core
     c = { s.core with resv := c.resv, sealReq := c.sealReq, older := c.older } ∧
     (s.lagLoads = false ∨ w.behind ≠ some s.cur → ∀ p, (∃ l ∈ c.older, p ∈ l) ↔
       (∃ l ∈ s.core.older, p ∈ l) ∧ (pa + bs.length ≤ p.1 / 64 * 64 ∨ p.1 / 64 * 64 + 64 ≤ pa)) ∧
     (s.lagLoads = true → w.behind = some s.cur → bs ≠ [] →
       c.older = s.core.older ++ [(List.range bs.length).map fun i => (pa + i, Sp.get 0 s.mem (pa + i))]))) ∧
  (∀ (s : State) (w : Wr) (line : Nat),
    ((∀ r, (s.undo.find? fun r => r.line == line) = some r → later w.rin r.rin = true ∨ later r.rin s.dom.datum = false) →
      let old := (List.range 256).map fun i => Sp.get 0 s.mem (line + i)
      (s.logLine w line).undo =
        ⟨w.part, line, s.poisoned line, w.rin, BitVec.ofNat 32 (crc32c old), old, false⟩ :: s.undo) ∧
    (∀ r, (s.undo.find? fun r => r.line == line) = some r → later w.rin r.rin = false → later r.rin s.dom.datum = true →
      s.logLine w line = s) ∧
    (s.logLine w line).mem = s.mem)

/-- R249 to R252: an AMO that passes its checks reads the old value, stores the new one, and gives the old one, sign-extended for
the .w forms, to xd; cas stores only on equality, lr reserves, sc stores only under its reservation and ends it. R99, R246: it reads memory
as it stands, and where loads are paced so does every later load (`u`; assumption log 30). -/
def Obligations.AtomicsReadModifyWrite : Prop :=
  ∀ (s s1 : State) (f : AmoF) (pa : Nat), Clear s [f.a, f.b, f.d] → Unheld s → (s.reg f.a).toNat % f.n = 0 →
    s.translate (s.scalarWho false) .amo (s.reg f.a) = (s1, .ok pa) → Landed s1 →
    let u := s1.orderLoads
    u.poisonedRange pa f.n = false → u.writeStalls u.writer pa f.n = false →
    let w := 8 * f.n
    let old : BitVec w := BitVec.ofNat w (u.readNat pa f.n)
    let y : BitVec w := (u.reg f.b).setWidth w
    let out : Word := if f.n = 4 then old.signExtend 64 else old.setWidth 64
    let bytes (v : BitVec w) : List Byte := (List.range f.n).map fun k => v.extractLsb' (8 * k) 8
    let give (t : State) (r : Word) : Out := .next (((t.meterMem t.part pa f.n 0).setReg f.d r).advance 4)
    let put (v : BitVec w) : Out := give (u.write u.writer pa (bytes v)) out
    let resv (t : State) (r : Option (Nat × Nat)) : State := t.updCore fun c => { c with resv := r }
    exec (.amoadd f) s = put (old + y) ∧
    exec (.amoand f) s = put (old &&& y) ∧
    exec (.amoor f) s = put (old ||| y) ∧
    exec (.amoxor f) s = put (old ^^^ y) ∧
    exec (.amomin f) s = put (if y.toInt < old.toInt then y else old) ∧
    exec (.amomax f) s = put (if old.toInt < y.toInt then y else old) ∧
    exec (.amominn f) s = put (if y.toNat < old.toNat then y else old) ∧
    exec (.amomaxn f) s = put (if old.toNat < y.toNat then y else old) ∧
    exec (.amoswap f) s = put y ∧
    exec (.cas f) s = (if old = (u.reg f.d).setWidth w then put y else give u out) ∧
    exec (.lr f) s = give (resv u (some (pa / 64 * 64, f.n))) out ∧
    exec (.sc f) s = (if u.core.resv = some (pa / 64 * 64, f.n) then give (resv (u.write u.writer pa (bytes y)) none) 0
      else give (resv u none) 1)

/-! ### System instructions, traps and returns -/

/-- R101: the CSR instructions give the old value to xd and write as the table says, at every level that the table lets; csrs and
csrc with x0 only read. The rows are (first number, last number, lowest reading level, lowest writing level; 3 is none). -/
def Obligations.CsrInstructionsReadAndWrite : Prop :=
  ∀ (s : State) (d a : Reg) (n : BitVec 10) (row : Nat × Nat × Nat × Nat),
    row ∈ [(0x000, 0x007, 0, 0), (0x008, 0x00A, 0, 1), (0x010, 0x016, 1, 1), (0x020, 0x024, 1, 2), (0x030, 0x032, 0, 2),
      (0x040, 0x045, 0, 3), (0x050, 0x052, 0, 2), (0x053, 0x053, 1, 1), (0x060, 0x06F, 0, 3)] →
    row.1 ≤ n.toNat → n.toNat ≤ row.2.1 → Clear s [d, a] → s.core.runAhead = false → s.core.drained = true →
    row.2.2.1 ≤ s.pl →
    let old := s.csrRead n.toNat
    let put (v : Word) : Out := .next (((s.csrWrite n.toNat v).setReg d old).advance 4)
    let get : Out := .next ((s.setReg d old).advance 4)
    exec (.csrr d n) s = get ∧ exec (.csrs d 0 n) s = get ∧ exec (.csrc d 0 n) s = get ∧
    (row.2.2.2 ≤ s.pl → exec (.csrw d a n) s = put (s.reg a) ∧
      (a ≠ 0 → exec (.csrs d a n) s = put (old ||| s.reg a) ∧ exec (.csrc d a n) s = put (old &&& ~~~s.reg a)))

/-- R5 with the layouts of R82, R83, R103, R104, R106, R136, R188, R328 and R331: what a write changes of a register that
holds its bits, by the mask of its writable bits.
The rows 0x020 to 0x024 rest on the model's reading: R101 lets firmware write these registers, R328 marks every field of them read-only, and a
write obeys the map (assumption log 52).
R102: what a write of STATUS changes: the rounding and flush fields always, PIE and IE above task level, PPL above task
level and only to 0 or 1, PL never. -/
def Obligations.CsrWritesChangeTheirFields : Prop :=
  (∀ (s : State) (n : Nat) (m v : Word),
    (n, m) ∈ ([(0x001, 0x1F7F), (0x002, 0x800000000000FF7F), (0x003, 0x800000000000FF7F), (0x004, 0x800000000000FF7F),
      (0x005, 0x800000000000FF7F), (0x006, 0x800000000000FF7F), (0x007, 0xFF7F), (0x008, 0xFFFFFFFF),
      (0x009, 0x8000FFFF000701FF), (0x00A, 0x80000000000000FF), (0x010, 0xFFFFFFFFFFFFFF00), (0x011, 0xFFFFFFFFFFFFFFFE),
      (0x012, 0xFFFFFFFFFFFFFFFE), (0x013, 0x80000000000000FF), (0x014, 0xFFFFFFFFFFFFFFFF), (0x015, 0xFFFFFFFFFFFFFFFF),
      (0x020, 0), (0x021, 0), (0x022, 0), (0x023, 0), (0x024, 0),
      (0x053, 0xFFFFFFFFFFFFFFFF)] : List (Nat × Word)) →
    (s.csrWrite n v).csrRead n = (s.csrRead n &&& ~~~m) ||| (v &&& m) ∧
    (s.csrWrite n v).mem = s.mem ∧ (s.csrWrite n v).core.regs = s.core.regs ∧
    (s.csrWrite n v).core.status = s.core.status) ∧
  (∀ (s : State) (v : Word),
    let old := s.core.status
    let new := (s.csrWrite 0x000 v).core.status
    (∀ i ∈ [8, 9, 10, 12, 13, 14, 16, 17], new.getLsbD i = v.getLsbD i) ∧
    (∀ i ∈ [4, 5], new.getLsbD i = if 1 ≤ s.pl then v.getLsbD i else old.getLsbD i) ∧
    fieldNat new 2 2 = (if 1 ≤ s.pl ∧ fieldNat v 2 2 < 2 then fieldNat v 2 2 else fieldNat old 2 2) ∧
    (∀ i, i ∈ [0, 1, 6, 7, 11, 15] ∨ 18 ≤ i → new.getLsbD i = old.getLsbD i))

/-- R109, R110: trap n at task level enters runtime level: STATUS, CAUSE, TVAL, EPC, SPC and the pc.
R110, R111, R332, R367: at runtime level trap n calls Jorhin, whose own registers take the interrupted level; EPC, SPC, CAUSE,
TVAL and the x registers stay. The address that the call resumes at and Jorhin's entry are the model's choice (assumption logs 6
and 18). Call 0x300 raises a domain fault, in a state in which a running core means that the device takes commits (an invariant of every
step, stated on its own); that it is cause 3 is the model's numbering (assumption log 37). Call 0x301 ends the task. -/
def Obligations.TrapInstructionEntersTheNextLevel : Prop :=
  (∀ (s : State) (k : BitVec 10) (i : Instr) (n : Nat),
    (i, n) ∈ [(.trap k, k.toNat), (.trapRollback, 0x300), (.trapKill, 0x301)] →
    s.pl = 0 → s.core.drained = true →
    ∃ t, exec i s = .next t ∧ SameOutside s t ∧
      t.core.cause = 0x0F ∧ t.core.tval = BitVec.ofNat 64 n ∧
      t.core.epc = s.core.pc &&& ~~~1 ∧ t.core.spc = (s.core.pc + 4) &&& ~~~1 ∧ t.core.pc = s.core.tvec &&& ~~~255 ∧
      t.pl = 1 ∧ fieldNat t.core.status 2 2 = 0 ∧ t.core.status.getLsbD 4 = false ∧
      t.core.status.getLsbD 5 = s.core.status.getLsbD 4 ∧ (∀ j, 6 ≤ j → t.core.status.getLsbD j = s.core.status.getLsbD j) ∧
      t.core.regs = s.core.regs ∧ t.core.flags = s.core.flags ∧ t.core.grid = s.core.grid ∧ t.core.masks = s.core.masks) ∧
  (∀ (s : State) (k : BitVec 10), s.pl = 1 → s.core.drained = true → s.cur < 96 →
    (∃ t, exec (.trap k) s = .next t ∧ SameOutside s t ∧ t.pl = 2 ∧
      t.core.fw = ⟨1, s.core.status.getLsbD 4, s.core.pc + 4, [], 0⟩ ∧ t.core.pc = Config.firmwareEntry &&& ~~~1 ∧
      (∀ j, 2 ≤ j → t.core.status.getLsbD j = s.core.status.getLsbD j) ∧ t.core.epc = s.core.epc ∧ t.core.spc = s.core.spc ∧
      t.core.cause = s.core.cause ∧ t.core.tval = s.core.tval ∧ t.core.regs = s.core.regs) ∧
    (RunsInDomain s → s.core.run = .running → ∃ t, exec .trapRollback s = .next t ∧ t.dom.state = .fault ∧
      t.net = s.net ++ [.domainFault 3] ∧ t.mem = s.mem ∧ t.core.run = .halted ∧ t.core.regs = s.core.regs) ∧
    (∃ t, exec .trapKill s = .next t ∧ t.findTask (s.core.task.getD 0) = none ∧ t.core.run = .idle ∧ (NoStores s → t.mem = s.mem)))

/-- R111: eret at runtime level returns to the level and IE that STATUS holds, at SPC, and writes the held block back with the
progress of R376; where the grid side is paced nothing else moves.
R111: eret at firmware level restores PL and IE from Jorhin's registers and reads and changes no register of the lower
level; at task level eret is illegal.
R112: wfi completes when an asynchronous cause is pending, enabled or not, and waits otherwise, with no timer armed or an armed one whose
value TIME has not reached (R106); at task level it is illegal. -/
def Obligations.EretAndWfiAct : Prop :=
  (∀ (s : State), s.pl = 1 → s.core.drained = true → Paced s → (∀ x, s.curTask = some x → x.state = .running) →
    ∃ t, exec .eret s = .next t ∧ t.core.pc = s.core.spc ∧ t.pl = fieldNat s.core.status 2 2 ∧
      t.core.status.getLsbD 4 = s.core.status.getLsbD 5 ∧
      (∀ j, j ∈ [2, 3] ∨ 5 ≤ j → t.core.status.getLsbD j = s.core.status.getLsbD j) ∧
      t.core.giq.map (fun e => { e with ord := 0 }) =
        (s.core.blk.map s.core.resumed).map (fun e => { e with ord := 0, stop := .none, epc := false }) ∧ t.core.blk = [] ∧ t.core.resv = none ∧
      t.core.epc = s.core.epc ∧ t.core.cause = s.core.cause ∧ t.core.tval = s.core.tval ∧ t.core.regs = s.core.regs ∧
      t.core.flags = s.core.flags ∧ t.core.grid = s.core.grid ∧ t.mem = s.mem) ∧
  (∀ (s : State), s.core.drained = true →
    (s.pl = 2 → Paced s → (∀ x, s.curTask = some x → x.state = .running) →
      ∃ t, exec .eret s = .next t ∧ t.core.pc = s.core.fw.pc ∧ t.pl = s.core.fw.pl % 4 ∧
        t.core.status.getLsbD 4 = s.core.fw.ie ∧ (∀ j, j ∈ [2, 3] ∨ 5 ≤ j → t.core.status.getLsbD j = s.core.status.getLsbD j) ∧
        t.core.giq.map (fun e => { e with ord := 0 }) =
          s.core.fw.block.map (fun e => { e with ord := 0, stop := .none, epc := false }) ∧
        t.core.epc = s.core.epc ∧ t.core.spc = s.core.spc ∧ t.core.cause = s.core.cause ∧ t.core.tval = s.core.tval ∧
        t.core.blk = s.core.blk ∧ t.core.rowprog = s.core.rowprog ∧ t.core.stepprog = s.core.stepprog ∧
        t.core.regs = s.core.regs ∧ t.mem = s.mem) ∧
    (s.pl = 0 → ∃ t, exec .eret s = .next t ∧ t.core.cause = 1 ∧ t.core.regs = s.core.regs ∧ t.core.blk = [] ∧ t.mem = s.mem)) ∧
  (∀ (s : State),
    (1 ≤ s.pl → (s.core.preReq = true ∨ s.core.sealReq = true ∨ s.core.msgReq = true ∨
        (s.core.timecmp ≠ 0 ∧ s.core.timecmp.toNat ≤ s.timeNow.toNat)) →
      exec .wfi s = .next ((s.updCore fun c => { c with wfi := false }).advance 4)) ∧
    (1 ≤ s.pl → s.core.preReq = false → s.core.sealReq = false → s.core.msgReq = false →
        s.core.timecmp = 0 ∨ s.timeNow.toNat < s.core.timecmp.toNat →
      exec .wfi s = .next (s.updCore fun c => { c with wfi := true })) ∧
    (s.pl = 0 → s.core.drained = true → ∃ t, exec .wfi s = .next t ∧ t.core.cause = 1 ∧ t.mem = s.mem))

/-- R18, R113, R241, R312, R314: the fences, halt, seal and irrev place their marker; after halt the core issues nothing more; the
core of a task outside the domain places a fence.all of domain scope for seal and irrev. -/
def Obligations.MarkersAreDispatched : Prop :=
  ∀ (s : State) (scope : BitVec 3) (a : Reg), s.core.runAhead = false → s.core.giqFull = false → Clear s [a] →
    Dispatches (.fenceSv scope) s (.fence 0 scope.toNat) 4 ∧
    Dispatches (.fenceVs scope) s (.fence 1 scope.toNat) 4 ∧
    Dispatches (.fenceVv scope) s (.fence 2 scope.toNat) 4 ∧
    Dispatches (.fenceAll scope) s (.fence 3 scope.toNat) 4 ∧
    (let h := s.updCore fun c => { c with run := .halting }
     exec .halt s = (dispatched h .halt .halt 4).andPump ∧ (Paced s → exec .halt s = .next (dispatched h .halt .halt 4))) ∧
    (∀ (p : Word) (op : GOp) (i : Instr), (i, p, op) ∈ [(.seal a, s.reg a, .seal (s.reg a)), (.irrev, s.irrevPtr, .irrev s.irrevPtr)] →
      s.pl ≠ 2 →
      p = 0 ∨ (p.toNat % 64 = 0 ∧ ∃ pa, s.translate (s.scalarWho false) .store p = (s, .ok pa) ∧ s.logged pa = true) →
      Dispatches i s (if s.memberCore s.cur then op else .fence 3 4) 4)

/-- R311, R313, R360: below firmware level sealq gives DATUM; enq, its core's stores being performed, gives the old TAIL and moves it
(noting the step in which the records arrive, R374), or −2 for a queue that is not enabled, or −1 for a full one; a count that is zero or no multiple of 16 traps with cause 0x02. -/
def Obligations.SealqAndEnqAct : Prop :=
  ∀ (s : State) (d a : Reg) (q : BitVec 3), Clear s [d, a] →
    let n := s.reg a
    let x := s.getQueue s.part q.toNat
    (s.pl ≠ 2 → exec (.sealq d) s = .next ((s.setReg d (s.dom.datum.setWidth 64)).advance 4)) ∧
    (s.pl ≠ 2 → s.core.runAhead = false → Landed s → n ≠ 0 → n.toNat % 16 = 0 →
      (x.state ≠ 1 → exec (.enq d a q) s = .next ((s.setReg d (BitVec.ofInt 64 (-2))).advance 4)) ∧
      (x.state = 1 → x.head.toNat + 2 ^ x.log2sz < x.tail.toNat + n.toNat →
        exec (.enq d a q) s = .next ((s.setReg d (BitVec.ofInt 64 (-1))).advance 4)) ∧
      (x.state = 1 → x.tail.toNat + n.toNat ≤ x.head.toNat + 2 ^ x.log2sz →
        exec (.enq d a q) s =
          .next (((s.modQueue s.part q.toNat fun y =>
            { y with tail := x.tail + n, pubs := y.pubs ++ [(x.tail + n, s.ticks)] }).setReg d x.tail).advance 4))) ∧
    (s.pl = 0 → s.core.drained = true → n = 0 ∨ n.toNat % 16 ≠ 0 →
      ∃ t, exec (.enq d a q) s = .next t ∧ t.core.cause = 2 ∧ t.core.epc = s.core.pc &&& ~~~1 ∧ t.core.regs = s.core.regs ∧
        t.parts = s.parts ∧ t.mem = s.mem)

/-! ### Dispatch to the grid side -/

/-- R14, R15: dispatch writes one entry at the end of the GIQ, with the operation and the operands captured, the pc of the
instruction, its bits, and the vector rounding mode and flush bit that STATUS holds; INSTRET counts it, the pc moves on and a machine
check at its address is no longer the latest (R329); nothing else of the core changes.
R14, R16: a slot-B instruction that finds the GIQ full, or a register that it reads pending, stalls: nothing changes. Here the
engine commands, counters and mask instructions with one register. That the GIQ is full when 64 entries have not completed, those that have
left it among them, is the model's choice (assumption log 23). -/
def Obligations.DispatchWritesOneEntryOrStalls : Prop :=
  (∀ (s : State) (op : GOp) (i : Instr) (len : Nat),
    let t := dispatched s op i len
    (∃ e : Entry, t.core = { s.core with giq := s.core.giq ++ [e], pc := s.core.pc + BitVec.ofNat 64 len,
                                         instret := s.core.instret + 1
                                         lastMc := s.core.lastMc.filter (· != s.core.pc) } ∧
      e.op = op ∧ e.pc = s.core.pc ∧ e.word = (State.rawBits i).setWidth 32 ∧ e.prog = 0 ∧ e.fin = false ∧ e.pl = s.pl ∧
      e.st.vrm = fieldNat s.core.status 8 3 ∧ e.st.flush = s.core.status.getLsbD 16 ∧ e.st.ovfm = s.core.status.getLsbD 17) ∧
    t = { s with core := t.core, nextCmd := s.nextCmd + 1 }) ∧
  (∀ (s : State) (c a : Reg) (i : Instr),
    i ∈ [.cinc c a, .cwait c a, .cset c a, .iwait c a, .sinv a, .slook c a, .sendRaw c a, .recv c a, .recvAdd c a] →
    (s.core.pendingReg a.toNat = true ∨ s.core.giqFull = true) → exec i s = .next s)

/-- R135, R14: the mask instructions are dispatched with their registers captured.
R121, R122, R126 to R131, R182: the tile forms are dispatched; wset changes the front-end copy of its window at once. -/
def Obligations.MasksAndTileFormsDispatch : Prop :=
  (∀ (s : State) (d a b : Reg), MayDispatch s [a, b] →
    let x := s.reg a
    let y := s.reg b
    Dispatches (.kbound d a b) s (.kop .bound d.toNat 0 0 x y) 4 ∧
    Dispatches (.kset d a b) s (.kop .set d.toNat 0 0 x y) 4 ∧
    Dispatches (.kand d a b) s (.kop .and d.toNat a.toNat b.toNat 0 0) 4 ∧
    Dispatches (.kor d a b) s (.kop .or d.toNat a.toNat b.toNat 0 0) 4 ∧
    Dispatches (.kxor d a b) s (.kop .xor d.toNat a.toNat b.toNat 0 0) 4 ∧
    Dispatches (.kandn d a b) s (.kop .andn d.toNat a.toNat b.toNat 0 0) 4 ∧
    Dispatches (.knot d a) s (.kop .not d.toNat a.toNat 0 0 0) 4 ∧
    Dispatches (.kmov d a) s (.kop .mov d.toNat a.toNat 0 0 0) 4 ∧
    Dispatches (.kpop d a) s (.kop .pop d.toNat a.toNat 0 0 0) 4 ∧
    Dispatches (.kfirst d a) s (.kop .first d.toNat a.toNat 0 0 0) 4 ∧
    Dispatches (.kgetl d a) s (.kop .getl d.toNat a.toNat 0 0 0) 4 ∧
    Dispatches (.kgeth d a) s (.kop .geth d.toNat a.toNat 0 0 0) 4 ∧
    Dispatches (.kzero d) s (.kop .zero d.toNat 0 0 0 0) 4 ∧
    Dispatches (.kone d) s (.kop .one d.toNat 0 0 0 0) 4) ∧
  (∀ (s : State) (f : WsetF) (w : Win) (d : Reg) (km : KField) (ty : BitVec 4) (v : BitVec 32) (g : CopyF) (m : GimF) (o : OaccF),
    MayDispatch s [f.xo, m.a] →
    let x : Window := ⟨f.half.toNat, WMode.ofCode f.mode.toNat, (f.origin.toNat + (s.reg f.xo).toNat % 128) % 128,
      f.cntm1.toNat + 1, if f.stride.toNat < 8 then (f.stride.toNat : Int) else f.stride.toNat - 16⟩
    let s1 := s.updCore fun c => { c with wins := c.wins.setIfInBounds f.w.toNat (some x) }
    exec (.wset f) s = (dispatched s1 (.wset f.w.toNat x) (.wset f) 8).andPump ∧
    (Paced s → exec (.wset f) s = .next (dispatched s1 (.wset f.w.toNat x) (.wset f) 8)) ∧
    (∀ y, s.win w = some y → Dispatches (.wrd w d) s (.wrd d.toNat (y.descriptor w.toNat)) 8 ∧
      Dispatches (.ofill w km ty v) s (.ofill y km v) 8) ∧
    (copyOk false g = true → Dispatches (.gcopy g) s (.copy false g) 8) ∧
    (copyOk true g = true → Dispatches (.gtrans g) s (.copy true g) 8) ∧
    (m.first.toNat + m.cntm1.toNat < 128 →
      Dispatches (.gsave m) s (.gimage false m.half.toNat m.first.toNat (m.cntm1.toNat + 1) (s.reg m.a)) 8 ∧
      Dispatches (.grest m) s (.gimage true m.half.toNat m.first.toNat (m.cntm1.toNat + 1) (s.reg m.a)) 8) ∧
    (oaccOk o = true → Dispatches (.oacc o) s (.oacc o) 8))

/-- R135: where the grid side moves at once and nothing is outstanding, a mask instruction that writes a mask writes it and is done
with its dispatch. The comparison of kbound is exact. -/
def Obligations.MaskInstructionsWriteTheirMasks : Prop :=
  ∀ (s : State) (d a b : Reg), Idle s → s.lagGrid = false → Clear s [a, b] →
    let x := s.core.masks.read a.toNat
    let y := s.core.masks.read b.toNat
    let does (i : Instr) (m : Mask) : Prop := ∃ t, exec i s = .next t ∧ t.core.masks = s.core.masks.setIfInBounds d.toNat m ∧
      t.core.giq = [] ∧ t.core.flight = [] ∧ t.core.pc = s.core.pc + 4 ∧ t.core.regs = s.core.regs ∧ t.core.grid = s.core.grid ∧
      t.core.flags = s.core.flags ∧ t.mem = s.mem
    (∀ (i : Instr) (m : Mask), (i, m) ∈ ([(.kand d a b, x &&& y), (.kor d a b, x ||| y), (.kxor d a b, x ^^^ y),
      (.kandn d a b, x &&& ~~~y), (.knot d a, ~~~x), (.kmov d a, x), (.kzero d, 0), (.kone d, BitVec.allOnes 128),
      (.kset d a b, s.reg b ++ s.reg a)] : List (Instr × Mask)) → does i m) ∧
    (∃ m : Mask, does (.kbound d a b) m ∧ ∀ j < 128, m.getLsbD j = decide ((s.reg a).toInt + (j : Int) < (s.reg b).toInt))

/-- R44, R46, R119, R144 to R150, R159, R161: the two-operand window instructions are dispatched with type, mask, windows and second operand.
R46, R152 to R154, R159, R163, R165: the window instructions with one source are dispatched.
R46, R151, R155 to R158, R160, R162, R164: the window instructions of the other forms are dispatched: conversions of
blocks and vround with the field of ws2, vperm, vmov of forms 01 and 10, vext, viota and vrowi, and the comparisons. -/
def Obligations.WindowInstructionsDispatch : Prop :=
  (∀ (s : State) (f : VBin) (t : ETy) (d a : Window) (b : Op2 × Option Window),
    MayDispatch s (State.formRegs f.form f.ws2) → fieldNat s.core.status 8 3 < 5 →
    ETy.ofCode f.ty.toNat = some t → s.win f.wd = some d → s.win f.ws1 = some a → s.operand2 f.form f.ws2 = some b →
    let args : WinArgs := { ty := t, km := f.km, op2 := b.1, wd := some d, w1 := some a, w2 := b.2 }
    ∀ p ∈ ([(.vadd f, .elem .add), (.vsub f, .elem .sub), (.vmul f, .elem .mul), (.vfma f, .elem .fma), (.vfms f, .elem .fms),
      (.vmin f, .elem .min), (.vmax f, .elem .max), (.vand f, .elem .and), (.vor f, .elem .or), (.vxor f, .elem .xor),
      (.vshl f, .elem .shl), (.vshr f, .elem .shr), (.vsra f, .elem .sra), (.vclamp f, .elem .clamp),
      (.vscale2 f, .elem .scale2), (.vclmul f, .elem .clmul), (.vclmulh f, .elem .clmulh), (.vcpsgn f, .elem .cpsgn),
      (.vsel f, .sel), (.vslide f, .slide)] : List (Instr × WOp)), DispatchesWindow p.1 s p.2 args) ∧
  (∀ (s : State) (f : VUn) (src : BitVec 5) (t u : ETy) (d a : Window),
    MayDispatch s [] → fieldNat s.core.status 8 3 < 5 → ETy.ofCode f.ty.toNat = some t → ETy.ofCode src.toNat = some u →
    s.win f.wd = some d → s.win f.ws1 = some a →
    let args : WinArgs := { ty := t, km := f.km, wd := some d, w1 := some a }
    ∀ p ∈ ([(.vabs f, .elem .abs), (.vneg f, .elem .neg), (.vmov f, .elem .mov), (.vcompress f, .compress),
      (.vrsum f, .rowRed .sum), (.vrmax f, .rowRed .max), (.vrmin f, .rowRed .min), (.vrsumsq f, .rowRed .sumsq),
      (.vcsum f, .colRed .sum), (.vcmax f, .colRed .max), (.vcmin f, .colRed .min), (.vcvt f src, .elem (.cvt u)),
      (.vrcp f, .elem .rcp), (.vsqrt f, .elem .sqrt), (.vrsqrt f, .elem .rsqrt), (.vexp2 f, .elem .exp2),
      (.vlog2 f, .elem .log2)] : List (Instr × WOp)), DispatchesWindow p.1 s p.2 args) ∧
  (∀ (s : State) (f : VTri) (g : VImm) (x : VBin) (z : VGen) (c : VCmp) (t : ETy) (d a : Window) (b : Op2 × Option Window),
    MayDispatch s (State.formRegs g.form g.ws2) → fieldNat s.core.status 8 3 < 5 → ETy.ofCode f.ty.toNat = some t →
    g.ty = f.ty → x.ty = f.ty → z.ty = f.ty → c.ty = f.ty → s.win f.wd = some d → s.win f.ws1 = some a →
    g.wd = f.wd → z.wd = f.wd → x.ws1 = f.ws1 → c.ws1 = f.ws1 → x.form = g.form → x.ws2 = g.ws2 → c.form = g.form →
    c.ws2 = g.ws2 → s.operand2 g.form g.ws2 = some b →
    let args : WinArgs := { ty := t, km := f.km, wd := some d, w1 := some a }
    DispatchesWindow (.vquant f) s (.quant f.ws2.toNat) args ∧
    DispatchesWindow (.vdequant f) s (.dequant f.ws2.toNat) args ∧
    DispatchesWindow (.vround f) s (.elem (.round f.ws2.toNat)) args ∧
    (∀ w, s.win f.ws2 = some w → DispatchesWindow (.vperm f) s .perm { args with w2 := some w }) ∧
    DispatchesWindow (.vmovOp2 g) s (.elem .mov) { ty := t, km := g.km, op2 := b.1, wd := some d } ∧
    DispatchesWindow (.vext x) s .ext { ty := t, km := x.km, op2 := b.1, w1 := some a, w2 := b.2, xd := 8 + x.wd.toNat } ∧
    DispatchesWindow (.viota z) s .iota { ty := t, km := z.km, wd := some d } ∧
    DispatchesWindow (.vrowi z) s .rowi { ty := t, km := z.km, wd := some d } ∧
    (∀ p ∈ [(Instr.vcmpEq c, Pred.eq), (.vcmpNe c, .ne), (.vcmpLt c, .lt), (.vcmpLe c, .le), (.vcmpGt c, .gt), (.vcmpGe c, .ge),
      (.vcmpUnord c, .unord), (.vcmpOrd c, .ord)],
      DispatchesWindow p.1 s (.cmp p.2)
        { ty := t, km := c.km, op2 := b.1, w1 := some a, w2 := b.2, kd := c.kd.toNat }))

/-- R63: an FPS instruction that reads a dynamic mode while STATUS.SRM holds 5, 6 or 7 is an illegal instruction and changes no
register; here, and in every clause, at task level with the GIQ drained.
R98, R251, order 1: a misaligned load, store or atomic, the 16-bit forms among them, traps with cause 0x03 and TVAL the effective
address, and touches no memory.
R98, R220, R251: such an access of an address without translation traps with cause 0x05 (a load) or 0x06 (a store, an atomic), one that its
leaf does not allow at task level with cause 0x07, TVAL the effective address; a load or atomic that meets poison with cause 0x0C, RESTIDX
zero and TVAL the start of the poisoned line or granule (R104, R331): that it is that start is the model's choice (assumption log 26).
R101, R27: an access that the table of R101 denies at task level is an illegal instruction and writes nothing.
R15, R33, R119, R142: an illegal operand at dispatch traps with cause 0x02, and no entry is written: an unconfigured window, a type or
a count that the instruction does not accept. -/
def Obligations.SynchronousTrapsAreTaken : Prop :=
  (∀ (s : State) (f : FpsF) (i : Instr), i ∈ [.fadd f, .fsub f, .fmul f, .fdiv f, .fsqrt f, .fma f, .fcvti f, .fcvtn f, .fcvtfi f,
      .fcvtfn f, .fcvtp f] →
    Clear s [f.a, f.b, f.d] → f.m = 5 → 5 ≤ fieldNat s.core.status 12 3 → s.pl = 0 → s.core.drained = true →
    ∃ t, exec i s = .next t ∧ t.core.cause = 1 ∧ t.core.regs = s.core.regs ∧ t.core.flags = s.core.flags
      ∧ fieldNat t.core.status 0 2 = 1 ∧ t.core.epc = s.core.pc &&& ~~~1 ∧ t.mem = s.mem) ∧
  (∀ (s : State) (d a : Reg) (imm : BitVec 12) (i7 : BitVec 7) (f : AmoF) (i : Instr) (rs : List Reg) (ea : Word) (n : Nat) (k : Acc),
    (i, rs, ea, n, k) ∈ (
      let at_ (i : Instr) (n : Nat) (k : Acc) : Instr × List Reg × Word × Nat × Acc := (i, [d, a], s.reg a + imm.signExtend 64, n, k)
      let sp (i : Instr) (k : Acc) : Instr × List Reg × Word × Nat × Acc := (i, [d, 2], s.reg 2 + 8 * i7.setWidth 64, 8, k)
      [at_ (.ldb d a imm) 1 .load, at_ (.ldh d a imm) 2 .load, at_ (.ldw d a imm) 4 .load, at_ (.ldd d a imm) 8 .load,
       at_ (.ldbn d a imm) 1 .load, at_ (.ldhn d a imm) 2 .load, at_ (.ldwn d a imm) 4 .load, sp (.hLdd d i7) .load,
       at_ (.stb d a imm) 1 .store, at_ (.sth d a imm) 2 .store, at_ (.stw d a imm) 4 .store, at_ (.std d a imm) 8 .store,
       sp (.hStd d i7) .store] ++
      [Instr.amoadd f, .amoand f, .amoor f, .amoxor f, .amomin f, .amomax f, .amominn f, .amomaxn f, .amoswap f, .cas f, .lr f,
       .sc f].map fun i => (i, [f.a, f.b, f.d], s.reg f.a, f.n, Acc.amo)) →
    Clear s rs → Unheld s → s.pl = 0 → s.core.drained = true →
    let held := s.tlbHit (probeBank s.cur ea) s.part ea
    let traps (c : Word) (v : Word) (more : State → Prop) : Prop := ∃ t, exec i s = .next t ∧ t.core.cause = c ∧ t.core.tval = v ∧
      t.core.epc = s.core.pc &&& ~~~1 ∧ t.core.spc = s.core.pc &&& ~~~1 ∧ t.core.pc = s.core.tvec &&& ~~~255 ∧ t.pl = 1 ∧
      t.core.regs = s.core.regs ∧ t.core.grid = s.core.grid ∧ more t
    (ea.toNat % n ≠ 0 → traps 3 ea fun t => t.mem = s.mem ∧ t.held = s.held) ∧
    (ea.toNat % n = 0 → ea.toNat < apertureBase →
      ((s.getPart s.part).ha = false → held = none → s.tlbHit (clusterTlb (s.cur / 4)) s.part ea = none →
        (∃ x, s.walk s.part ea = .error x) → traps (if k = .load then 5 else 6) ea fun _ => True) ∧
      (∀ e, held = some e →
        e.leaf.getLsbD 5 = false ∨ (k ≠ .store ∧ e.leaf.getLsbD 2 = false) ∨ (k ≠ .load ∧ e.leaf.getLsbD 3 = false) →
        traps 7 ea fun _ => True) ∧
      (∀ s1 pa, k ≠ .store → s.translate (s.scalarWho (k = .load && (n == 8 || n == 4))) k ea = (s1, .ok pa) → Landed s1 →
        s1.lagLoads = false ∨ k = .amo → s1.poisonedRange pa n = true →
        traps 0x0C (ea - BitVec.ofNat 64 (pa % (if s1.region pa = .spad then 64 else 256))) fun t => t.core.restidx = 0))) ∧
  (∀ (s : State) (d a : Reg) (n : BitVec 10) (i : Instr),
    (i = .csrr d n ∧ ((0x010 ≤ n.toNat ∧ n.toNat ≤ 0x024) ∨ n.toNat = 0x053)) ∨
    (i = .csrw d a n ∧ ((0x008 ≤ n.toNat ∧ n.toNat ≤ 0x06F))) →
    Clear s [d, a] → s.core.runAhead = false → s.core.drained = true → s.pl = 0 →
    ∃ t, exec i s = .next t ∧ t.core.cause = 1 ∧ t.core.tval = State.rawBits i ∧ t.core.epc = s.core.pc &&& ~~~1 ∧
      t.core.regs = s.core.regs ∧ t.core.flags = s.core.flags ∧ t.core.rin = s.core.rin ∧ t.dom = s.dom ∧ t.mem = s.mem) ∧
  (∀ (s : State) (f : VBin) (u : VUn) (z : VTri) (c : VCmp) (g : VGen) (t : ETy),
    s.pl = 0 → s.core.drained = true → fieldNat s.core.status 8 3 < 5 →
    let refused (i : Instr) : Prop := ∃ t, exec i s = .next t ∧ t.core.cause = 2 ∧ t.core.tval = State.rawBits i ∧ t.core.giq = [] ∧
      t.core.flight = [] ∧ t.core.grid = s.core.grid ∧ t.core.regs = s.core.regs ∧ t.mem = s.mem
    (f.form = 0 → (s.win f.wd = none ∨ s.win f.ws1 = none ∨ s.win f.ws2 = none ∨
        (∃ d a, s.win f.wd = some d ∧ s.win f.ws1 = some a ∧ a.count ≠ d.count ∧ a.count ≠ 1) ∨
        ∃ d a, s.win f.wd = some d ∧ s.win f.ws2 = some a ∧ a.count ≠ d.count ∧ a.count ≠ 1) →
      refused (.vadd f) ∧ refused (.vshl f)) ∧
    (ETy.ofCode f.ty.toNat = some t → u.ty = f.ty → z.ty = f.ty → c.ty = f.ty → g.ty = f.ty → Clear s (State.formRegs f.form f.ws2) →
      Clear s (State.formRegs c.form c.ws2) →
      (t.isInt = false → refused (.vshl f) ∧ refused (.vshr f) ∧ refused (.vsra f)) ∧
      (t.isUnsigned = false → refused (.vclmul f) ∧ refused (.vclmulh f)) ∧
      (t.isFloat = false → refused (.vcpsgn f) ∧ refused (.vscale2 f) ∧ refused (.vround z) ∧ refused (.vcmpUnord c) ∧
        refused (.vcmpOrd c)) ∧
      (t.isUnsigned = true → refused (.vabs u) ∧ refused (.vneg u)) ∧
      (t ≠ .f32 → refused (.vrcp u) ∧ refused (.vsqrt u) ∧ refused (.vrsqrt u) ∧ refused (.vexp2 u) ∧ refused (.vlog2 u)) ∧
      (t.isWide = false → refused (.vquant z) ∧ refused (.vdequant z) ∧
        (t.isFloat = true → refused (.viota g) ∧ refused (.vrowi g)))))

/-- R47, R172, R174, R200: the grid loads and stores and the stream instructions are dispatched with base, stride, windows and
spec captured. -/
def Obligations.GridMemoryAndStreamInstructionsDispatch : Prop :=
  ∀ (s : State) (f : GlsS) (x : GlsX) (d xi c a b : Reg) (w wd wi : Window),
    MayDispatch s [f.a, f.b, x.a, xi, a, b, b + 1] → s.win f.w = some w → s.win x.w = some wd → s.win x.wi = some wi →
    let z (sz : BitVec 2) : Nat := if sz = 0 then 4 else if sz = 1 then 2 else 1
    (∀ q ∈ [(Instr.gld f, GlsKind.ld), (.gst f, .st), (.gldff f, .ldff)],
      Dispatches q.1 s (.gls q.2 (z f.sz) w f.km (s.reg f.a) (s.reg f.b) none) 4) ∧
    (wi.count = wd.count ∨ wi.count = 1 → ∀ q ∈ [(Instr.gldx x, GlsKind.ldx), (.gstx x, .stx), (.gstxo x, .stxo)],
      Dispatches q.1 s (.gls q.2 (z x.sz) wd x.km (s.reg x.a) 0 (some wi)) 4) ∧
    (∀ p : SSpec,
      (parseSpec .qld c.toNat (s.reg a) (s.reg b) (s.reg (b + 1)) = some p →
        Dispatches (.qld c a b) s (.stream .qld c.toNat (s.reg a) p 0 0) 4) ∧
      (parseSpec .qldt c.toNat (s.reg a) (s.reg b) (s.reg (b + 1)) = some p →
        Dispatches (.qldt c a b) s (.stream .qldt c.toNat (s.reg a) p 0 0) 4) ∧
      (parseSpec .qldff c.toNat (s.reg a) (s.reg b) (s.reg (b + 1)) = some p →
        Dispatches (.qldff d c a b) s (.stream .qldff c.toNat (s.reg a) p 0 d.toNat) 4) ∧
      (parseSpec .qldx c.toNat (s.reg a) (s.reg b) (s.reg (b + 1)) = some p →
        Dispatches (.qldx xi c a b) s (.stream .qldx c.toNat (s.reg a) p (s.reg xi) 0) 4) ∧
      (parseSpec .qldz c.toNat (s.reg a) (s.reg b) (s.reg (b + 1)) = some p →
        Dispatches (.qldz c a b) s (.stream .qldz c.toNat (s.reg a) p 0 0) 4))

/-- R257, R264, R267, R273, R275, R341, R342: the engine commands are dispatched; xferb takes a row-mode window of 1 to 8 commands. -/
def Obligations.EngineCommandsDispatch : Prop :=
  ∀ (s : State) (c kd x3 a b : Reg) (n : BitVec 5) (w : Win) (km : KField) (ef : BitVec 1) (y : Window),
    MayDispatch s [x3, a, b] →
    Dispatches (.xfer c x3 a b) s (.xfer c.toNat (s.reg a) (s.reg b) (s.reg x3)) 4 ∧
    (s.win w = some y → y.mode = .row → y.count ≤ 8 → Dispatches (.xferb c kd w km) s (.xferb kd.toNat y c.toNat km) 4) ∧
    ((s.reg b).toNat % 32 = 0 → fieldNat (s.reg x3) 40 4 ≠ 0 →
      (fieldNat (s.reg x3) 35 5 < 28 ∨ fieldNat (s.reg x3) 35 5 = 31) → fieldNat (s.reg x3) 44 3 < 5 →
      fieldNat (s.reg x3) 32 3 = 0 →
      Dispatches (.xdz c x3 a b) s (.xdz c.toNat (s.reg a) (s.reg b) (s.reg x3)) 4) ∧
    Dispatches (.dztab c n a) s (.dztab c.toNat n.toNat (s.reg a)) 4 ∧
    Dispatches (.sendRaw c a) s (.send c.toNat (s.reg a) 0 false) 4 ∧
    Dispatches (.sendQ8 c a ef) s (.send c.toNat (s.reg a) 1 (ef == 1)) 4 ∧
    Dispatches (.sendQ8w c a ef) s (.send c.toNat (s.reg a) 2 (ef == 1)) 4 ∧
    Dispatches (.sendQ4 c a ef) s (.send c.toNat (s.reg a) 3 (ef == 1)) 4 ∧
    Dispatches (.recv c a) s (.recv c.toNat (s.reg a) false) 4 ∧
    Dispatches (.recvAdd c a) s (.recv c.toNat (s.reg a) true) 4

/-- R96, R209, R255, R278, R279, R284 to R287: counters, rings, barriers and the tag table are dispatched, with their checks. -/
def Obligations.SynchronisationInstructionsDispatch : Prop :=
  ∀ (s : State) (d c a b : Reg) (t : BitVec 7), MayDispatch s [a, b] →
    let x := s.reg a
    let y := s.reg b
    Dispatches (.cinc c a) s (.cinc c.toNat x) 4 ∧
    Dispatches (.cwait c a) s (.cwait c.toNat x) 4 ∧
    Dispatches (.cset c a) s (.cset c.toNat x) 4 ∧
    Dispatches (.crd d c) s (.crd c.toNat d.toNat) 4 ∧
    Dispatches (.hCwait c t) s (.cwait c.toNat (t.setWidth 64)) 2 ∧
    (0 ≤ x.toInt → Dispatches (.ipost c a) s (.ipost c.toNat x) 4) ∧
    Dispatches (.iwait c a) s (.iwait c.toNat x) 4 ∧
    (barAddrOk x = true → y ≠ 0 → y.toNat ≤ 65535 → Dispatches (.barInit a b) s (.barInit x y) 4) ∧
    (barAddrOk x = true → Dispatches (.barArrive d a) s (.barArrive false x d.toNat) 4 ∧
      Dispatches (.barArriveRlx d a) s (.barArrive true x d.toNat) 4 ∧ Dispatches (.barWait a b) s (.barWait x y) 4) ∧
    Dispatches (.slook d a) s (.slook x d.toNat) 4 ∧
    (y.toNat < 2 ^ 31 → Dispatches (.sins d a b) s (.sins x y d.toNat) 4) ∧
    Dispatches (.sinv a) s (.sinv x) 4

/-- R291 to R297: the accumulation windows are dispatched: awin declares a granted window, ascat and amerge need a declared one, arel
ends the declaration. -/
def Obligations.AccumulationWindowsDispatch : Prop :=
  ∀ (s : State) (op aw : BitVec 2) (a b : Reg) (wv wi : Win) (km : KField) (i v : Window) (k : Task),
    MayDispatch s [a, b] → s.curTask = some k → aw.toNat < k.nw →
    let n := (s.reg b).toNat
    ((s.reg a).toNat % 4 = 0 → n ≠ 0 → n % 4 = 0 → n ≤ 16384 →
      let s1 := s.updCore fun c => { c with awdecl := if c.awdecl.contains aw.toNat then c.awdecl else c.awdecl ++ [aw.toNat] }
      let g : GOp := .awin (AOp.ofCode op.toNat) aw.toNat (s.reg a) (s.reg b)
      exec (.awin op aw a b) s = (dispatched s1 g (.awin op aw a b) 4).andPump ∧
      (Paced s → exec (.awin op aw a b) s = .next (dispatched s1 g (.awin op aw a b) 4))) ∧
    (aw.toNat ∈ s.core.awdecl →
      (s.win wi = some i → s.win wv = some v → v.count = i.count ∨ v.count = 1 →
        Dispatches (.ascat aw wv wi km) s (.ascat aw.toNat i v km) 4) ∧
      Dispatches (.amerge aw) s (.amerge aw.toNat) 4 ∧
      (let s1 := s.updCore fun c => { c with awdecl := c.awdecl.filter fun n => n != aw.toNat }
       exec (.arel aw) s = (dispatched s1 (.arel aw.toNat) (.arel aw) 4).andPump ∧
       (Paced s → exec (.arel aw) s = .next (dispatched s1 (.arel aw.toNat) (.arel aw) 4))))

/-! ### The grid side at work -/

/-- Two invariants of every step, from every state that meets them.
R322, R323: a core runs, or is being pre-empted, only while its device takes commits: from STOP to RESUME no core is at work.
R102: STATUS.PL, STATUS.PPL and the level that firmware returns to are never 3, nor are those saved with a pre-empted task. What the launch
unit makes of a frame whose STATUS holds another level is the model's choice (assumption log 34). -/
def Obligations.StepKeepsRunStatesAndLevels : Prop :=
  ∀ (s t : State), step s = .next t → (RunsInDomain s → RunsInDomain t) ∧ (LevelsLegal s → LevelsLegal t)

/-- R117, R118, R124, R144, R147: one vector of integer arithmetic on i32 in row-mode windows: each active element of the destination
row takes the 32-bit result of its source elements, every other cell of the grid stays. -/
def Obligations.IntegerVectorWritesItsRow : Prop :=
  ∀ (o : EOp) (f : Cell → Cell → Cell) (d a b : Window) (km : KField) (st : VStat) (m : Mask) (g : Grid) (p : VProg) (fl : FlagRec)
    (v : Nat),
    (o, f) ∈ [(EOp.add, fun x y => x + y), (.sub, fun x y => x - y), (.mul, fun x y => x * y), (.and, fun x y => x &&& y),
      (.or, fun x y => x ||| y), (.xor, fun x y => x ^^^ y)] →
    d.mode = .row → a.mode = .row → b.mode = .row →
    let r := vecStep (.elem o) { ty := .i32, km := km, wd := some d, w1 := some a, w2 := some b } st m g p fl v
    (∀ j < 128, r.grid.cell d.half (d.base v) j =
      if m.getLsbD j then f (a.read g v j) (b.read g v j) else g.cell d.half (d.base v) j) ∧
    (∀ h < 2, ∀ row < 128, h ≠ d.half % 2 ∨ row ≠ d.base v → ∀ c, r.grid.cell h row c = g.cell h row c)

/-- R118, R166, R167, R376: the window pipe does one vector of the oldest window entry: the grid takes that vector's writes, and with the
last vector the entry is done: a vcmp writes its mask, a column reduction its row, a vext its x register.
R117, R119, R124: the cell behind element j of vector v in each mode, where a window of one vector supplies its only one; what a
vector write names reads back, and its other elements stay.
R138 to R165: what each window instruction gives the elements of a vector under its mask. These clauses rest on the model's choice: in f19 an
instruction that takes its operand as an integer reads all 32 bits (assumption log 64); min, max and clamp keep an infinity, and arithmetic
in e4m3 and e5m2 rounds to nearest even (log 25); the root of a reduction goes into its type by R79 and R66 (log 24); exp2 and log2 are rounded
from a bound of more than two hundred bits (log 31); a result overflows when its rounded value does (log 65).
R150, R155: the bits of a carry-less product; vround gives the integral value of its mode, with the sign of its input. -/
def Obligations.WindowPipeDoesOneVector : Prop :=
  (∀ (s : State) (e : Entry) (op : WOp) (a : WinArgs), Alone s e → NoAbsent s → e.op = .win op a →
    let m := s.core.masks.governing a.km
    let r := vecStep op a e.st m s.core.grid e.vp e.fl e.prog
    let t := s.updCore fun c => { c with grid := r.grid }
    let e1 : Entry := { e with prog := e.prog + 1, vp := r.prog, fl := r.flags }
    let went := exec (.windowPipeVector .pass) s
    (op = .ext → went = .next (retired (s.updCore fun c => c.setReg a.xd (extValue a m c.grid)) e)) ∧
    (op ≠ .ext → winCount op a ≤ e.prog → went = .next (retired s e)) ∧
    (op ≠ .ext → e.prog + 1 < winCount op a → went = .next (still t e1)) ∧
    (op ≠ .ext → e.prog + 1 = winCount op a →
      (∀ p, op = .cmp p → went = .next (retired (t.updCore fun c =>
        { c with masks := c.masks.write a.kd ((c.masks.read a.kd &&& ~~~m) ||| (r.prog.acc &&& m)) }) e1)) ∧
      (∀ k, op = .colRed k →
        let z := colFinish k a e.st m s.core.grid r.prog r.flags
        went = .next (retired (s.updCore fun c => { c with grid := z.1 }) { e1 with fl := z.2 })) ∧
      ((∀ p, op ≠ .cmp p) → (∀ k, op ≠ .colRed k) → went = .next (retired t e1)))) ∧
  (∀ (w : Window) (g : Grid) (v j : Nat) (f : Nat → Option Cell), j < 128 →
    let here (h : Grid) (n : Nat) : Cell :=
      let b := (((w.origin : Int) + (n : Int) * w.stride) % 128).toNat
      match w.mode with
      | .row => h.cell w.half b j
      | .col => h.cell w.half j b
      | .diag => h.cell w.half j ((j + b) % 128)
    w.read g v j = here g (if w.count = 1 then 0 else v) ∧ here (w.write g v f) v = (f j).getD (here g v)) ∧
  (∀ (op : WOp) (a : WinArgs) (d : Window) (st : VStat) (m : Mask) (g : Grid) (pr : VProg) (fl : FlagRec) (v : Nat), a.wd = some d →
    let t := a.ty
    let r := vecStep op a st m g pr fl v
    let x (j : Nat) : Nat := cellPat t (rdWin a.w1 g v j)
    let y (j : Nat) : Nat := op2Pat a (usesIntCol op) g v j
    let z (j : Nat) : Nat := cellPat t (d.read g v j)
    let put (f : Nat → Option Cell) : Prop := r.grid = d.write g v f
    let each (f : Nat → Nat × Fl) : Prop :=
      (put fun j => if m.getLsbD j then some (patCell t (f j).1) else none) ∧ r.flags = gatherFlags v (gather m f) fl
    (∀ e, op = .elem e → (∀ src, e ≠ .cvt src) → (e ≠ .mov ∨ a.op2 = .window) → each fun j => elemF e t st (z j) (x j) (y j)) ∧
    (∀ src, op = .elem (.cvt src) → each fun j => convert src t st (cellPat src (rdWin a.w1 g v j))) ∧
    (op = .elem .mov → a.op2 ≠ .window → each fun j => (y j, {})) ∧
    (op = .sel → put fun j => some (patCell t (if m.getLsbD j then x j else y j))) ∧
    (op = .perm → put fun j => if m.getLsbD j then some (patCell t (x ((rdWin a.w2 g v j).toNat % 128))) else none) ∧
    (op = .slide → put fun j => if m.getLsbD j then
        let k : Int := (j : Int) - signedNat t.width (y j)
        some (if 0 ≤ k ∧ k ≤ 127 then patCell t (x k.toNat) else 0)
      else none) ∧
    (op = .iota → put fun j => if m.getLsbD j then
      some (patCell t (if t.isFloat then exactPat t (.fin false j 0) else j)) else none) ∧
    (op = .rowi → put fun j => if m.getLsbD j then
      some (patCell t (if t.isFloat then exactPat t (.fin false (d.rowOf v j) 0) else d.rowOf v j)) else none) ∧
    (op = .compress → put fun j => some (match ((List.range 128).filter fun n => m.getLsbD n)[j]? with
      | some n => patCell t (x n)
      | none => 0)) ∧
    (∀ k, op = .quant k → put fun j => some (if 4 * j < (packFmt k).vecBytes 128 then
      BitVec.ofNat 32 ((quantize (packFmt k) ((List.range 128).map fun n =>
        if m.getLsbD n then patFV t (x n) else .fin false 0 0)).1 >>> (32 * j)) else 0)) ∧
    (∀ k, op = .dequant k →
      let img := packBits 32 ((List.range ((packFmt k).vecBytes 128 / 4)).map fun p => (rdWin a.w1 g v p).toNat)
      each fun j => match blockElem (packFmt k) 128 img j with
        | some (.f u) => finishF t st false u.exact
        | _ => (0, {})) ∧
    (∀ k, op = .rowRed k →
      let q := rowReduce k t st m x
      (put fun j => if j = 0 then some (patCell t q.1) else none) ∧ r.flags = fl.add q.2 v 0 ∧
      (t.isFloat = false → k = .sum →
        q.1 = wrapInt t.width ((List.range 128).map fun j => if m.getLsbD j then patInt t (x j) else 0).sum) ∧
      (t.isFloat = false → k = .max → (∃ j < 128, m.getLsbD j = true) →
        (∃ j < 128, m.getLsbD j = true ∧ q.1 = x j) ∧ ∀ j < 128, m.getLsbD j = true → patInt t (x j) ≤ patInt t q.1) ∧
      (t.isFloat = false → k = .min → (∃ j < 128, m.getLsbD j = true) →
        (∃ j < 128, m.getLsbD j = true ∧ q.1 = x j) ∧ ∀ j < 128, m.getLsbD j = true → patInt t q.1 ≤ patInt t (x j)) ∧
      (t.isFloat = false → k = .sumsq →
        q.1 = wrapInt t.width ((List.range 128).map fun j => if m.getLsbD j then patInt t (x j) * patInt t (x j) else 0).sum) ∧
      (∀ i < 128, (∀ n < 128, m.getLsbD n = (n == i)) → t.isFloat = true →
        let u := patFV t (x i)
        let leaf := if k = .sumsq then fmtF32.decode (roundTo fmtF32 .ieee .rne false (mulFV u u)).1 else u
        q.1 = (finishRne t st false leaf.exact).1) ∧
      (∀ i j, i < j → j < 128 → (∀ n < 128, m.getLsbD n = (n == i || n == j)) →
        q.1 = (redRoot t st (redOp k (redLeaf k t (x i)).1 (redLeaf k t (x j)).1).1).1)) ∧
    (∀ k, op = .colRed k → r.grid = g ∧
      (∀ j < 128, m.getLsbD j = true → r.prog.fold.getD j 0 =
        foldInt (if v = 0 then (redLeaf k t (x j)).1 else (redOp k (foldVal t (pr.fold.getD j 0)) (redLeaf k t (x j)).1).1)) ∧
      (let z := colFinish k a st m g pr fl
       z.1 = d.write g 0 (fun j => if m.getLsbD j then some (patCell t (redRoot t st (foldVal t (pr.fold.getD j 0))).1) else none) ∧
       (k = .max ∨ k = .min → z.2 = fl)))) ∧
  (∀ (p : Pred) (a : WinArgs) (st : VStat) (m : Mask) (g : Grid) (pr : VProg) (fl : FlagRec) (v j : Nat), j < 128 →
    let r := vecStep (.cmp p) a st m g pr fl v
    let x := cellPat a.ty (rdWin a.w1 g v j)
    let y := op2Pat a false g v j
    r.grid = g ∧ r.prog.acc.getLsbD j = (pr.acc.getLsbD j && (!m.getLsbD j || (cmpPred p a.ty st.flush x y).1))) ∧
  (∀ (p : Pred) (t : ETy) (flush b : Bool) (x y : Nat),
    let u := readF t flush x
    let w := readF t flush y
    (t.isFloat = true → u.isNaN = false → w.isNaN = false →
      (p, b) ∈ [(Pred.eq, eqFV u w), (.ne, !eqFV u w), (.lt, ltFV u w), (.le, !ltFV w u), (.gt, ltFV w u), (.ge, !ltFV u w),
        (.unord, false), (.ord, true)] → cmpPred p t flush x y = (b, {})) ∧
    (t.isFloat = true → u.isNaN = true ∨ w.isNaN = true →
      cmpPred p t flush x y = (p == .ne || p == .unord, { nv := p == .lt || p == .le || p == .gt || p == .ge })) ∧
    (t.isFloat = false →
      (p, b) ∈ [(Pred.eq, decide (patInt t x = patInt t y)), (.ne, decide (patInt t x ≠ patInt t y)), (.lt, decide (patInt t x < patInt t y)),
        (.le, decide (patInt t x ≤ patInt t y)), (.gt, decide (patInt t x > patInt t y)), (.ge, decide (patInt t x ≥ patInt t y))] →
      cmpPred p t flush x y = (b, {}))) ∧
  (∀ (a : WinArgs) (m : Mask) (g : Grid),
    let i := op2Pat a true g 0 0 % 128
    let p := cellPat a.ty (rdWin a.w1 g 0 i)
    extValue a m g = if m.getLsbD i = false then 0 else if a.ty.isSigned then BitVec.ofInt 64 (signedNat a.ty.width p) else BitVec.ofNat 64 p) ∧
  (∀ (e : EOp) (t : ETy) (st : VStat) (z x y : Nat) (r : Nat × Fl),
    let c := readF t st.flush z
    let u := readF t st.flush x
    let w := readF t st.flush y
    let fin := finishF t st st.flush
    let rne := finishRne t st st.flush
    let mode := if t.isWide then st.mode else .rne
    (t.isFloat = true →
      (e, r) ∈ [(EOp.add, fin (addFV mode u w)), (.sub, fin (addFV mode u w.neg)), (.mul, fin (mulFV u w)), (.fma, fin (fmaFV mode u w c)),
        (.fms, fin (fmaFV mode u.neg w c)), (.min, (exactPat t (minFV u w), {})), (.max, (exactPat t (maxFV u w), {})),
        (.clamp, (exactPat t (minFV (maxFV c u) w), {})), (.rcp, rne (rcpFV u)), (.sqrt, rne (sqrtFV u)), (.rsqrt, rne (rsqrtFV u)),
        (.exp2, rne (exp2FV u)), (.log2, rne (log2FV u))] → elemF e t st z x y = r) ∧
    ((e, r) ∈ [(EOp.and, (x &&& y, ({} : Fl))), (.or, (x ||| y, {})), (.xor, (x ^^^ y, {})), (.mov, (x, {}))] → elemF e t st z x y = r) ∧
    (t.isFloat = true → elemF .scale2 t st z x y =
      if u.isNaN then (nanPat t, {}) else if u.isInf then (exactPat t u, {}) else fin (u.scale (signedNat t.width y)).exact) ∧
    (t.isFloat = true → (patFV t x).isNaN = true → e ∈ [EOp.abs, .neg, .cpsgn] → elemF e t st z x y = (nanPat t, {})) ∧
    (t.isFloat = true → (patFV t x).isNaN = false → x < 2 ^ t.width → y < 2 ^ t.width →
      let top := 2 ^ (t.width - 1)
      (e, r) ∈ [(EOp.abs, (x % top, ({} : Fl))), (.neg, ((x + top) % (2 * top), {})), (.cpsgn, (x % top + y / top * top, {}))] →
      elemF e t st z x y = r) ∧
    (t.isFloat = false →
      let p := patInt t z
      let i := patInt t x
      let k := patInt t y
      let wrap (n : Int) : Nat × Fl := (wrapInt t.width n, {})
      (e, r) ∈ [(EOp.add, finishI t (i + k)), (.sub, finishI t (i - k)), (.mul, finishI t (i * k)), (.fma, finishI t (p + i * k)),
        (.fms, finishI t (p - i * k)), (.min, wrap (min i k)), (.max, wrap (max i k)), (.clamp, wrap (min (max p i) k)),
        (.abs, finishI t (i.natAbs : Int)), (.neg, finishI t (-i)),
        (.shl, (if y < t.width then (x <<< y) % 2 ^ t.width else 0, {})), (.shr, (if y < t.width then x >>> y else 0, {})),
        (.sra, wrap (signedNat t.width x / ((2 ^ min y t.width : Nat) : Int)))] → elemF e t st z x y = r) ∧
    (x < 2 ^ t.width → y < 2 ^ t.width →
      let bit (n : Nat) : Bool :=
        ((List.range t.width).filter fun j => y.testBit j && decide (j ≤ n) && x.testBit (n - j)).length % 2 == 1
      let lo := elemF .clmul t st z x y
      let hi := elemF .clmulh t st z x y
      lo.1 < 2 ^ t.width ∧ hi.1 < 2 ^ t.width ∧ lo.2 = {} ∧ hi.2 = {} ∧
      ∀ n < t.width, lo.1.testBit n = bit n ∧ hi.1.testBit n = bit (n + t.width))) ∧
  (∀ (t : ETy) (st : VStat) (z x y m : Nat) (mode : RMode), t.isFloat = true → RMode.ofCode (if m = 5 then st.vrm else m) = some mode →
    let u := readF t st.flush x
    let r := elemF (.round m) t st z x y
    (u.isNaN = true → r = (nanPat t, {})) ∧
    (u.isInf = true → r = (exactPat t u, {})) ∧
    (∀ n k e, u = .fin n k e →
      let d := 2 ^ (-e).toNat
      let q := k * 2 ^ e.toNat / d
      let rem := k * 2 ^ e.toNat % d
      let up : Bool := match mode with
        | .rne => decide (d < 2 * rem) || (decide (2 * rem = d) && q % 2 == 1)
        | .rtz => false
        | .rdn => n && rem != 0
        | .rup => !n && rem != 0
        | .rmm => decide (d ≤ 2 * rem)
      r.2 = { nx := rem != 0 } ∧
      ∃ k1 e1, patFV t r.1 = .fin n k1 e1 ∧ k1 * 2 ^ e1.toNat = (q + if up then 1 else 0) * 2 ^ (-e1).toNat)) ∧
  (∀ (src dst : ETy) (st : VStat) (x : Nat),
    let i := patInt src x
    (src.isFloat = true → dst.isFloat = true → src ≠ dst → convert src dst st x = finishF dst st st.flush (readF src st.flush x).exact) ∧
    (src.isFloat = true → (patFV src x).isNaN = true → convert src src st x = (nanPat src, {})) ∧
    (src.isFloat = true → (patFV src x).isNaN = false → st.flush = false → convert src src st x = (x, {})) ∧
    (src.isFloat = true → dst.isFloat = false →
      let q := toIntRange st.mode dst.intLo dst.intHi (readF src st.flush x)
      convert src dst st x = (wrapInt dst.width q.1, q.2)) ∧
    (src.isFloat = false → dst.isFloat = true → convert src dst st x = finishF dst st st.flush (intExact i)) ∧
    (src.isFloat = false → dst.isFloat = false → convert src dst st x =
      (wrapInt dst.width (max dst.intLo (min dst.intHi i)), if i < dst.intLo ∨ dst.intHi < i then Fl.saturate else {})))

/-- R135, R122, R126, R127, R376: the other work of the window pipe: masks and their registers, window descriptors, fills, copies. A fill
gives its value to the cell of each active element of a vector; a copy gives each cell of the destination rectangle what the source cell, or the
transposed one, held before it; every other cell stays.
R201, R202, R205: a grid load writes the zero-extended bytes of its elements, a grid store stores theirs, in element order where one
address has several; a gldff says in FFI where it ended. A gldx whose windows share rows is assumption log 58, and which of the elements of
one address a gstx stores last is free: neither is stated here. R22, R203: the first vector comes behind the probe of every active element, and each
vector is a unit of its own.
R128 to R130: the row of its image that a gsave stores, behind the header, and the row that a grest restores, here of an image in the
scratchpad aperture.
R292 to R296: awin starts a window of identities, ascat folds each lane's value into its copy of the element, amerge folds the copies into
memory element by element, arel ends the window. -/
def Obligations.WindowPipeDoesMasksAndTiles : Prop :=
  (∀ (s : State) (e : Entry), Alone s e → NoAbsent s →
    let done (f : Core → Core) : Out := .next (retired (s.updCore f) e)
    let k := s.core.masks
    (∀ op d a b x y, e.op = .kop op d a b x y → op.toReg = false →
      exec (.windowPipeVector .pass) s =
        done fun c => { c with masks := c.masks.setIfInBounds d (kopMask op (k.read a) (k.read b) x y) }) ∧
    (∀ d a, e.op = .kop .getl d a 0 0 0 →
      exec (.windowPipeVector .pass) s = done fun c => c.setReg d ((k.read a).setWidth 64)) ∧
    (∀ d a, e.op = .kop .geth d a 0 0 0 →
      exec (.windowPipeVector .pass) s = done fun c => c.setReg d ((k.read a >>> 64).setWidth 64)) ∧
    (∀ d a, e.op = .kop .pop d a 0 0 0 →
      exec (.windowPipeVector .pass) s =
        done fun c => c.setReg d (BitVec.ofNat 64 ((List.range 128).filter fun i => (k.read a).getLsbD i).length)) ∧
    (∀ d a i, e.op = .kop .first d a 0 0 0 → i ≤ 128 → (∀ j < i, (k.read a).getLsbD j = false) →
      (i < 128 → (k.read a).getLsbD i = true) →
      exec (.windowPipeVector .pass) s = done fun c => c.setReg d (BitVec.ofNat 64 i)) ∧
    (∀ d v, e.op = .wrd d v → exec (.windowPipeVector .pass) s = done fun c => c.setReg d v) ∧
    (∀ w km v, e.op = .ofill w km v →
      let t := s.updCore fun c => { c with grid := fillVec w (k.governing km) v c.grid e.prog }
      let e1 : Entry := { e with prog := e.prog + 1 }
      exec (.windowPipeVector .pass) s = .next (if w.count ≤ e.prog then retired s e
        else if e.prog + 1 < w.count then still t e1 else retired t e1)) ∧
    (∀ tr f, e.op = .copy tr f → exec (.windowPipeVector .pass) s = done fun c => { c with grid := copyGrid tr f c.grid })) ∧
  (∀ (w : Window) (m : Mask) (x : Cell) (g : Grid) (v h r c : Nat), h < 2 → r < 128 → c < 128 →
    let b := (((w.origin : Int) + (v : Int) * w.stride) % 128).toNat
    let elem : Option Nat := match w.mode with
      | .row => if r = b then some c else none
      | .col => if c = b then some r else none
      | .diag => if c = (r + b) % 128 then some r else none
    (fillVec w m x g v).cell h r c = match elem with
      | some j => if h = w.half % 2 ∧ m.getLsbD j = true then x else g.cell h r c
      | none => g.cell h r c) ∧
  (∀ (tr : Bool) (f : CopyF) (g : Grid) (h r c : Nat), copyOk tr f = true → h < 2 → r < 128 → c < 128 →
    let n := 8 * (f.rows.toNat + 1)
    let m := 8 * (f.cols.toNat + 1)
    let i := r - 8 * f.dr.toNat
    let j := c - 8 * f.dc.toNat
    (copyGrid tr f g).cell h r c =
      if h = f.dh.toNat ∧ 8 * f.dr.toNat ≤ r ∧ i < (if tr then m else n) ∧ 8 * f.dc.toNat ≤ c ∧ j < (if tr then n else m) then
        g.cell f.sh.toNat (8 * f.sr.toNat + if tr then j else i) (8 * f.sc.toNat + if tr then i else j)
      else g.cell h r c) ∧
  (∀ (g : Grid) (z v j : Nat) (base str : Word) (w : Window),
    BitVec.ofNat 64 (glsAddr g z base str none v j) = base + BitVec.ofNat 64 v * (str.extractLsb' 32 32).signExtend 64
      + BitVec.ofNat 64 j * (str.extractLsb' 0 32).signExtend 64 ∧
    BitVec.ofNat 64 (glsAddr g z base str (some w) v j) = base + (w.read g v j).signExtend 64 * BitVec.ofNat 64 z) ∧
  (∀ (g : Grid) (z : Nat) (w : Window) (m : Mask) (base str : Word) (wi : Option Window) (start n a : Nat),
    (n, a) ∈ glsItems g z w m base str wi start ↔
      start ≤ n ∧ n / 128 < w.count ∧ m.getLsbD (n % 128) = true ∧ a = glsAddr g z base str wi (n / 128) (n % 128)) ∧
  (∀ (g : Grid) (z : Nat) (m : Mask) (base str : Word) (wi : Option Window) (start v n a : Nat),
    ((vecItems g z m base str wi start v).map fun p => p.1).Pairwise (· < ·) ∧
    ((n, a) ∈ vecItems g z m base str wi start v ↔
      start ≤ n ∧ n / 128 = v ∧ m.getLsbD (n % 128) = true ∧ a = glsAddr g z base str wi v (n % 128))) ∧
  (∀ (s s1 : State) (e : Entry) (k : GlsKind) (z : Nat) (items : List (Nat × Nat)) (m : List (Nat × Nat)) (pf : Option (Nat × GFault)),
    s.probeItems (s.entryWho e 2) z (if k.isLoad then .load else .store) e.maps items = (s1, m, some pf) →
    pf = none ∨ (k = .ldff ∧ pf.map (·.1) ≠ items.head?.map (·.1)) →
    ∃ e1, s.glsProbe e k z items = (s1, .ok e1) ∧ e1.maps = m ∧ e1.probed = true ∧ e1.prog = e.prog ∧ e1.op = e.op ∧
      (k.isLoad = true → e1.stopItem = pf.map (·.1)) ∧ (k.isLoad = false → e1.pend = [])) ∧
  (∀ (s s1 : State) (w : Who) (z n a pa : Nat) (k : Acc) (m rest : List (Nat × Nat)),
    (a % z ≠ 0 → s.probeItems w z k m ((n, a) :: rest) = (s, m, some (some (n, { code := 0x03, tval := BitVec.ofNat 64 a })))) ∧
    (a % z = 0 → (∃ p ∈ m, p.1 = a / 2 ^ 17) → s.probeItems w z k m ((n, a) :: rest) = s.probeItems w z k m rest) ∧
    (a % z = 0 → (∀ p ∈ m, p.1 ≠ a / 2 ^ 17) → s.gridAccess w k (BitVec.ofNat 64 a) z = (s1, .ok pa) →
      s.probeItems w z k m ((n, a) :: rest) = s1.probeItems w z k (m ++ [(a / 2 ^ 17, pa - a % 2 ^ 17)]) rest)) ∧
  (∀ (s s1 : State) (e e1 : Entry) (k : GlsKind) (z : Nat) (w : Window) (km : KField) (base str : Word) (wi : Option Window),
    Alone s e → NoAbsent s → e.op = .gls k z w km base str wi → sharedIdx k w wi = none →
    let m := s.core.masks.governing km
    let items := glsItems s.core.grid z w m base str wi e.prog
    (e.probed = false → items = [] → exec (.windowPipeVector .pass) s =
      .next (retired (if k = .ldff then s.updCore fun c => { c with ffi := 0x8000 } else s) e)) ∧
    ((e.probed = true ∧ s1 = s ∧ e1 = e) ∨
        (e.probed = false ∧ items ≠ [] ∧ s.glsProbe e k z items = (s1, .ok e1) ∧ s1.core = s.core) →
      let v := e.prog / 128
      let xs := (vecItems s.core.grid z m base str wi e.prog v).map fun p => (p.1, p.2, mapped e1.maps p.2)
      let more := v + 1 < w.count
      (k.isLoad = true → k = .ldff ∨ e1.stopItem = none →
        let mine := xs.filter fun x => e1.stopItem.all fun n => decide (x.1 < n)
        let once := wi = none ∧ str = 0
        let had := once ∧ e1.firstBytes ≠ []
        (had ∨ ∀ x ∈ mine, s1.poisonedRange x.2.2 z = false) →
        ∃ t, exec (.windowPipeVector .pass) s = .next t ∧ t.core.regs = s.core.regs ∧ t.core.masks = s.core.masks ∧ t.mem = s1.mem ∧
          t.core.grid = mine.foldl (fun g x => w.write g (x.1 / 128) fun j =>
            if j = x.1 % 128 then some (BitVec.ofNat 32 (if had then fromLE e1.firstBytes else s1.readNat x.2.2 z)) else none) s.core.grid ∧
          (∀ n, e1.stopItem = some n → n / 128 = v →
            t.core.flight = [] ∧ t.core.ffi = BitVec.ofNat 64 (n / 128 % 128 * 256 + n % 128)) ∧
          ((∀ n, e1.stopItem = some n → n / 128 ≠ v) →
            (∃ l, t.core.flight = (if more then [{ e1 with prog := 128 * (v + 1), pend := l }] else []) ∧ l.drop 1 = e1.pend.drop 1 ∧
              (¬once ∨ had → l = e1.pend) ∧
              (once → ¬had → e1.pend ≠ [] → ∀ x, mine.head? = some x → l.head?.map (·.2.2) = some (s1.readBytes x.2.2 z))) ∧
            t.core.ffi = if k = .ldff ∧ ¬more then 0x8000 else s.core.ffi)) ∧
      (k.isLoad = false →
        k ≠ .stx ∨ ((xs.map fun x => x.2.1).Nodup ∧ ∀ x ∈ xs, x.2.1 ∉ e1.pend.map fun p => p.2.1) →
        let wrote (l : List (Nat × Nat × Nat)) : State := l.foldl (fun u x =>
          u.write u.gridWriter x.2.2 (leBytes z (w.read s.core.grid (x.1 / 128) (x.1 % 128)).toNat)) s1
        (∀ pre x post, xs = pre ++ x :: post → (wrote pre).lost x.2.2 = false ∧
          (wrote pre).writeStalls (wrote pre).gridWriter x.2.2 z = false) →
        exec (.windowPipeVector .pass) s = .next (if more then still (wrote xs) { e1 with
          prog := 128 * (v + 1), pend := if k = .stx then e1.pend ++ xs.map (fun x => (x.1, x.2.1, [])) else [] }
          else retired (wrote xs) e)))) ∧
  (∀ (s : State) (e : Entry) (rest : Bool) (half first n o r sz : Nat), Alone s e → NoAbsent s →
    e.op = .gimage rest half first n (BitVec.ofNat 64 (apertureBase + o)) → e.prog < n → e.pl < 2 → half < 2 →
    first + n ≤ 128 → s.cur < 96 → s.deadDies = [] → s.reservation s.core.gridTaskId (s.cur / 4) = some (r, sz) → o % 64 = 0 →
    o + 64 + 512 * n ≤ sz → r + sz ≤ spadBytes →
    let pa := spadBase + s.cur / 4 * spadBytes + r + o
    let i := e.prog
    let row := pa + 64 + 512 * i
    let goesOn (t : State) (e1 : Entry) : Prop := t.core.flight = (if i + 1 < n then [e1] else []) ∧ e1.op = e.op ∧ e1.prog = i + 1 ∧
      e1.pend ≠ []
    (rest = false → ∃ t e1, exec (.windowPipeVector .pass) s = .next t ∧ goesOn t e1 ∧ t.core.grid = s.core.grid ∧
      t.core.regs = s.core.regs ∧
      (∀ c < 128, ∀ b < 4, Sp.get 0 t.mem (row + 4 * c + b) = (s.core.grid.cell half (first + i) c).extractLsb' (8 * b) 8) ∧
      (e.pend = [] ∧ i = 0 →
        (∀ j < 128, (Sp.get 0 t.mem (pa + j / 8)).getLsbD (j % 8) = (decide (j < n) && (s.core.grid.row half (first + j)).valid)) ∧
        Sp.get 0 t.mem (pa + 16) = BitVec.ofNat 8 half ∧ Sp.get 0 t.mem (pa + 17) = BitVec.ofNat 8 first ∧
        Sp.get 0 t.mem (pa + 18) = BitVec.ofNat 8 (n - 1) ∧ ∀ j, 19 ≤ j → j < 64 → Sp.get 0 t.mem (pa + j) = 0) ∧
      (∀ a, a < row ∨ row + 512 ≤ a → (e.pend = [] ∧ i = 0 → a < pa ∨ pa + 64 ≤ a) → Sp.get 0 t.mem a = Sp.get 0 s.mem a)) ∧
    (rest = true → (∀ a, pa ≤ a → a < pa + 64 + 512 * n → s.poisoned a = false) →
      let there (j : Nat) : Bool := if e.pend = [] then (s.byteAt (pa + j / 8)).getLsbD (j % 8) else e.vp.acc.getLsbD j
      ∃ t e1, exec (.windowPipeVector .pass) s = .next t ∧ goesOn t e1 ∧ t.core.regs = s.core.regs ∧ t.mem = s.mem ∧
        (∀ j < 128, e1.vp.acc.getLsbD j = there j) ∧
        (let x := t.core.grid.row half (first + i)
         x.valid = there i ∧ x.dirty = true ∧ ∀ c < 128,
          t.core.grid.cell half (first + i) c = if there i then BitVec.ofNat 32 (s.readNat (row + 4 * c) 4) else 0) ∧
        (∀ h < 2, ∀ q < 128, h ≠ half ∨ q ≠ first + i → t.core.grid.row h q = s.core.grid.row h q))) ∧
  (∀ (s : State) (e : Entry) (a : Nat), Alone s e → s.core.giq = [] →
    (∀ op base bytes, e.op = .awin op a base bytes →
      exec .giqDeparture s = .next (retired (s.setAwin a (some ⟨op, base, bytes.toNat, [], []⟩)) e)) ∧
    (e.op = .arel a → exec .giqDeparture s = .next (retired (s.setAwin a none) e)) ∧
    (∀ w, s.awinOf a = some w →
      (∀ wi wv km, NoAbsent s → e.op = .ascat a wi wv km →
        let p := ascatVec w (s.core.masks.governing km) s.core.grid wi wv e.prog e.fl
        let t := s.setAwin a (some p.1)
        let e1 : Entry := { e with prog := e.prog + 1, fl := p.2 }
        exec (.windowPipeVector .pass) s = .next (if wi.count ≤ e.prog then retired s e
          else if e.prog + 1 < wi.count then still t e1 else retired t e1)) ∧
      (e.op = .amerge a →
        let left := w.touched.filter fun k => decide (e.prog ≤ k)
        (∀ s1 m, e.pend = [] → e.maps = [] → left ≠ [] → s.probeMerge (s.entryWho e 2) w.base left = (s1, .ok m) → s1.core = s.core →
          exec .giqDeparture s = .next (still s1 { e with
            maps := pagesOf (m.map fun x => (x.1, (w.base.toNat + 4 * x.1) % 2 ^ 64, x.2)) })) ∧
        (∀ k, e.pend = [] → e.maps ≠ [] → left.head? = some k →
          let pa := mapped e.maps ((w.base.toNat + 4 * k) % 2 ^ 64)
          s.poisonedRange pa 4 = false → exec .giqDeparture s =
            .next (still (s.meterMem s.part pa 4 0) { e with prog := k, pend := [(k, pa, s.readBytes pa 4)] })) ∧
        (∀ k pa old, e.pend = [(k, pa, old)] → s.writeStalls s.gridWriter pa 4 = false →
          let x := (List.range 128).foldl (fun (p : Cell × Fl) l =>
            let y := w.op.apply p.1 (w.copy l k)
            (y.1, p.2.or y.2)) (BitVec.ofNat 32 (fromLE old), {})
          exec .giqDeparture s = .next (still ((s.write s.gridWriter pa (leBytes 4 x.1.toNat)).setAwin a (some (w.merged k)))
            { e with prog := k + 1, pend := [], fl := e.fl.add x.2 (k / 128 % 32) (k % 128) })) ∧
        (e.pend = [] → left = [] → exec .giqDeparture s = .next (retired s e))))) ∧
  (∀ (w : AWin) (m : Mask) (g : Grid) (wi wv : Window) (v k : Nat) (r : FlagRec), k < w.bytes / 4 → w.bytes ≤ 16384 →
    let u := (ascatVec w m g wi wv v r).1
    (∀ j < 128, u.copy j k =
      if m.getLsbD j = true ∧ (wi.read g v j).toInt = k then (w.op.apply (w.copy j k) (wv.read g v j)).1 else w.copy j k) ∧
    (k ∈ u.touched ↔ k ∈ w.touched ∨ ∃ j < 128, m.getLsbD j = true ∧ (wi.read g v j).toInt = k) ∧
    (∀ l, (w.merged k).copy l k = w.op.identity) ∧ k ∉ (w.merged k).touched)

/-- R183, R184: one step of an oacc whose operands come from queues: it pops the head entries, adds their products to the rectangle,
counts in the partition's meter 1 (R384), and with the last step the entry is done.
R76 to R78, R184: what a step gives each cell of the rectangle, and that it changes no other: with integers the sum of the old value and the
products, modulo 2^32, and IOV where such a sum leaves the range of i32; with numbers the old value, where no product falls to the cell or the
products cancel, else the exact sum rounded once to f32, or what a NaN or an infinity makes of it. No step
raises NX, UF, DZ or SAT. -/
def Obligations.OaccStepPopsAndAccumulates : Prop :=
  (∀ (f : OaccF) (isInt clr : Bool) (a b : Nat → List (Option OVal)) (g : Grid),
    let r0 := 8 * f.rorg.toNat
    let nr := 8 * (f.rows.toNat + 1)
    let c0 := 8 * f.corg.toNat
    let nc := 8 * (f.cols.toNat + 1)
    r0 + nr ≤ 128 → c0 + nc ≤ 128 →
    let r := stepGrid f isInt clr a b g {}
    let old (row col : Nat) : Cell := if clr then 0 else g.cell f.half.toNat row col
    let new (row col : Nat) : Cell := r.1.cell f.half.toNat row col
    let within (row col : Nat) : Prop := r0 ≤ row ∧ row < r0 + nr ∧ c0 ≤ col ∧ col < c0 + nc
    let sum (row col : Nat) : Int := (old row col).toInt + (((a row).zip (b col)).map fun p => match p with
      | (some (.i x), some (.i y)) => x * y
      | _ => 0).sum
    let prods (row col : Nat) : List (FV × FV) := ((a row).zip (b col)).filterMap fun p => match p with
      | (some (.f x), some (.f y)) => some (x, y)
      | _ => none
    (∀ h row col, h < 2 → row < 128 → col < 128 → h ≠ f.half.toNat ∨ ¬within row col → r.1.cell h row col = g.cell h row col) ∧
    r.2.fl.nx = false ∧ r.2.fl.uf = false ∧ r.2.fl.dz = false ∧ r.2.fl.sat = false ∧
    (isInt = true → (∀ row col, within row col → new row col = BitVec.ofInt 32 (sum row col)) ∧
      (r.2.fl.iov = true ↔ ∃ row col, within row col ∧ (sum row col < -2 ^ 31 ∨ 2 ^ 31 ≤ sum row col))) ∧
    (isInt = false → ∀ row col, within row col →
      let c := fmtF32.decode (old row col).toNat
      let ps := prods row col
      let num (n : Bool) (m : Nat) (e : Int) : ℝ := (if n then -1 else 1) * (m : ℝ) * (2 : ℝ) ^ e
      let val (x : FV) : ℝ := match x with
        | .fin n m e => num n m e
        | .nan | .inf _ => 0
      let bad (p : FV × FV) : Prop := (p.1.isInf = true ∧ p.2.isZero = true) ∨ (p.2.isInf = true ∧ p.1.isZero = true)
      let nan : Prop := c = .nan ∨ ∃ p ∈ ps, p.1 = .nan ∨ p.2 = .nan ∨ bad p
      let inf (neg : Bool) : Prop := c = .inf neg ∨
        ∃ p ∈ ps, (p.1.isInf = true ∨ p.2.isInf = true) ∧ (p.1.isNeg != p.2.isNeg) = neg
      let s := (ps.map fun p => val p.1 * val p.2).sum
      (ps = [] → new row col = old row col) ∧
      (ps ≠ [] → nan ∨ (inf false ∧ inf true) → new row col = 0x7FC00000) ∧
      (ps ≠ [] → ¬nan → inf false → ¬inf true → new row col = 0x7F800000) ∧
      (ps ≠ [] → ¬nan → inf true → ¬inf false → new row col = 0xFF800000) ∧
      (¬nan → ¬inf false → ¬inf true → (s = 0 → new row col = old row col) ∧
        (s ≠ 0 → ∃ n m e, num n m e = val c + s ∧ (m = 0 → n = false) ∧
          new row col = BitVec.ofNat 32 (roundTo fmtF32 .ieee .rne false (.num n m e false)).1)))) ∧
  ∀ (s : State) (e : Entry) (f : OaccF) (x y : QEntry) (fa fb : OFmt), Alone s e → NoAbsent s → e.op = .oacc f →
    f.aSrc = 0 → f.bSrc = 0 → e.prog ≤ f.steps.toNat → oaccFmts f = (fa, fb) → fa ≠ .spbf16 →
    (s.core.queues.getD (f.aIdx.toNat % 4) []).head? = some x → (s.core.queues.getD (4 + f.bIdx.toNat % 4) []).head? = some y →
    x.ord < e.ord → y.ord < e.ord → x.fault = none → y.fault = none → x.fmt = fa → x.rank = fa.rank → y.fmt = fb → y.rank = fa.rank →
    let r := stepGrid f fa.isInt (f.clear == 1 && e.prog == 0) (fun row => x.vals.getD row []) (fun col => y.vals.getD col [])
      s.core.grid {}
    let t := (((s.updCore fun c => { c with grid := r.1 }).popEntry (f.aIdx.toNat % 4)).popEntry (4 + f.bIdx.toNat % 4)).meter s.part 1 1
    let e1 : Entry := { e with prog := e.prog + 1, fl := e.fl.then_ r.2, hold := [] }
    exec (.oaccStep .pass) s = .next (if e.prog < f.steps.toNat then still t e1 else retired t e1)

/-- R187, R190, R25, R109: an oacc at task level that finds its A queue empty with no stream outstanding starves: the trap has cause
0x0E with the queue's number, EPC the oacc, SPC the next instruction, the rest of the GIQ held behind it. -/
def Obligations.StarvedStepTraps : Prop :=
  ∀ (s : State) (e : Entry) (f : OaccF), Alone s e → NoAbsent s → e.op = .oacc f → f.aSrc = 0 → e.prog ≤ f.steps.toNat →
    s.core.queues.getD (f.aIdx.toNat % 4) [] = [] → s.cmds = [] → s.pl = 0 → s.core.prev = none → s.core.run = .running →
    exec (.oaccStep .pass) s = .next s ∧
    ∃ t, exec .giqFaultTrap s = .next t ∧ t.core.cause = 0x0E ∧ t.core.tval = BitVec.ofNat 64 (f.aIdx.toNat % 4) ∧
      t.core.epc = e.pc &&& ~~~1 ∧ t.core.spc = s.core.pc &&& ~~~1 ∧ t.core.pc = s.core.tvec &&& ~~~255 ∧ t.pl = 1 ∧
      t.core.giq = [] ∧ t.core.flight = [] ∧ t.core.blk.map (·.ord) = e.ord :: s.core.giq.map (·.ord) ∧
      fieldNat t.core.stepprog 0 9 = e.prog % 512 ∧ t.core.regs = s.core.regs ∧ t.core.grid = s.core.grid ∧ t.mem = s.mem

/-- R169, R174: the serviced stream of a queue forms its next entry from the bytes of that step and places it; the last step ends the
stream. R175, R177, R179: an element of whole bytes in the qld view is read at its place: from the base, from its k-line of a qldx, whose
indices are read as soon as they can be (the model's choice, assumption log 21), or from D of a qldz, whose blocks are decoded as they are
needed, from what its scout has read, which goes as far as it may (the model's choice, assumption log 73). R174, R178, R179: a stream entry that leaves the GIQ
makes its stream outstanding, with a number of its own: a qldff with the leading steps that its probe granted, which its x register
counts; a qldz with a decompressor of its cluster. R242: a fence.vs, fence.vv, fence.all, seal or irrev that has left the GIQ and waits, with
no oacc ahead of it, holds back the remaining reads of an earlier stream.
R222: in host-assisted mode the pages that the streams have still to read are then asked for. -/
def Obligations.StreamStepPlacesOneEntry : Prop :=
  (∀ (s u s1 : State) (q : BitVec 3) (st st1 : Stream) (vals : List (List (Option OVal))), s.readIndices = u →
    u.core.streams = [st] → st.q = q.toNat → st.parked = false → u.core.markerHolds st = false → u.storeAhead st = false →
    State.queueUsed u.core q.toNat + entrySlots st.spec.fmt q.toNat st.spec.dbl ≤ 32 →
    u.formStep st st.next = (s1, st1, .ok vals) → s1.core = u.core → st1.q = st.q → st1.spec = st.spec →
    ∃ t : State, exec (.streamStep q .pass) s = .next t.askAhead ∧
      t.core.queues.getD q.toNat [] = u.core.queues.getD q.toNat [] ++
        [⟨st.ord, st.spec.fmt, st.spec.r, entrySlots st.spec.fmt q.toNat st.spec.dbl, st.next, none, vals⟩] ∧
      t.core.streams = (if st.next + 1 < st.spec.steps then [{ st1 with next := st.next + 1 }] else []) ∧
      t.core.grid = u.core.grid ∧ t.core.regs = u.core.regs ∧ t.mem = s1.mem) ∧
  (∀ s : State, (∀ st ∈ s.core.streams, st.parked = true ∨ st.indexed = true) → s.readIndices = s) ∧
  (∀ (s s1 : State) (st : Stream) (fuel : Nat), st.indexed = false →
    (s.core.streams = [st] → st.parked = false → s.readIndices =
      (s.readIndex st st.spec.steps).1.updCore fun c => { c with streams := c.streams.set 0 (s.readIndex st st.spec.steps).2 }) ∧
    (∀ f, s.qldxLines st st.lines.length = (s1, .error (some f)) →
      s.readIndex st (fuel + 1) = (s1, { st with lines := st.lines ++ [(some f, [])] })) ∧
    (∀ l, s.qldxLines st st.lines.length = (s1, .ok l) → s.readIndex st (fuel + 1) =
      (s1.meterVirt { s.streamWho st with stlb := none }
        ((State.idxAddrs st st.lines.length).flatMap fun a => State.span a 4)).readIndex { st with lines := st.lines ++ [(none, l)] } fuel)) ∧
  (∀ s : State, (s.getPart s.part).ha = false → s.askAhead = s) ∧
  (∀ (s : State) (q : BitVec 3) (st : Stream) (x : Entry), s.core.streams = [st] → x ∈ s.core.flight → x.fin = false → st.ord < x.ord →
    (∃ k sc, k ≠ 0 ∧ x.op = .fence k sc) ∨ (∃ a, x.op = .seal a) ∨ (∃ a, x.op = .irrev a) →
    (∀ y ∈ s.core.flight, y.ord < x.ord → y.op.isOacc = false) → exec (.streamStep q .pass) s = .next s.readIndices.askAhead) ∧
  (∀ (st : Stream) (k : Nat) (lines : List Int) (rd : Nat → Byte) (i q : Nat), i < st.spec.len → q < st.spec.r →
    tView st.kind st.spec = false → 0 < elemBytes st.spec.fmt →
    let word (a : Int) : Option OVal :=
      some (elemVal st.spec.fmt (fromLE ((List.range (elemBytes st.spec.fmt)).map fun (b : Nat) => rd (wrap64 (a + b)))))
    let base : Int := if st.kind = .qldz then 0 else st.addr.toNat
    let x := ((stepVals st k lines rd).getD i []).getD q none
    (st.kind ≠ .qldx → x = word (base + k * st.spec.stride + (q * st.spec.len + i : Nat) * st.spec.estride)) ∧
    (st.kind = .qldx → lines.length = st.spec.r → x = word (lines.getD q 0 + i * st.spec.estride))) ∧
  (∀ (s s0 : State) (st : Stream) (m : List (Nat × Nat)) (k : Nat), st.kind = .qldx →
    s.readVirt { s.streamWho st with stlb := none } ((State.idxAddrs st k).flatMap fun a => State.span a 4) st.expects = (s0, .ok m) →
    s.qldxLines st k = (s0, .ok ((List.range st.spec.r).map fun q =>
      let a := (st.idx + BitVec.ofNat 64 (4 * (k * st.spec.r + q))).toNat
      (st.addr.toNat : Int) + (BitVec.ofNat 32 (fromLE ((State.span a 4).map fun b => s0.byteAt (mapped m b)))).toInt * st.spec.stride))) ∧
  (∀ (s : State) (st : Stream), st.kind = .qldz → st.once = none →
    (∀ k s1 st1,
      let need := (stepAddrs st k []).foldl (fun m a => if m < a + 1 then a + 1 else m) 0
      s.dzFill st (stepAddrs st k []) (2 * (need + st.dzDir.length) + 2) = (s1, st1, .ok ()) →
      s.formStep st k = (s1, st1, .ok (stepVals st k [] st1.dzByte))) ∧
    (∀ (s1 : State) (st1 : Stream) (needs : List Nat) (fuel : Nat),
      let at_ : Nat := match st.dzDir.findIdx? fun b => st.dzLacks needs b with
        | some i => i
        | none => st.dzDir.length
      (s.scoutCoded st).1.scoutHeads (s.scoutCoded st).2 (at_ + 17) st.dzLimit (at_ + 17) = (s1, st1) →
      ((∀ a ∈ needs, a < st1.dzPos) → st1.dzWants needs = none → s.dzFill st needs (fuel + 1) = (s1, st1, .ok ())) ∧
      (∀ o hdr hb coded h img, st1.dzWants needs = some (o, hdr, hb ++ coded) → hb.length = 32 → (parseHdr hb).clen ≤ coded.length →
        s1.blockOf (s1.streamWho st1) st1.seq hdr hb (some st1.spec.fmt.code) st1.spec.ratio (.ok coded) = .ok (h, img) →
        s.dzFill st needs (fuel + 1) = s1.dzFill { st1 with dzImg := st1.dzImg ++ [(o, img)] } needs fuel)) ∧
    (∀ (s1 s2 : State) (hb coded : List Byte) (n limit fuel : Nat), st.dzDir.length < n → st.dzPos < limit → st.dzLast = none →
      scoutFault st.dzFlt st.dzNext = none → s.readRun (s.streamWho st) st.dzNext 32 st.expects = (s1, .ok hb) →
      (parseHdr hb).magicOk = true →
      s1.readRun (s.streamWho st) (st.dzNext + 32) (parseHdr hb).clen st.expects = (s2, .ok coded) →
      let h := parseHdr hb
      s.scoutHeads st n limit (fuel + 1) = s2.scoutHeads { st with
        dzNext := st.dzNext + BitVec.ofNat 64 h.span, dzPos := st.dzPos + h.dlen, dzLast := if h.last then some st.dzNext else none,
        dzDir := st.dzDir ++ [(st.dzPos, st.dzNext, hb ++ coded)] } n limit fuel)) ∧
  (∀ (s : State) (e : Entry) (k : SKind) (q : Nat) (addr : Word) (spec : SSpec) (idx : Word) (xd : Nat), Alone s e → s.core.giq = [] →
    e.op = .stream k q addr spec idx xd →
    let st : Stream := { kind := k, ord := e.ord, seq := e.ord, q := q, addr := addr, spec := spec, idx := idx, pc := e.pc,
                         word := e.word, pl := e.pl, dzNext := addr }
    let on (u : State) (x : Stream) : State :=
      { u with nextCmd := u.nextCmd + 1 }.updCore fun c => { c with streams := [{ x with seq := u.nextCmd }] }
    (k = .qld ∨ k = .qldt → exec .giqDeparture s = .next (retired (on s st) e)) ∧
    (k = .qldx → exec .giqDeparture s = .next (retired (on s st).readIndices e)) ∧
    (k = .qldff → ∀ s1 g f ms, s.grantedSteps st spec.steps 0 e.maps = (s1, ms, some (g, f)) → s1.core = s.core → f = none ∨ 0 < g →
      exec .giqDeparture s = .next (retired ((on s1 { st with spec := { spec with steps := g }, maps := ms }).updCore fun c =>
        c.setReg xd (BitVec.ofNat 64 g)) e)) ∧
    (k = .qldz → s.cmds = [] → s.portGrant true e .decomp = true → exec (.engineAccept .decomp) s =
      .next (retired ((on s st).setGrant .decomp s.cur) e))) ∧
  (∀ (s s1 : State) (st : Stream) (n g : Nat) (f : Option GFault) (had ms : List (Nat × Nat)),
    s.grantedSteps st n 0 had = (s1, ms, some (g, f)) →
      g ≤ n ∧ (f = none ↔ g = n) ∧ (∀ k < g, stepMisaligned st k [] = none) ∧
      (∀ a, g < n → stepMisaligned st g [] = some a → f.map (fun x => (x.code, x.tval)) = some (3, a)))

/-- R19, R20: the head of the GIQ leaves when nothing is in flight.
R19, R255, R256: the port takes the head of the GIQ; cinc, cset and crd do their work there; cwait waits until the count is no
more than its operand. -/
def Obligations.PortTakesHeadsAndCounts : Prop :=
  (∀ (s : State) (e : Entry) (r : List Entry), s.core.giq = e :: r → s.core.flight = [] → s.core.drn = none →
    exec .giqDeparture s = .next (s.updCore fun c => { c with giq := r, flight := [e] })) ∧
  (∀ (s : State) (e : Entry), Alone s e → s.core.giq = [] → s.cmds = [] →
    (∀ c v, e.op = .cinc c v → (s.core.ctr c).count + v.toNat ≤ 65535 →
      exec .giqDeparture s =
        .next (retired (s.updCore fun k => k.setCtr c { s.core.ctr c with count := (s.core.ctr c).count + v.toNat }) e)) ∧
    (∀ c v, e.op = .cset c v → v.toNat ≤ 65535 → ∃ t, exec .giqDeparture s = .next t ∧
      t.core.ctrs = s.core.ctrs.setIfInBounds c ⟨v.toNat, false, 0, 0⟩ ∧ t.core.flight = [] ∧ t.core.regs = s.core.regs) ∧
    (∀ c d, e.op = .crd c d →
      let x := s.core.ctr c
      exec .giqDeparture s = .next (retired (s.updCore fun k => k.setReg d
        (BitVec.ofNat 64 ((if x.f then 2 ^ 63 + x.cause % 256 * 2 ^ 48 else 0) + x.count))) e)) ∧
    (∀ c v, e.op = .cwait c v → (s.core.ctr c).f = false →
      exec .cwaitSatisfied s = .next (if (s.core.ctr c).count ≤ v.toNat then retired s e else waiting s e)))

/-- R276 to R279: ipost posts its iteration once it lies within 64 of H; H slides over the posted ones that follow it; iwait ends when
its iteration is no later than H.
R285 to R287: bar.init starts an object; an arrival gives its phase and the last one of a phase advances it; bar.wait ends when the
phase has passed: it is checked once, and a wait that stays is judged on the phase alone.
R209: slook, sins and sinv act on the tag table of the core's cluster for its task. -/
def Obligations.RingsBarriersAndTagsAct : Prop :=
  (∀ (s : State) (e : Entry) (ch : Nat) (n : Word), Alone s e → Landed s →
    let x := s.channel ch
    (e.op = .ipost ch n →
      (x.h + 64 < n.toInt → exec .ipostApply s = .next (waiting s e)) ∧
      (n.toInt ≤ x.h → exec .ipostApply s = .next (retired (s.setChannel ch x) e)) ∧
      (n.toInt = x.h + 1 → x.posted = [] → exec .ipostApply s = .next (retired (s.setChannel ch ⟨x.h + 1, []⟩) e)) ∧
      (x.h + 1 < n.toInt → n.toInt ≤ x.h + 64 → x.posted = [] →
        exec .ipostApply s = .next (retired (s.setChannel ch ⟨x.h, [n.toInt]⟩) e))) ∧
    (e.op = .iwait ch n → exec .iwaitSatisfied s = .next (if n.toInt ≤ x.h then retired s e else waiting s e))) ∧
  (∀ (s : State) (e : Entry) (a y : Word) (d task key : Nat) (rlx : Bool), Alone s e → Landed s → s.core.giq = [] →
    e.prog = 0 → s.barSite a = .here task key →
    let o := s.barObj task key
    let ok := o.init = true ∧ o.scope = (barAddr a).scope
    (e.op = .barInit a y → exec .giqDeparture s =
      .next (retired (s.setBarObj task key ⟨true, y.toNat, 0, 0, (barAddr a).scope⟩) e)) ∧
    (e.op = .barArrive rlx a d → ok → exec .giqDeparture s =
      .next (retired ((s.setBarObj task key
        (if o.a + 1 = o.n then { o with a := 0, e := (o.e + 1) % 2 ^ 32 } else { o with a := o.a + 1 })).updCore
          fun c => c.setReg d (BitVec.ofNat 64 o.e)) e)) ∧
    (e.op = .barWait a y → ok → exec .barWaitSatisfied s =
      .next (if 1 ≤ ((BitVec.ofNat 32 o.e) - y.setWidth 32).toNat ∧ ((BitVec.ofNat 32 o.e) - y.setWidth 32).toNat < 2 ^ 31 then
        retired s e else waiting s { e with prog := 2 }))) ∧
  (∀ (s : State) (e : Entry) (a y : Word) (task key : Nat), Alone s e → e.prog = 2 → s.barSite a = .here task key → e.op = .barWait a y →
    let d := BitVec.ofNat 32 (s.barObj task key).e - y.setWidth 32
    exec .barWaitSatisfied s = .next (if 1 ≤ d.toNat ∧ d.toNat < 2 ^ 31 then retired s e else waiting s e)) ∧
  (∀ (s : State) (e : Entry) (key slot : Word) (d : Nat), Alone s e → Landed s → s.core.giq = [] →
    let mine (x : TagEnt) : Bool := x.cluster == s.cur / 4 && x.task == s.core.gridTaskId && x.key == key
    let old : Word := match s.tagtab.find? mine with | some x => BitVec.ofNat 64 x.slot | none => BitVec.ofInt 64 (-1)
    (e.op = .slook key d → exec .giqDeparture s = .next (retired (s.updCore fun c => c.setReg d old) e)) ∧
    (e.op = .sins key slot d → s.tagtab.find? mine = none → (s.tagtab.filter fun x => x.cluster == s.cur / 4).length < 1024 →
      exec .giqDeparture s =
        .next (retired ({ s with tagtab := s.tagtab ++ [(⟨s.cur / 4, s.core.gridTaskId, key, slot.toNat⟩ : TagEnt)] }.updCore
          fun c => c.setReg d (BitVec.ofInt 64 (-1))) e)) ∧
    (e.op = .sinv key → exec .giqDeparture s =
      .next (retired { s with tagtab := s.tagtab.filter fun x => !mine x } e)))

/-- R257, R258, R259: a command takes an engine in its turn: it is accepted and its counter rises; with its data written it completes and its
counter falls; a residue failure parks the command behind its counter, after the elements before the one at which it arises; that the event's lane and row
say which that is, is the model's choice (assumption log 73).
R262, R263, R384: a copy writes its elements in processing order, each with the bytes of its source element or the fill. R211: a granule
takes its tag with the last of the command's writes into it.
R272, R275: an xdz decodes its blocks one by one, from what its scout has read of them, and writes each image behind the one before; that the
scout goes as far as it may is the model's choice (assumption log 73). R273, R274: a dztab installs its table once nothing
accepted before it decodes in the cluster.
R343, R346, R347, R350: a recv writes the payloads that it holds, element by element, added to what stands there with .add, and with its
last element its STATUS. -/
def Obligations.EnginesAcceptCompleteAndPark : Prop :=
  (∀ (s : State) (e : Entry) (c : Nat) (x y z : Word), c < 32 →
    (∀ (s1 : State) (d r : TMap) (sm dm : List (Nat × Nat)), Alone s e → e.op = .xfer c x y z →
      s.prepXfer e x y z = (s1, .ok (d, r, sm, dm)) → s.cmds = [] → s1.cmds = [] → s1.core = s.core → s1.ctrFull c = false →
      s1.portGrant true e .transfer = true →
      ∃ t k, exec (.engineAccept .transfer) s = .next t ∧ t.cmds = [k] ∧ k.id = s1.nextCmd ∧ k.core = s1.cur ∧ k.ctr = c ∧
        k.op = .xfer d r z sm dm ∧ k.state = .running ∧ k.pc = e.pc ∧
        t.core.ctrs = s.core.ctrs.setIfInBounds c { s.core.ctr c with count := (s.core.ctr c).count + 1 } ∧ t.core.flight = []) ∧
    (∀ (k : Cmd) (d r : TMap) (w : Word) (sm dm : List (Nat × Nat)) (a b : Nat), s.cmds = [k] → k.state = .running →
      k.op = .xfer d r w sm dm → k.next = 0 → k.snap = [] → k.flt = none → s.reachesSaved k = false → r.count = 1 →
      (overlap d r w).shared = false → xferElem d r w 0 = (some a, some b) →
      let rd := s.xferRead r sm k.tchd (some a)
      rd.1 = .ok (s.readBytes (mapped sm a) r.w) → s.unpopulated (mapped dm b) = false → s.lost (mapped dm b) = false →
      s.writeStalls (s.cmdWriter k) (mapped dm b) r.w = false →
      exec (.engineComplete k.id) s = .next ((((s.write (s.cmdWriter k) (mapped dm b) (s.readBytes (mapped sm a) r.w)).setTags d.tagen
        d.tag (mapped dm b) r.w).meterMem k.part (mapped sm a) r.w 0).completeCmd { k with tchd := rd.2 })) ∧
    (∀ (k : Cmd), s.cmds = [k] → k.core = s.cur → k.task = s.core.gridTaskId → k.ctr = c →
      (s.completeCmd k).cmds = [] ∧ (s.completeCmd k).mem = s.mem ∧
      (s.completeCmd k).core.ctrs = s.core.ctrs.setIfInBounds c { s.core.ctr c with count := (s.core.ctr c).count - 1 } ∧
      (k.state = .running → (s.core.ctr c).f = false → k.flt = none → (∀ d r w sm dm, k.op = .xfer d r w sm dm → k.next < r.count) →
        ∀ alt, ∃ t, exec (.engineRuntimeFault k.id (.fail alt 0 0)) s = .next t ∧
        t.cmds.map (·.state) = [.parked 0x0D 0] ∧ t.cmds.map (·.id) = [k.id] ∧
        t.core.ctrs = s.core.ctrs.setIfInBounds c { s.core.ctr c with f := true, cause := 0x0D, tval := 0 } ∧ t.mem = s.mem))) ∧
  (∀ (s : State) (k : Cmd), s.cmds = [k] → k.state = .running → s.reachesSaved k = false →
    let went := exec (.engineComplete k.id) s
    (∀ (d r : TMap) (w : Word) (sm dm : List (Nat × Nat)), k.op = .xfer d r w sm dm → k.snap = [] → k.flt = none → r.tagen = false →
      (overlap d r w).shared = false →
      let order := (xferOrder d r w).drop k.next
      let later (i g : Nat) : Bool := (order.drop (i + 1)).any fun n =>
        match (xferElem d r w n).2 with
        | some b => s.region (mapped dm b) == .spad && decide ((mapped dm b - spadBase) / 4096 ≤ g) &&
            decide (g ≤ (mapped dm b - spadBase + r.w - 1) / 4096)
        | none => false
      let one (u : State) (i : Nat) : State :=
        let p := xferElem d r w (order.getD i 0)
        let v := match p.1 with
          | some a => u.readBytes (mapped sm a) r.w
          | none => leBytes r.w r.fill
        let t := match p.2 with
          | some b => (u.write (u.cmdWriter k) (mapped dm b) v).setTags d.tagen d.tag (mapped dm b) r.w fun g => !later i g
          | none => u
        match p.1 with
        | some a => t.meterMem k.part (mapped sm a) r.w 0
        | none => t
      let free (i : Nat) : Prop :=
        let u := (List.range i).foldl one s
        let p := xferElem d r w (order.getD i 0)
        (∀ a, p.1 = some a → u.unpopulated (mapped sm a) = false ∧ u.poisonedRange (mapped sm a) r.w = false) ∧
        (∀ b, p.2 = some b → u.unpopulated (mapped dm b) = false ∧ u.lost (mapped dm b) = false ∧
          u.writeStalls (u.cmdWriter k) (mapped dm b) r.w = false)
      ((∀ i < order.length, free i) → went = .next (((List.range order.length).foldl one s).completeCmd k)) ∧
      (∀ alt lane row, row * 128 + lane < order.length → (∀ i < row * 128 + lane, free i) →
        exec (.engineRuntimeFault k.id (.fail alt lane row)) s = .next (((List.range (row * 128 + lane)).foldl one s).parkCmd
          { k with next := k.next + (row * 128 + lane) } { code := 0x0D, tval := 0 }))) ∧
    (∀ (d y p : Word), k.op = .xdz d y p → went = .next (s.runXdz k d p (fieldNat p 0 32 + 1))) ∧
    (∀ (n : Nat) (a : Word) (s1 : State) (img : List Byte), k.op = .dztab n a → k.snap = [] →
      s.readRun (State.cmdWho k) a 320 = (s1, .ok img) →
      (s1.dztabWaits k = true → went = .next (s1.setCmd { k with snap := [(0, img)] })) ∧
      (∀ tab, s1.dztabWaits k = false → parseTable img = some tab → went = .next ((s1.modTask k.task fun x =>
        { x with tables := Sp.put [] x.tables (k.core / 4 * 4 + n) tab }).completeCmd k)) ∧
      (s1.dztabWaits k = false → parseTable img = none → went = .next (s1.parkCmd k { code := 0x0B, tval := a }))) ∧
    (∀ (x : RecvC), k.op = .recv x → x.paired = true →
      let one (u : State) (i : RWrite) : State :=
        let pa := mapped x.dmap ((x.dst.toNat + i.off) % 2 ^ 64)
        let v : List Byte := match i.item with
          | .raw b => b
          | .num v => leBytes x.eb (roundTo x.fmt .ieee .rne false
              (if x.add then addFV .rne (x.fmt.decode (u.readNat pa x.eb)) v else v.exact)).1
        ((if x.add then u.meterMem k.part pa x.eb 0 else u).write (u.cmdWriter k) pa v).setTags x.tagen x.tag pa v.length
          fun _ => x.granuleWhole i.off v.length ((x.dst.toNat + i.off) % 2 ^ 64)
      (∀ blk j bs, x.pend = [(blk, j, bs)] →
        let its := State.recvLeft x blk j bs
        let got := its.foldl (fun g i => max g i.done) x.got
        got < x.n →
        (∀ pre i post, its = pre ++ i :: post →
          let u := pre.foldl one s
          let va := (x.dst.toNat + i.off) % 2 ^ 64
          let n := match i.item with | .raw b => b.length | .num _ => x.eb
          (x.add = true → u.readFault x.dmap (State.span va n) = none) ∧ u.writeFault x.dmap (State.span va n) = none ∧
            u.writeStalls (u.cmdWriter k) (mapped x.dmap va) n = false) →
        went = .next (((its.foldl one s).setCmd
          { k with op := .recv { x with got := got, nan := x.nan + (its.map (·.nan)).sum, pend := [], made := 0 } }).sendMsg (.written k.id (blk + j)))) ∧
      (∀ s1 s2 m, x.pend = [] → x.n ≤ x.got →
        let va := (x.desc + 0x18).toNat
        s.probeSpan (State.cmdWho k) .store (x.desc + 0x18) 8 = (s1, .ok m) → s1.writeFault m (State.span va 8) = none →
        s1.writeVirt (s1.cmdWriter k) m va (leBytes 8 (BitVec.ofNat 64 (x.quant * 2 ^ 32 + x.nan)).toNat) 2 = some s2 →
        went = .next ((s2.setTags x.tagen x.tag (mapped m va) 8).completeCmd k)))) ∧
  (∀ (s s1 s2 : State) (k : Cmd) (hdr : Word) (n : Nat) (hb coded : List Byte), k.scouted hdr = [] → scoutFault k.flt.toList hdr = none →
    let h := parseHdr hb
    s.readRun (State.cmdWho k) hdr 32 = (s1, .ok hb) → h.magicOk = true →
    s1.readRun (State.cmdWho k) (hdr + 32) h.clen = (s2, .ok coded) →
    let k1 : Cmd := { k with snap := (k.snap.filter fun p => p.1 != hdr.toNat) ++ [(hdr.toNat, hb ++ coded)] }
    s.scoutXdz k hdr (n + 1) = (if h.last then (s2, k1) else s2.scoutXdz k1 (hdr + BitVec.ofNat 64 h.span) n) ∧
    ∀ u x ratio, State.blockAt u { k1 with dz := hdr } x ratio = u.blockOf (State.cmdWho k) k.id hdr hb x ratio (.ok coded)) ∧
  (∀ (s s1 s2 s3 : State) (k0 k : Cmd) (d p : Word) (fuel : Nat) (h : BlockHdr) (img : List Byte) (m : List (Nat × Nat)),
    let fmt := fieldNat p 35 5
    let va := d + BitVec.ofNat 64 k.next
    let as := State.span va.toNat img.length
    s.reachesSaved k0 = false → (∀ t, s.findTask k0.task = some t → t.spads = []) → s.scoutXdz k0 k0.dz 17 = (s1, k) →
    s1.blockAt k (if fmt = 31 then none else some fmt) (fieldNat p 40 4) = .ok (h, img) →
    k.next + h.dlen ≤ fieldNat p 0 32 → s1.mapPages (State.cmdWho k) .store (pageHeads as) = (s2, .ok m) →
    (∀ a ∈ as, s2.unpopulated (mapped m a) = false ∧ s2.lost (mapped m a) = false) →
    s2.writeVirt (s2.cmdWriter k) m va.toNat img 3 = some s3 →
    let s4 := (unitsOf 4096 va.toNat img.length).foldl (fun (u : State) (g : Nat) =>
      if h.last = true ∨ g + 4096 ≤ va.toNat + img.length then
        u.setTags (p.getLsbD 47) (fieldNat p 48 16) (mapped m (max g va.toNat % 2 ^ 64)) 1
      else u) s3
    s.runXdz k0 d p (fuel + 1) = if h.last then s4.completeCmd k
      else s4.runXdz { k with next := k.next + h.dlen, dz := k.dz + BitVec.ofNat 64 h.span
                              snap := k.snap.filter fun x => x.1 != k.dz.toNat } d p fuel)

/-- R241, R312, R314: the markers retire: a fence once earlier grid-side accesses are done; a seal closes the interval, counts it open,
and gives the next RIN; an irrev does the same, waits for its commit, then writes at once. R241, R246, R312: a fence.vs, a fence.all, a seal
and an irrev order the core's earlier grid side before its later loads: none of them reads an older byte (assumption log 30). -/
def Obligations.FencesAndSealsRetire : Prop :=
  ∀ (s : State) (e : Entry) (t : Task), Alone s e → Landed s → s.gridTask = some t →
    let n := bits s.core.rin 0 32
    let m := BitVec.ofNat 32 (e.prog - 1)
    let ready := s.core.openN ≠ 2 ∧ (∀ c < 32, (s.core.ctr c).f = false) ∧ s.cmds = []
    (∀ k sc, e.op = .fence k sc → exec .fenceRetire s = .next (retired (if k = 1 ∨ k = 3 then s.dropOlder else s) e)) ∧
    (e.op = .seal 0 → ready → ∃ u, exec .sealRetire s = .next u ∧ u.core.rin = (n + 1).setWidth 64 ∧
      u.core.openN = s.core.openN + 1 ∧ u.core.sealReq = false ∧ u.core.now = false ∧ u.core.sealPtr = some 0 ∧
      n ∈ u.dom.sealed ∧ u.core.flight = [] ∧ u.core.older = [] ∧ u.mem = s.mem ∧ u.core.regs = s.core.regs) ∧
    (e.op = .irrev 0 → e.prog = 0 → ready → ∃ u, exec .irrevRetire s = .next u ∧ u.core.rin = (n + 1).setWidth 64 ∧
      u.core.openN = s.core.openN + 1 ∧ u.core.flight = [{ e with prog := n.toNat + 1, stop := .wait }] ∧ u.mem = s.mem) ∧
    (∀ p, e.op = .irrev p → e.prog ≠ 0 → later m s.dom.datum = true → exec .irrevRetire s = .next (waiting s e)) ∧
    (∀ p, e.op = .irrev p → e.prog ≠ 0 → later m s.dom.datum = false → ∃ u, exec .irrevRetire s = .next u ∧
      u.core.now = true ∧ u.core.flight = [] ∧ u.core.older = [] ∧ u.net = s.net ++ [.irrev m] ∧ u.mem = s.mem)

/-- R12, R26, R30: a halt retires once every counter is zero: the core goes idle, and with the task's last core the task ends and
returns what it holds; a grid-reset entry gives the grid side of R11 once the old task has ended, here too on every core of its gang. That this entry also gives TVEC and
clears FLAGS but for the fields that the new task's scalar side merges (R82, R84) is deduced (assumption log 32); so is that a core whose halt has retired is idle while its gang runs on (assumption log 48). -/
def Obligations.HaltAndGridResetRetire : Prop :=
  ∀ (s : State) (e : Entry) (t : Task), Alone s e → Landed s → s.gridTask = some t → s.core.prev = none →
    (∀ c < 32, (s.core.ctr c).f = false ∧ (s.core.ctr c).count = 0) → s.core.task = some t.id → e.fl = {} →
    (e.op = .halt → (∃ n ∈ t.cores, n ≠ s.cur ∧ n ∉ t.halted) →
      ∃ u, exec .haltRetire s = .next u ∧ u.core.run = .idle ∧ u.core.flight = [] ∧ s.core.regs = u.core.regs ∧
        (∀ v, u.findTask t.id = some v → v.halted = t.halted ++ [s.cur])) ∧
    (e.op = .halt → t.cores = [s.cur] → t.done = 0 →
      ∃ u, exec .haltRetire s = .next u ∧ u.core.run = .idle ∧ u.core.task = none ∧ u.findTask t.id = none ∧
        (∀ x ∈ u.tagtab, x.task ≠ t.id) ∧ (∀ x ∈ u.cmds, x.task ≠ t.id) ∧ u.mem = s.mem) ∧
    (e.op = .gridReset → (∀ o ∈ s.tasks, o.id ≠ t.id → o.state = .running → o.cores ≠ t.cores) → ∃ u, exec .gridResetEntry s = .next u ∧ u.core.grid = [] ∧ u.core.masks = Vector.replicate 24 0 ∧
      u.core.flags = s.core.flags &&& 0x1F00 ∧ u.core.ctrs = Vector.replicate 32 Counter.init ∧ u.core.awins = Vector.replicate 4 none ∧
      u.core.tvec = (s.getPart s.part).rtvec &&& ~~~255 ∧ u.core.regs = s.core.regs ∧ u.mem = s.mem)

/-- R284, R286, R383: a barrier operation of another device with the PARTID and TENANT of the holder acts on the named object for
that partition's task and is answered; one of no tenant, or of another, gets cause 0x07. The answer to an operation of this core
completes it. -/
def Obligations.RemoteBarrierOperationsAct : Prop :=
  ∀ (s : State) (e : Entry) (a : Word) (p : BitVec 4) (tn : BitVec 32) (id task key : Nat),
    (tn ≠ 0 → (s.getPart p.toNat).tenant = tn.toNat → s.memSide p.toNat (barAddr a).task (barAddr a) = .here task key →
      let o := s.barObj task key
      (∀ n, exec (.barrierRemoteOp (.init n) a ⟨p, tn, id⟩) s =
        .next ((s.setBarObj task key ⟨true, n, 0, 0, (barAddr a).scope⟩).sendMsg (.barAns id 0 0))) ∧
      (o.init = true → o.scope = (barAddr a).scope → exec (.barrierRemoteOp .arrive a ⟨p, tn, id⟩) s =
        .next ((s.setBarObj task key
          (if o.a + 1 = o.n then { o with a := 0, e := (o.e + 1) % 2 ^ 32 } else { o with a := o.a + 1 })).sendMsg
            (.barAns id 0 (BitVec.ofNat 64 o.e)))) ∧
      (o.init = false → ∀ ph, exec (.barrierRemoteOp (.wait ph) a ⟨p, tn, id⟩) s = .next (s.sendMsg (.barAns id 8 0)))) ∧
    (tn = 0 ∨ (s.getPart p.toNat).tenant ≠ tn.toNat → ∀ ph,
      exec (.barrierRemoteOp (.wait ph) a ⟨p, tn, id⟩) s = .next (s.sendMsg (.barAns id 7 0)) ∧
      exec (.barrierRemoteOp .arrive a ⟨p, tn, id⟩) s = .next (s.sendMsg (.barAns id 7 0))) ∧
    (Alone s e → e.prog = 1 → ∀ b d rlx v, e.op = .barArrive rlx b d → exec (.barrierRemoteOp (.answer e.since 0 v) a ⟨p, tn, id⟩) s =
      .next (retired (s.updCore fun c => c.setReg d v) e))

/-- R105, R106, R109: an enabled asynchronous cause is taken between instructions, the lowest code first: the pre-emption request,
the seal request, the timer, the message. -/
def Obligations.AsynchronousTrapIsTaken : Prop :=
  ∀ (s : State) (code : Nat), s.core.run = .running → s.core.prev = none → s.core.giq = [] → s.core.flight = [] →
    s.core.streams = [] → s.core.drn = none → s.core.wfi = false → s.cmds = [] → (s.pl = 0 ∨ (s.pl = 1 ∧ s.core.status.getLsbD 4 = true ∧ s.core.blk = [])) →
    (let timer := s.core.timecmp ≠ 0 ∧ s.core.timecmp.toNat ≤ s.timeNow.toNat
     (code = 0x20 ∧ s.core.preReq = true) ∨ (code = 0x21 ∧ s.core.preReq = false ∧ s.core.sealReq = true) ∨
     (code = 0x22 ∧ s.core.preReq = false ∧ s.core.sealReq = false ∧ timer) ∨
     (code = 0x23 ∧ s.core.preReq = false ∧ s.core.sealReq = false ∧ ¬timer ∧ s.core.msgReq = true)) →
    ∃ t, exec .asyncTrap s = .next t ∧ SameOutside s t ∧ t.core.cause = BitVec.ofNat 64 (2 ^ 63 + code) ∧ t.core.tval = 0 ∧
      t.core.epc = s.core.pc &&& ~~~1 ∧ t.core.spc = s.core.pc &&& ~~~1 ∧ t.core.pc = (s.core.tvec &&& ~~~255) + 0x80 ∧
      t.pl = 1 ∧ fieldNat t.core.status 2 2 = s.pl ∧ t.core.status.getLsbD 4 = false ∧
      t.core.status.getLsbD 5 = s.core.status.getLsbD 4 ∧ t.core.regs = s.core.regs ∧ t.core.flags = s.core.flags

/-- R89, R98, R106, R125, R373, R375: the events of one core that bring data or time: the timer, the writes of TIMECMP and GIQSAVE, an
absent row, a load's data. R246, R415: where loads are paced, the data may be what stood before any of the core's own grid-side or engine
writes that nothing orders before its loads, the later ones with it; no later load of those bytes then comes before the ones that it read past
(assumption log 30). -/
def Obligations.CoreEventsAct : Prop :=
  ∀ (s : State) (v : Word) (half : BitVec 1) (row : BitVec 7) (w : LoadWait) (fr : Nat),
    (s.core.timecmp ≠ 0 → s.timeNow.toNat < s.core.timecmp.toNat →
      ∃ t, exec .timerExpiry s = .next t ∧ t.timeNow = s.core.timecmp ∧ t.core = s.core ∧ t.mem = s.mem) ∧
    exec (.timecmpWrite v) s = .next (s.updCore fun c => { c with timecmp := v }) ∧
    exec (.giqsaveWrite v) s = .next (if v.getLsbD 63 then s else s.updCore fun c => { c with blk := [] }) ∧
    ((s.core.grid.row half.toNat row.toNat).absent = true → s.core.frame = some fr →
      s.dom.state.commits = true → s.core.fetchesRow (half.toNat * 128 + row.toNat) = true →
      (unitsOf 256 (frameRow fr half.toNat row.toNat) 512).find? s.poisoned = none →
      ∃ t, exec (.absentRowFetch half row) s = .next t ∧
        (let x := t.core.grid.row half.toNat row.toNat
         x.valid = true ∧ x.dirty = false ∧ x.absent = false ∧
         ∀ c (h : c < 128), x.cells[c] = BitVec.ofNat 32 (s.readNat (frameRow fr half.toNat row.toNat + 4 * c) 4)) ∧
        t.core.regs = s.core.regs ∧ t.mem = s.mem) ∧
    (s.core.run = .running → s.core.load = some w → w.rd < 32 → s.poisonedRange w.pa w.n = false → s.region w.pa ≠ .dev →
      ∃ t data, exec .scalarLoadReturn s = .next t ∧ t.core.load = none ∧
        t.core.regs = (s.core.setReg w.rd (State.extend w.sgn w.n data)).regs ∧
        t.core.pc = s.core.pc + BitVec.ofNat 64 w.len ∧ t.mem = s.mem ∧
        (let mine (l : List (List (Nat × Byte))) : List (List (Nat × Byte)) :=
           (l.map fun e => e.filter fun p => decide (w.pa ≤ p.1) && decide (p.1 < w.pa + w.n)).filter fun e => !e.isEmpty
         let others (l : List (List (Nat × Byte))) : List (Nat × Byte) :=
           l.flatten.filter fun p => decide (p.1 < w.pa) || decide (w.pa + w.n ≤ p.1)
         (s.lagLoads = false → data = s.readNat w.pa w.n ∧ t.core.older = s.core.older) ∧
         (s.lagLoads = true → ∃ k ≤ (mine s.core.older).length, mine t.core.older = (mine s.core.older).drop k ∧
           others t.core.older = others s.core.older ∧
           data = fromLE ((List.range w.n).map fun i =>
             match ((mine s.core.older).drop k).flatten.find? fun p => p.1 == w.pa + i with
             | some p => p.2
             | none => s.byteAt (w.pa + i)))))

/-! ### Translation and launch -/

/-- R219, R221 to R223, R227, R384, R389: a walk installs its leaf in the core's probe bank and in the TLB of its cluster; a host's answer
to a walk fills the TLB of the cluster that asked, or gives no translation to the accesses that waited on it; an invalidation of the
whole partition drops its translations, makes its walks in flight install nothing, and is busy until it completes and counts in
INVSEQ; it waits while an access is held whose page it dropped. An answer that comes between STOP and RUN installs nothing, since the grant
table is not read then (R324). That an event out of its place leaves the machine as it is, is the model's choice (assumption log 1). That a
host's answer fills the TLB of the cluster that asked is deduced (assumption log 27); that a hardware walk fills both buffers, and what
it replaces there, is the model's choice (assumption log 55). -/
def Obligations.TranslationEventsAct : Prop :=
  ∀ (s : State) (va leaf tag value : Word) (low p : Nat) (d : DutyReq) (w : WalkReq), p < 16 → s.cur < 96 →
    let page : TlbEnt := ⟨probeBank s.cur va, s.part, va.toNat / 2 ^ low * 2 ^ low, low, leaf⟩
    (s.dom.state.commits = true → (s.getPart s.part).ha = false → s.walk s.part va = .ok (leaf, low) → va.toNat < apertureBase →
      ∃ t, exec (.pageWalk va) s = .next t ∧ t.tlbHit (probeBank s.cur va) s.part va = some page ∧
        t.tlbHit (clusterTlb (s.cur / 4)) s.part va = some { page with buf := clusterTlb (s.cur / 4) } ∧
        t.core = s.core ∧ t.mem = s.mem) ∧
    (∀ x, s.dom.state.commits = true → (s.getPart s.part).ha = false → s.walk s.part va = .error x →
      exec (.pageWalk va) s = .next (s.meterWalk s.part va)) ∧
    (s.dom.state.commits = false ∨ (s.getPart s.part).ha = true → exec (.pageWalk va) s = .next s) ∧
    (s.boot.status = 0 → (s.getPart p).duties = [d] → d.kind = 1 → d.tag = fieldNat tag 0 32 → s.walks = [w] → w.part = p → w.tag = some d.tag →
      ∃ t, exec (.hostAnswer p tag value) s = .next t ∧ (t.getPart p).duties = [] ∧ t.walks = [] ∧ t.core = s.core ∧ t.mem = s.mem ∧
        (w.stale = true ∨ s.dom.state.commits = false → t.tlb = s.tlb ∧ (t.getPart p).answers = (s.getPart p).answers) ∧
        (w.stale = false → s.dom.state.commits = true → value.getLsbD 0 = false → t.tlb = s.tlb ∧
          (t.getPart p).answers = (s.getPart p).answers ++ [⟨w.cluster, w.va.toNat / 2 ^ 17, w.by_⟩]) ∧
        (w.stale = false → s.dom.state.commits = true → s.goodLeaf p value = true →
          t.tlbHit (clusterTlb w.cluster) p w.va = some ⟨clusterTlb w.cluster, p,
            w.va.toNat / 2 ^ State.levelLow (fieldNat value 48 3) * 2 ^ State.levelLow (fieldNat value 48 3), State.levelLow (fieldNat value 48 3),
            setField value 48 3 0⟩)) ∧
    (s.boot.status = 0 → value.getLsbD 63 = true → fieldNat value 0 32 = 0 → (s.getPart p).invbusy = false →
      ∃ t, exec (.invalidation p value) s = .next t ∧ t.tlb = s.tlb.filter (fun e => e.part != p) ∧
        (∀ x ∈ t.walks, x.part = p → x.stale = true) ∧ (t.getPart p).answers = [] ∧
        (t.getPart p).invbusy = true ∧ (∀ e ∈ s.tlb, e.part = p → (e.va, e.log2) ∈ (t.getPart p).invdrop) ∧ t.core = s.core ∧ t.mem = s.mem) ∧
    ((s.getPart p).invbusy = true → s.mapsHeld p = true → exec (.invalidationComplete p) s = .next s) ∧
    ((s.getPart p).invbusy = true → s.mapsHeld p = false → (s.getPart p).invwait = [] →
      ∃ t, exec (.invalidationComplete p) s = .next t ∧ (t.getPart p).invbusy = false ∧
        (t.getPart p).invseq = (s.getPart p).invseq + 1 ∧ t.core = s.core ∧ t.mem = s.mem)

/-- R353, R364, R377: the writes to a queue's descriptor: enabling makes it run empty; a destroyed queue drops a waiting record and
finishes one being fetched; TAIL moves within the ring and halts the queue with FCAUSE 5 elsewhere. LOG2SZ is writable in state 0, and EN := 0
acts, at any time (R352, R377). That no queue is enabled while its partition is being reset, and from STOP to CLEAN of a rollback, is the
model's reading (R378, R391, R392; assumption log 39): TAIL of a queue in state 0 moves even then (R353). The step in which TAIL publishes a
record is kept for the order of arrival (R374). -/
def Obligations.QueueDescriptorEventsAct : Prop :=
  ∀ (s : State) (p q : Nat) (v : Word), p < 16 → q < 8 → s.boot.status = 0 →
    let x := s.getQueue p q
    (s.queuesOpen p = true → x.state = 0 → x.en = false → 12 ≤ fieldNat v 0 6 → fieldNat v 0 6 ≤ 30 →
      ∃ t, exec (.queueEnable p q v) s = .next t ∧ t.core = s.core ∧ t.mem = s.mem ∧
        (let y := t.getQueue p q
         y.en = true ∧ y.state = 1 ∧ y.log2sz = fieldNat v 0 6 ∧ y.head = 0 ∧ y.tail = 0 ∧ y.ndisp = 0 ∧ y.hs = .fetch ∧
           y.held = RecFields.zero ∧ y.qbase = x.qbase)) ∧
    (x.state = 1 → x.en = true →
      ∃ t, exec (.queueDestroy p q v) s = .next t ∧ t.core = s.core ∧ t.mem = s.mem ∧ (t.getQueue p q).en = false ∧
        (t.getQueue p q).state = (if x.hs = .fetch ∧ x.head ≠ x.tail then 3 else 0)) ∧
    (s.queuesOpen p = false → x.state = 0 → x.en = false → ∀ i ∈ [Instr.queueEnable p q v, .queueDestroy p q v],
      ∃ t, exec i s = .next t ∧ t.getQueue p q = { x with log2sz := fieldNat v 0 6 } ∧ t.core = s.core ∧ t.mem = s.mem) ∧
    (x.state ≤ 1 → s.dom.state = .run →
      ∃ t, exec (.tailWrite p q v) s = .next t ∧ t.core = s.core ∧ t.mem = s.mem ∧
        (if v.toNat % 16 = 0 ∧ x.head.toNat ≤ v.toNat ∧ v.toNat ≤ x.head.toNat + 2 ^ x.log2sz then
          t.getQueue p q = { x with tail := v, pubs := x.pubs ++ [(v, s.ticks)] }
        else t.getQueue p q = { x with state := 2, fcause := 5, faddr := x.head })) ∧
    (∀ n a, x.hs = .reserve n a → ∃ t, exec (.reserveAgeExpiry p q) s = .next t ∧
      t.getQueue p q = { x with hs := .reserve n true } ∧ t.core = s.core ∧ t.mem = s.mem)

/-- R356, R359, R361, R362: the head record of a running queue is read, checked and held, and HEAD passes it; a bad header halts the
queue with FCAUSE 1, and one whose LENGTH takes the record across the end of the ring with FCAUSE 6; a record whose wait-for entries are all satisfied goes to RESERVE. The reads of the ring may walk (`s1`, `s2`), and the bytes
of a record count once (R384). That a record which TAIL has published only in part waits is the model's choice (assumption log 39). -/
def Obligations.RecordsAreFetchedAndWait : Prop :=
  ∀ (s s1 s2 : State) (p q : Nat) (hb bs : List Byte), p < 16 → q < 8 → s.launches p = true →
    let x := s.getQueue p q
    let off := x.head.toNat % 2 ^ x.log2sz
    let va := x.qbase + BitVec.ofNat 64 off
    let len := leField hb 0 2
    let mask := leField hb 4 4
    x.state = 1 →
    (x.hs = .fetch → x.head ≠ x.tail → s.ringRead p q va 8 = (s1, .ok hb) →
      (badHeader len mask (leField hb 2 2) = true → ∃ t, exec (.recordFetch p q) s = .next t ∧
        t.getQueue p q = { (s1.meterRing p q va 8).getQueue p q with state := 2, fcause := 1, faddr := x.head } ∧ t.mem = s1.mem ∧
        t.tasks = s1.tasks) ∧
      (badHeader len mask (leField hb 2 2) = false → 2 ^ x.log2sz < off + len → mask < 2 ^ 20 → mask = 0 ∨ x.first = false →
        ∃ t, exec (.recordFetch p q) s = .next t ∧
          t.getQueue p q = { (s1.meterRing p q va 8).getQueue p q with state := 2, fcause := 6, faddr := x.head } ∧ t.mem = s1.mem) ∧
      (badHeader len mask (leField hb 2 2) = false → off + len ≤ 2 ^ x.log2sz → x.tail.toNat < x.head.toNat + len →
        exec (.recordFetch p q) s = .next s1) ∧
      (let r := takeFields mask (List.range 20) (bs.drop 8) x.held
       badHeader len mask (leField hb 2 2) = false → x.head.toNat + len ≤ x.tail.toNat → off + len ≤ 2 ^ x.log2sz → mask ≠ 0 →
       s1.ringRead p q va len = (s2, .ok bs) → recFault (s2.getPart p).clusters x.first bs mask r = none →
       let y := (s2.meterRing p q va len).getQueue p q
       y.state = 1 → ∃ t, exec (.recordFetch p q) s = .next t ∧ t.mem = s2.mem ∧ t.tasks = s2.tasks ∧
        t.getQueue p q = { y with head := y.head + BitVec.ofNat 64 len, held := r, first := false, start := y.head,
                                  pubs := y.pubs.filter fun a => decide (y.head.toNat < a.1.toNat)
                                  hs := .wait (r.waits.map fun w => if w.1 = 0 then 1 else 0) })) ∧
    (∀ sat, x.hs = .wait sat → (∀ k ∈ sat, k = 1) →
      ∃ t, exec (.waitPoll p q) s = .next t ∧ t.getQueue p q = { x with hs := .reserve s.nextCmd false } ∧ t.mem = s.mem)

/-- R10, R11, R194, R196, R291, R363, R364: a served record of any class becomes a task with its resources: cores, zeroed reservations, lane
copies, barrier objects; a dispatched task starts its core at ENTRY at task level,
with the registers of R11, an empty grid side and the partition's trap vector. -/
def Obligations.ReservedTasksStart : Prop :=
  ∀ (s : State) (p q die : Nat),
    (∀ (s1 : State) (c : Cand) (xs : List Share),
      let s0 := s.candidates.foldl State.askPlace ([0, 1, 2, 3].foldl State.capIdle s)
      s.liveDies.head? = some die → s.dom.state = .run →
      s0.pick (s0.tasks.filter s0.mayResume) (s0.candidates.filter fun c => (s0.grantable c).isSome) = (s1, some (.inr c)) →
      s1.grantable c = some xs →
      ∃ t k, exec (.reserveAttempt die) s = .next t ∧ t.tasks = s1.tasks ++ [k] ∧ k.id = s1.nextTask ∧ k.part = c.p ∧
        k.queue = c.q ∧ k.state = .granted ∧ k.entry = c.r.entry ∧ k.args = c.r.args ∧ k.done = c.r.done ∧ k.cls = c.r.level ∧
        k.cores = (xs.flatMap fun h => coresOf h.cluster h.mask) ∧ t.nextTask = (s1.nextTask + 1) % 2 ^ 32 ∧
        k.nb = c.r.nb ∧ k.nw = c.r.nw ∧ k.preempt = c.r.cls.getLsbD 8 ∧ k.runahd = c.r.cls.getLsbD 9 ∧ k.member = c.r.cls.getLsbD 10 ∧
        k.resume = c.r.resume ∧ k.resv = xs.map (fun h => (h.cluster, h.off, spadRound c.r.spad.toNat)) ∧
        k.copies = xs.map (fun h => (h.cluster, h.copies, c.r.nw * 2097152 * maskCores h.mask)) ∧
        ∀ h ∈ xs, ∀ n < spadRound c.r.spad.toNat, Sp.get 0 t.mem (spadBase + h.cluster * spadBytes + h.off + n) = 0) ∧
    (∀ (k : Task), s.tasks = [k] → k.state = .granted → k.part = p → k.queue = q → k.cores = [s.cur] → s.launches p = true →
      ∃ t, exec (.taskDispatch p q) s = .next t ∧ t.core.run = .running ∧ t.core.task = some k.id ∧ t.core.pc = k.entry ∧
        t.pl = 0 ∧ t.core.getReg 2 = BitVec.ofNat 64 apertureBase ∧ t.core.getReg 3 = 0 ∧ t.core.getReg 4 = 1 ∧
        t.core.getReg 5 = BitVec.ofNat 64 k.id ∧ t.core.getReg 9 = k.resume ∧
        (∀ i < 8, t.core.getReg (10 + i) = k.args.getD i 0) ∧ (∀ i, i ∈ [1, 6, 7, 8] ∨ 18 ≤ i → t.core.getReg i = 0) ∧
        t.core.grid = [] ∧ t.core.giq = [] ∧ t.core.flags = 0 ∧ t.core.ctrs = Vector.replicate 32 Counter.init ∧
        t.core.tvec = (s.getPart p).rtvec &&& ~~~255 ∧ t.mem = s.mem)

/-- R369, R371 to R374: pre-emption drains a stopped core, writes its frame and keeps the rest, and frees it; a resumed task runs on
from its frame. Here a gang of one core. What the frame's bytes stand for that R371 leaves internal, and which fields come back from State and not
from the frame, are the model's (assumption logs 11 and 34). -/
def Obligations.PreemptionSavesAndResumes : Prop :=
  ∀ (s : State) (k : Task) (fr : Nat), s.cur < 96 → k.cores = [s.cur] → k.halted = [] →
    (s.curTask = some k → s.core.run = .stop → s.core.giq = [] → s.core.flight = [] → s.core.streams = [] → Landed s →
      s.cmds = [] → ∃ t, exec .preemptDrain s = .next t ∧ t.core.run = .drain ∧ t.core.spc = s.core.pc &&& ~~~1 ∧ t.core.regs = s.core.regs ∧
        t.core.grid = s.core.grid ∧ t.mem = s.mem) ∧
    (s.curTask = some k → s.core.run = .drain → s.core.flight = [] → k.frames = [(s.cur, fr)] →
      ∃ t, exec .preemptSave s = .next t ∧ t.core.run = .save ∧ t.mem = (s.saveFrame fr).mem ∧ t.core.giq = [] ∧
        t.core.streams = [] ∧ (∀ x, t.findTask k.id = some x → x.saved.getLast? = some s.savedCore)) ∧
    (s.curTask = some k → s.core.run = .save → (∃ q, k.state = .preempting q) → s.victims = [k] →
      ∃ t, exec .preemptGone s = .next t ∧ t.core.run = .idle ∧ t.core.task = none ∧
        (∀ x, t.findTask k.id = some x → x.state = .preempted)) ∧
    (∀ (v : SavedCore) (n : BitVec 32), k.id = n.toNat → s.tasks = [k] → s.frameBad fr = none → k.state = .preempted → s.launches k.part = true →
      s.coreHeld [] s.cur = false → s.core.run ≠ .fenced → k.spads = [] → k.part < 16 → s.candidates = [] → k.frames = [(s.cur, fr)] →
      k.saved = [v] → v.core = s.cur → v.block = [] →
      ∃ t, exec (.taskResume n) s = .next t ∧ t.core.run = .running ∧ t.core.task = some k.id ∧ t.core.queues = v.queues ∧
        t.core.pc = BitVec.ofNat 64 (s.readNat (fr + 0xFF8) 8) &&& ~~~1 ∧
        (∀ i, 0 < i → i < 32 → t.core.getReg i = BitVec.ofNat 64 (s.readNat (fr + 8 * i) 8)) ∧
        t.pl = min 2 (s.readNat (fr + 0x100) 8 % 4) ∧ t.mem = s.mem)

/-- R367: a kill ends the task, stops its core, cancels its commands, returns what it holds and tells the host. The scalar stores that its cores
have issued are performed (R428). -/
def Obligations.KillEndsTheTask : Prop :=
  ∀ (s : State) (n : BitVec 32) (k : Task), s.findTask n.toNat = some k → s.boot.status = 0 →
    ∃ t, exec (.kill n) s = .next t ∧ t.findTask n.toNat = none ∧ (∀ x ∈ t.cmds, x.task ≠ n.toNat) ∧
      (∀ x ∈ t.tagtab, x.task ≠ n.toNat) ∧ (∀ x ∈ s.cmds, x.task ≠ n.toNat → x ∈ t.cmds) ∧
      t.mem = (k.cores.foldl State.performStores s).mem ∧
      (NoStores s → t.host = s.host ++ [.killed k.part n.toNat, .vector (k.part * 4)] ∧ t.mem = s.mem ∧
        ∀ p < 16, t.getPart p = { s.getPart p with lstall := (t.getPart p).lstall }) ∧
      (s.core.task = some n.toNat → s.core.prev = none → s.cur ∈ k.cores → t.core.run = .idle ∧ t.core.task = none ∧ t.core.giq = [])

/-! ### Recovery -/

/-- R309, R315, R316, R320, R322, R323: arrivals are recorded and the meridian commits; a commit advances DATUM, frees the records that
are due and closes the interval before RIN once that has committed (R303); stalls beyond their limit and other events raise a domain fault, which stops the cores. The
numbers of the causes are the model's (assumption log 37), and so is that a timeout with nothing stalled leaves the machine as it is
(assumption log 1). -/
def Obligations.IntervalsCommitAndFaultsStop : Prop :=
  ∀ (s : State) (die dev : Nat) (v : Word), s.cur < 96 → s.dom.state = .run →
    let n := bits v 0 32
    (die < 4 → s.deadDies = [] → s.openInterval n = true → s.dieArrived die n = true → s.dom.dieArr = [] →
      exec (.sealAgentArrive die v) s = .next { s with dom := { s.dom with dieArr := [(die, n)] } }) ∧
    (s.dom.members = [s.devid] → s.dom.arrived = [] → n = s.dom.bcast + 1 →
      ∃ t, exec (.arrive s.devid v true) s = .next t ∧ t.dom.bcast = n ∧ t.net = s.net ++ [.commit n] ∧ t.core = s.core) ∧
    (n = s.dom.datum + 1 → s.held = [] →
      ∃ t, exec (.commit v) s = .next t ∧ t.dom.datum = n ∧ t.undo = s.undo.filter (fun r => later r.rin n) ∧
        t.core.openN = (if s.core.openN = 2 ∧ later (bits s.core.rin 0 32 - 1) n = false then 1 else s.core.openN) ∧ t.core.regs = s.core.regs ∧ t.mem = s.mem) ∧
    (∀ i ∈ [Instr.logStallTimeout, .holdStallTimeout],
      ((∀ p < 16, (s.getPart p).lstall = false) → exec i s = .next s) ∧
      (∀ p < 16, (s.getPart p).lstall = true → s.core.run = .running → ∃ t, exec i s = .next t ∧ t.dom.state = .fault ∧
        t.net = s.net ++ [.domainFault 1] ∧ t.core.run = .halted ∧ t.core.regs = s.core.regs ∧ t.mem = s.mem)) ∧
    (s.core.run = .running → ∃ t, exec (.domainFault die none) s = .next t ∧ t.dom.state = .fault ∧
      t.net = s.net ++ [.domainFault die] ∧ t.core.run = .halted ∧ t.mem = s.mem) ∧
    (s.isMeridian = true → dev ∈ s.dom.members → s.dom.bcast = s.dom.datum →
      ∃ t, exec (.domainFaultReport dev die) s = .next t ∧ t.net = s.net ++ [.rollback s.dom.datum] ∧ t.core = s.core ∧ t.mem = s.mem)

/-- R308, R310, R323, R324, R378: the states of a rollback: STOP discards commands and halts the cores, whose issued stores are performed; RESTORE
writes the logged lines back newest first, so that of two records of one line the older one's bytes stay; CLEAN empties what tasks hold and
halts every queue, REPORTED gives every core the interval after the target, RESUME runs again. The model's readings: that STOP performs the issued
stores whatever the capacity of the log (assumption log 30), that CLEAN halts the queues which are not enabled too (log 38), and the target of a
rollback and of a second fault (log 37). -/
def Obligations.RollbackRestoresAndResumes : Prop :=
  ∀ (s : State) (v : Word) (die dev : Nat), s.cur < 96 →
    (s.core.run = .running → ∃ t, exec (.rollback v) s = .next t ∧ t.dom.state = .stop ∧ t.dom.target = bits v 0 32 ∧ t.cmds = [] ∧
      t.core.run = .halted ∧ t.core.giq = [] ∧ t.core.streams = [] ∧
      t.mem = ((List.range 96).foldl State.performStores s).mem ∧ (NoStores s → t.mem = s.mem ∧ t.undo = s.undo)) ∧
    (s.dom.state = .stop ∨ s.dom.state = .restore → die < 4 → s.deadDies = [] → die ∉ s.dom.restored →
      let mine := s.undo.filter fun r => s.dieOf r.line == die && later r.rin s.dom.target
      let last (p : UndoRec → Bool) : Option UndoRec := mine.reverse.find? p
      ∃ t, exec (.rollbackRestore die) s = .next t ∧ t.dom.state = .restore ∧ t.dom.restored = s.dom.restored ++ [die] ∧
        (∀ a, Sp.get 0 t.mem a = match last fun r => decide (r.line ≤ a) && decide (a < r.line + r.old.length) with
          | some r => r.old.getD (a - r.line) 0
          | none => Sp.get 0 s.mem a) ∧
        (∀ a, Sp.get false t.poison a = match last fun r => r.line == a with
          | some r => r.pois || !r.sound
          | none => Sp.get false s.poison a) ∧ t.undo = s.undo) ∧
    (s.dom.state = .restore → (∀ d ∈ s.liveDies, d ∈ s.dom.restored) →
      ∃ t, exec .rollbackClean s = .next t ∧ t.dom.state = .clean ∧ t.held = [] ∧ t.tlb = [] ∧ t.undo = [] ∧ t.tagtab = [] ∧
        t.core.grid = [] ∧ t.core.resv = none ∧ (∀ p < 16, ∀ q < 8, (t.getQueue p q).state = 2 ∧ (t.getQueue p q).fcause = 0x10)) ∧
    (s.dom.state = .clean → s.core.run = .halted →
      ∃ t, exec .rollbackReport s = .next t ∧ t.dom.state = .reported ∧ t.tasks = [] ∧ t.core.run = .idle ∧
        t.core.rin = (s.dom.target + 1).setWidth 64 ∧ NetMsg.done ∈ t.net ∧ t.mem = s.mem) ∧
    (s.isMeridian = true → s.dom.members = [s.devid, dev] → s.dom.dones = [s.devid] → s.devid ≠ dev →
      ∃ t, exec (.rollbackDone dev) s = .next t ∧ t.net = s.net ++ [.resume] ∧ t.core = s.core ∧ t.mem = s.mem) ∧
    (s.dom.state = .reported → exec .resume s = .next { s with dom := { s.dom with state := .run } })

/-- R27, R330, R331, R333: a spare takes a lane at a GIQ boundary, which a core below firmware level enters that level for; poison marks its line; a fenced die's cores stop for good, its tasks end
and its memory reads as poison. The list of spares in use, and that a third sparing does nothing, are the model's (assumption log 50), as are
the address at which firmware is entered and left (assumption log 6) and the line that POISON's address names (assumption log 36). -/
def Obligations.LanesPoisonAndDies : Prop :=
  ∀ (s : State) (lane : BitVec 7) (pa die : Nat),
    (s.core.flight = [] → s.core.spares.length < 2 → s.pl = 2 ∨ s.core.run ≠ .running →
      exec (.laneSparing lane) s = .next (s.updCore fun c => { c with spares := c.spares ++ [lane.toNat] })) ∧
    (s.core.flight = [] → s.core.spares.length < 2 → s.pl ≠ 2 → s.core.run = .running →
      ∃ t, exec (.laneSparing lane) s = .next t ∧ SameOutside s t ∧ t.core.spares = s.core.spares ++ [lane.toNat] ∧ t.pl = 2 ∧
        t.core.fw = ⟨s.pl, s.core.status.getLsbD 4, s.core.pc, [], 0⟩ ∧ t.core.regs = s.core.regs ∧ t.core.giq = s.core.giq) ∧
    (s.core.flight = [] → 2 ≤ s.core.spares.length → exec (.laneSparing lane) s = .next s) ∧
    (pa < hbmBytes → ∃ t, exec (.poison pa) s = .next t ∧ t.poisoned pa = true ∧ t.mem = s.mem ∧ t.core = s.core) ∧
    (die < 4 → die ∉ s.deadDies → ∃ t, exec (.dieFence die) s = .next t ∧ die ∈ t.deadDies ∧
      (∀ n, n / 24 = die → (t.getCore n).run = .fenced ∧ (t.getCore n).task = none) ∧
      (∀ x ∈ t.tasks, ∀ n ∈ x.cores, n / 24 ≠ die) ∧ (∀ a < hbmBytes, a / 2 ^ 37 = die → t.poisoned a = true))

/-! ### Links -/

/-- R335, R336, R338, R339, R344 to R350, R388: the link events: a paired send places its next raw flit; a flit that fails its CRC
asks for replay, a good one is acknowledged, and the acknowledged leave the replay buffer; replay sends stored flits again; a link
trains, comes up or is lost; credits pair commands of one key, and a cancelled pair parks. A host's 1 in a RETRAIN bit starts the retrain of a
link that trains, and clears the bit where it is set: the model's reading (assumption log 56); the flit's header and what FLIT_RECEIVE names of it are its choice (assumption log 61); the acknowledgement and the start
of the sequence are too (assumption log 28). -/
def Obligations.LinkEventsAct : Prop :=
  ∀ (s : State) (c : Cmd) (x : SendC) (l peer : Nat) (f : FlitIn), l < 12 → s.cmds = [c] →
    let k := s.links.getD l Link.init
    (c.op = .send x → c.state = .running → x.quant = 0 → x.credit = true → x.placed < x.total → x.link = l →
      k.state = 2 → k.buf.length < 64 → s.reachesSaved c = false → s.blockFault x x.placed = none →
      let g : Flit := ⟨k.txSeq, c.id, x.round, x.placed, 1,
        padFlit ((State.blockReads x x.placed).1.map fun a => s.byteAt (mapped x.smap a))⟩
      ∃ t, exec (.flitTransmit c.id) s = .next t ∧ t.net = s.net ++ [.flit l g] ∧ (t.links.getD l Link.init).buf = k.buf ++ [g] ∧
        (t.links.getD l Link.init).txSeq = k.txSeq + 1 ∧ t.cmds = [{ c with op := .send { x with placed := x.placed + 1 } }] ∧
        t.mem = s.mem) ∧
    (f.link = l → k.state = 2 → flitSound f = false → exec (.flitReceive f) s = .next (s.sendMsg (.replay l k.rxSeq))) ∧
    (∀ id r b n, f.link = l → k.state = 2 → flitSound f = true → f.kind = .payload id r b n → f.seq = k.rxSeq → id ≠ c.id →
      ∃ t, exec (.flitReceive f) s = .next t ∧ t.net = s.net ++ [.ack l f.seq] ∧
        (t.links.getD l Link.init).rxSeq = k.rxSeq + 1 ∧ t.mem = s.mem) ∧
    (∀ q, f.link = l → k.state = 2 → flitSound f = true → f.kind = .ack q → ∃ t, exec (.flitReceive f) s = .next t ∧
      (t.links.getD l Link.init).buf = k.buf.filter (fun g => decide (q < g.seq)) ∧ t.cmds = s.cmds ∧ t.mem = s.mem) ∧
    (∀ g, k.state = 2 → k.buf = [g] → ∃ t, exec (.replayRequest l g.seq) s = .next t ∧ t.net = s.net ++ [.flit l g] ∧
      (t.links.getD l Link.init).buf = [g] ∧ (t.links.getD l Link.init).replays = min (2 ^ 32 - 1) (k.replays + 1) ∧ t.mem = s.mem) ∧
    (k.state = 2 → 16 ≤ k.row → ∃ t, exec (.linkRetrain l) s = .next t ∧ (t.links.getD l Link.init).state = 1 ∧
      t.host = s.host ++ [.vector 65] ∧ t.mem = s.mem) ∧
    (k.state = 1 → k.buf = [] → s.dom.members = [s.devid] → (∀ n, (s.getCore n).flight = [] ∧ (s.getCore n).blk = []) →
      ∃ t, exec (.linkLost l) s = .next t ∧ (t.links.getD l Link.init).state = 3 ∧ t.host = s.host ++ [.vector 65] ∧ t.mem = s.mem) ∧
    (s.boot.status = 0 → k.state < 2 → (k.state = 1 → s.devctl.getLsbD 1 = true → s.devctl.getLsbD (16 + l) = true) → k.buf = [] →
      ∃ t, exec (.linkUp l peer) s = .next t ∧ (t.links.getD l Link.init).state = 2 ∧
      (t.links.getD l Link.init).peer = peer % 65536 ∧ t.host = s.host ++ [.vector 65] ∧ t.mem = s.mem) ∧
    (k.state = 1 → s.devctl.getLsbD 1 = true → s.devctl.getLsbD (16 + l) = false → exec (.linkUp l peer) s = .next s) ∧
    (c.op = .send x → c.state = .running → x.credit = false → ∀ bs, s.keyOk c x.chan bs = true → leField bs 0 1 < 2 →
      leField bs 1 4 = x.n → x.stype < 2 → exec (.credit c.id bs) s =
        .next { s with cmds := [{ c with op := .send { x with credit := true, radd := false } }]
                       net := s.net ++ [.offer c.id c.part (s.getPart c.part).tenant x.chan (x.quant + 4 * x.stype) x.n] }) ∧
    (c.op = .send x → x.credit = true → ∃ t, exec (.cancelNotice c.id) s = .next t ∧
      t.cmds.map (·.state) = [.parked 0x08 x.desc] ∧ t.mem = s.mem) ∧
    (s.devctl.getLsbD (16 + l) = true ∨ (s.devctl.getLsbD 1 = true ∧ k.state = 1) →
      exec (.retrainStart l) s = .next { s with devctl := s.devctl ^^^ ((1 : Word) <<< (16 + l)) }) ∧
    (s.devctl.getLsbD (16 + l) = false → s.devctl.getLsbD 1 = false ∨ k.state ≠ 1 → exec (.retrainStart l) s = .next s)

/-! ### Partitions, the host and attestation -/

/-- R380, R385 to R387, R391, R392: messages, meters and the stages of a partition reset. That each stage is one event, that QUIESCE destroys the
queues and kills the tasks in one step, and that FREE clears CLUSTERS are deduced (assumption log 39). A release reads the grant table, so its
scrub waits while a rollback is in progress (R324). -/
def Obligations.PartitionEventsAct : Prop :=
  ∀ (s : State) (p : Nat) (v : Word) (k : Task), p < 16 → s.cur < 96 →
    let x := s.getPart p
    (s.boot.status = 0 → s.curTask = some k → State.runsTask s.core.run = true → k.part = p → v.getLsbD 63 = false → fieldNat v 0 7 = s.cur →
      ∃ t, exec (.msgbell p v) s = .next t ∧ t.core = { s.core with msgReq := true } ∧ t.mem = s.mem) ∧
    (exec (.msgack v) s = .next (s.updCore fun c => { c with msgReq := false })) ∧
    (exec (.outbell v) s = .next (s.tell (.vector (s.part * 4 + 2)))) ∧
    (s.boot.status = 0 → v.getLsbD 0 = true → ∃ t, exec (.mreset p v) s = .next t ∧ (t.getPart p).meters = Vector.replicate 10 0 ∧ t.core = s.core ∧
      t.mem = s.mem) ∧
    (s.boot.status = 0 → x.stage = .none → ∀ r ∈ [(Instr.partitionReset p, false), (.partitionTeardown p, true)], ∃ t, exec r.1 s = .next t ∧
      (t.getPart p).pstate = 2 ∧ (t.getPart p).stage = .quiesce ∧ (t.getPart p).release = r.2 ∧ (t.getPart p).duties = [] ∧
      (∀ y ∈ t.tasks, y.part ≠ p) ∧ (NoStores s → t.mem = s.mem) ∧
      (∀ q < 8, (t.getQueue p q).en = false ∧
        (let y := s.getQueue p q
         y.en = true ∨ y.state = 2 → (t.getQueue p q).state =
          (if y.state = 3 ∨ (y.state = 1 ∧ y.hs = .fetch ∧ y.head ≠ y.tail) then 3 else 0)))) ∧
    (x.stage = .quiesce → (∀ y ∈ s.tasks, y.part ≠ p) → ∃ t, exec (.resetDrain p) s = .next t ∧ (t.getPart p).stage = .drain ∧
      (∀ c ∈ t.cmds, c.part ≠ p) ∧ t.mem = s.mem) ∧
    (x.stage = .drain → (∀ c ∈ s.cmds, c.part ≠ p) → ∃ t, exec (.resetFlush p) s = .next t ∧ (t.getPart p).stage = .flush ∧
      (∀ h ∈ t.held, h.part ≠ p) ∧ t.mem = s.mem) ∧
    (x.stage = .flush → x.release = false → ∃ t, exec (.resetScrub p) s = .next t ∧ (t.getPart p).stage = .scrub ∧
      t.undo = s.undo.filter (fun r => r.part != p) ∧
      (∀ q < 24, bitNat x.clusters q = true → ∀ a < spadBytes, Sp.get 0 t.mem (spadBase + q * spadBytes + a) = 0) ∧
      (∀ a < spadBase, Sp.get 0 t.mem a = Sp.get 0 s.mem a)) ∧
    (x.stage = .flush → x.release = true → s.dom.state.commits = false → exec (.resetScrub p) s = .next s) ∧
    (x.stage = .scrub → ∃ t, exec (.resetFree p) s = .next t ∧ (t.getPart p).stage = .none ∧ (t.getPart p).pstate = 0 ∧
      (t.getPart p).clusters = 0 ∧ t.core = s.core ∧ t.mem = s.mem)

/-- R226, R384, R394: a die's energy goes to the only active partition; the memory window reads and writes memory; management writes
a register. The address of DEVID is the model's (assumption log 14). -/
def Obligations.HostEventsAct : Prop :=
  ∀ (s : State) (p die mj n : Nat) (pa v : Word) (bs : List Byte), p < 16 → die < 4 →
    (s.coreTime = [(p * 4 + die, n)] → 0 < n → s.energy = [] → ∃ t, exec (.energyApportion die mj) s = .next t ∧
      (t.getPart p).meters.getD 9 0 = (s.getPart p).meters.getD 9 0 + BitVec.ofNat 64 mj ∧ t.coreTime = [] ∧ t.mem = s.mem) ∧
    (s.dom.state = .run → s.boot.status = 0 → s.hdmBase ≤ pa.toNat → pa.toNat + n ≤ s.hdmBase + 2 ^ 36 → pa.toNat + n ≤ hbmBytes →
      exec (.hostMemAccess pa (.read n)) s = .next (s.tell (.memRead ((List.range n).map fun i => byte s (pa.toNat + i)))) ∧
      (bs.length = n → s.lost pa.toNat = false →
        s.writeStalls ⟨0, s.entryInterval, false, s.dieOf pa.toNat, none⟩ pa.toNat n = false → ∃ t, exec (.hostMemAccess pa (.write bs)) s = .next t ∧
        (∀ k (h : k < bs.length), Sp.get 0 t.mem (pa.toNat + k) = bs[k]) ∧
        (∀ a, a < pa.toNat ∨ pa.toNat + n ≤ a → Sp.get 0 t.mem a = Sp.get 0 s.mem a) ∧ t.core.regs = s.core.regs)) ∧
    (s.boot.status = 0 →
      exec (.registerWrite (BitVec.ofNat 64 (devBase + p * 0x1000)) v) s =
        .next (s.modPart p fun x => { x with ptroot := v &&& ~~~0x3FFF }) ∧
      (∃ t, exec (.registerWrite (BitVec.ofNat 64 (2 ^ 63 + 1)) v) s = .next t ∧ t.devid = v.toNat % 65536 ∧ t.core = s.core))

/-- R379, R380, R386, R395 to R398: package reset gives the machine of reset with the boot's measurements and keys, and after a successful boot the
partitions of the partition table; the SPDM requests are answered in their order, with the capabilities and algorithms of R397. What else an
answer holds is free, and so are the keys and what the table says; the numbers and the order are the model's (assumption log 9). -/
def Obligations.BootAndAttestation : Prop :=
  ∀ (s : State) (image nonce : List Byte) (sid : Nat), s.boot.meas ≠ [] →
    let ans (f : Spdm → Spdm) (code : Nat) (body : List Byte) : Out := .next ({ s with spdm := f s.spdm }.tell (.spdm code body))
    let err : Out := .next (s.tell (.spdm 0 []))
    (∃ t, exec (.packageReset image) s = .next t ∧ t.core = Core.init ∧ t.others = [] ∧ t.mem = [] ∧ t.tasks = [] ∧
      t.boot.meas.length = 7 ∧ t.boot.status ≤ 5 ∧ t.boot.idKey = Config.identityKey Config.identitySeed ∧ t.host = [.vector 64] ∧
      (t.boot.status = 0 → t.boot.akey = Config.aliasKey Config.identitySeed (t.boot.meas.getD 1 []) (t.boot.meas.getD 2 [])) ∧
      (t.boot.status ≠ 0 → t.parts = Vector.replicate 16 Partition.init) ∧
      (t.boot.status = 0 → ∀ p < 16,
        let x := t.getPart p
        let w (off : Nat) : Word := Config.tableWord p off image
        if Config.tableHas p image then
          x.pstate = 1 ∧ x.clusters = (((List.range 24).filter fun q => Config.tableOwner q image == p).map (2 ^ ·)).sum ∧
          x.ptroot = w 0x1000 &&& ~~~0x3FFF ∧ x.grantbase = w 0x008 &&& ~~~0xFFF ∧ x.tenant = fieldNat (w 0x070) 0 32 ∧
          x.schedw = fieldNat (w 0x010) 16 8 ∧ x.linkw = fieldNat (w 0x010) 8 8 ∧ x.hbmw = fieldNat (w 0x010) 0 8 ∧
          x.stallms = fieldNat (w 0x018) 48 16 ∧ x.holdkib = fieldNat (w 0x018) 32 16 ∧ x.logmib = fieldNat (w 0x018) 0 32
        else x = Partition.init)) ∧
    exec .getVersion s = ans (fun x => { x with phase := 1, sessions := [] }) 1 (Config.spdmBody 1 0 []) ∧
    (s.spdm.phase = 1 → exec .getCapabilities s = .next (({ s with spdm := { s.spdm with phase := 2 } }.tell
        (.spdmCaps [.cert, .chal, .measSig, .keyEx, .mac, .encrypt, .hbeat, .keyUpd])).tell (.spdm 2 (Config.spdmBody 2 0 []))) ∧
      exec .getDigests s = err) ∧
    (s.spdm.phase = 2 → exec (.negotiateAlgorithms true) s = .next (({ s with spdm := { s.spdm with phase := 3 } }.tell
        (.spdmAlgs [.hashSm3, .measHashSm3, .signSm2, .kexSm2, .aeadSm4Gcm])).tell (.spdm 3 (Config.spdmBody 3 0 []))) ∧
      exec (.negotiateAlgorithms false) s = err) ∧
    (s.spdm.phase = 3 →
      exec .getDigests s = ans id 4 (Config.spdmBody 4 0 (s.boot.idKey ++ (if s.boot.status = 0 then s.boot.akey else []))) ∧
      exec (.getCertificate 0) s = ans id 5 (Config.spdmBody 5 0 s.boot.idKey) ∧
      (s.boot.status = 0 → exec (.getCertificate 1) s = ans id 5 (Config.spdmBody 5 1 s.boot.akey)) ∧
      (s.boot.status ≠ 0 → exec (.getCertificate 1) s = ans id 5 []) ∧
      exec (.challenge nonce) s = ans id 6 (Config.spdmBody 6 0 nonce) ∧
      exec (.getMeasurements nonce) s = ans id 7 (s.boot.meas.flatten ++ Config.spdmBody 7 0 nonce) ∧
      (s.boot.status ≠ 0 → exec (.keyExchange nonce) s = err) ∧
      (s.boot.status = 0 → s.spdm.sessions.length < 4 → exec (.keyExchange nonce) s =
        ans (fun x => { x with sessions := x.sessions ++ [(x.nextSid, false)], nextSid := x.nextSid + 1 }) 8
          (Config.spdmBody 8 s.spdm.nextSid nonce)) ∧
      (s.spdm.sessions = [(sid, false)] → exec (.finish sid nonce) s =
        if Config.spdmVerify sid nonce then ans (fun x => { x with sessions := [(sid, true)] }) 9 (Config.spdmBody 9 sid nonce)
        else .next ({ s with spdm := { s.spdm with sessions := [] } }.tell (.spdm 0 []))) ∧
      (s.spdm.sessions = [(sid, true)] →
        exec (.heartbeat sid) s = ans id 10 (Config.spdmBody 10 sid []) ∧
        exec (.keyUpdate sid) s = ans id 11 (Config.spdmBody 11 sid []) ∧
        exec (.endSession sid) s = ans (fun x => { x with sessions := [] }) 12 (Config.spdmBody 12 sid [])))

/-! ### The whole machine -/

/-- R85: x0 reads as zero and a write to it is discarded; every other register reads what was last written to it. -/
def Obligations.RegisterZeroDiscardsWrites : Prop :=
  ∀ (s : State) (r q : Reg) (v : Word), s.reg 0 = 0 ∧ s.setReg 0 v = s ∧ (r ≠ 0 → (s.setReg r v).reg r = v) ∧
    (q ≠ r → (s.setReg r v).reg q = s.reg q)

/-- R84, R91 to R96: the frame of the scalar instructions that touch no memory: whatever the state, a next state differs only in the
destination register, the pc and INSTRET; the branches change no register. -/
def Obligations.ScalarFrame : Prop :=
  ∀ (s t : State) (i : Instr), exec i s = .next t →
    (∀ d, writesOnly i = some d → SameOutside s t ∧ SameBeside s.core t.core ∧ t.core.flags = s.core.flags ∧
      (∀ r, r ≠ d → t.reg r = s.reg r) ∧ ∀ a, byte t a = byte s a) ∧
    (onlyBranches i = true → SameOutside s t ∧ SameBeside s.core t.core ∧ t.core.flags = s.core.flags ∧
      t.core.regs = s.core.regs ∧ ∀ a, byte t a = byte s a)

/-- R31 to R33, R90: a step of a running core whose grid side has nothing more to do and that no cause interrupts runs the instruction
that its fetch reads and decodes; an encoding that names none traps with cause 0x01 and its bits; an event on the agenda happens.
What the agenda names next happens: an event of the opcode table acts on the core that it names (assumption log 1). -/
def Obligations.StepRunsTheDecodedInstruction : Prop :=
  (∀ (s s1 s2 : State) (bs : List Byte), s.agenda = [] → s.core.run = .running → Landed s → s.core.drn = none →
    s.tick.pumpAll = (s1, none) → s1.core.run = .running → s1.core.load = none → s1.core.wfi = false → s1.core.issueHeld = false →
    (s1.core.asyncPending s1.timeNow = none ∨ s1.core.asyncEnabled = false) → s1.fetch = (s2, .ok bs none) →
    (∀ i rest, decodeBytes bs = .instr i rest → checkKind i = none ∨ s2.upsets = [] → step s = exec i s2) ∧
    (∀ c, decodeBytes bs = .illegal c → s2.core.drained = true → s2.pl = 0 →
      ∃ t, step s = .next t ∧ t.core.cause = 1 ∧ t.core.tval = c.raw ∧ t.core.epc = s2.core.pc &&& ~~~1 ∧
        t.core.regs = s2.core.regs ∧ t.mem = s2.mem)) ∧
  (∀ (s : State) (n : Nat) (i : Instr) (rest : List (Nat × Option Instr)), s.agenda = (n, some i) :: rest → i.isEvent = true → n < 96 →
    step s = exec i ({ s.tick with agenda := rest }.switchTo n))

/-- R34 to R51: words written out from the encodings, of every layout, decode to their instructions, and reserved ones to none. -/
def Obligations.WordsDecode : Prop :=
  decode (.w 0b0000000000_00011_00010_00001_00001_01) = some (.add 1 2 3) ∧
  decode (.w 0b0000000011_00011_00010_00001_00010_01) = some (.mulhsn 1 2 3) ∧
  decode (.w 0b1_011_000111_00011_00010_00001_00011_01) = some (.fma ⟨1, 3, 3, 2, 1⟩) ∧
  decode (.w 0b111111111111111_00000_00101_00100_01) = some (.addi 5 0 (-1)) ∧
  decode (.w 0b000000000011_00010_00001_000_01010_01) = some (.beq 1 2 3) ∧
  decode (.w 0b010_000000000100_01000_00111_01011_01) = some (.ldw 7 8 4) ∧
  decode (.w 0b011_111111111000_01000_00111_01100_01) = some (.std 7 8 (-8)) ∧
  decode (.w 0b100_1_11_0000_00011_00010_00001_01101_01) = some (.amoadd ⟨4, 1, 3, 3, 2, 1⟩) ∧
  decode (.w 0b011_100_000000000_00000_00000_01110_01) = some (.fenceAll 4) ∧
  decode (.w 0b00000_0000000101_00000_00000_01111_01) = some (.trap 5) ∧
  decode (.w 0b00100_0000010000_00010_00001_01111_01) = some (.csrw 1 2 0x10) ∧
  decode (.w 0b01011_0000000000_00000_00000_01111_01) = some .halt ∧
  decode (.w 0b0000000001_00011_00010_00001_10000_01) = some (.kand 1 2 3) ∧
  decode (.w 0b011_010_001_11111_00_0000_00000_10001_01) = some (.vadd ⟨3, 2, 1, 31, 0, 0⟩) ∧
  decode (.w 0b011_010_101_00011_10_0110_00111_10010_01) = some (.vcmpGe ⟨3, 2, 7, 3, 2, 6⟩) ∧
  decode (.w 0b000_010_001_11111_00_0000_00000_10011_01) = some (.vrsum ⟨2, 1, 31, 0⟩) ∧
  decode (.w 0b000_010_001_11111_00_0000_00011_10100_01) = some (.vcvt ⟨2, 1, 31, 0⟩ 3) ∧
  decode (.w 0b011_010_001_11111_01_0110_00011_10101_01) = some (.vext ⟨3, 2, 1, 31, 1, 6⟩) ∧
  decode (.w 0b000_010_001_11111_00_0000_00011_10110_01) = some (.vexp2 ⟨2, 1, 31, 0⟩) ∧
  decode (.w 0b00000_00001_01100_01010_00000_10111_01) = some (.qld 1 10 12) ∧
  decode (.w 0b00011_01_010_00_011_00110_10011_11000_01) = some (.gldx ⟨1, 2, 3, 6, 19⟩) ∧
  decode (.w 0b00000_00001_00011_00010_00100_11001_01) = some (.xfer 1 4 2 3) ∧
  decode (.w 0b00001_00011_00000_00100_00000_11010_01) = some (.cwait 3 4) ∧
  decode (.w 0b00011_00000_00000_00110_00101_11011_01) = some (.barArrive 5 6) ∧
  decode (.w 0b00000_0_01_10_00011_00010_00000_11100_01) = some (.awin 1 2 2 3) ∧
  decode (.w 0b00001_00000_00011_00010_00001_11101_01) = some (.sins 1 2 3) ∧
  decode (.h 0b1111111_00101_000_0) = some (.hAddi 5 (-1)) ∧
  decode (.t 0b000000000000000000000000000_00110_1101_1100011_1001101_10_1_101_0_00011_11) =
    some (.wset ⟨13, 99, 77, 2, 1, 5, 6⟩) ∧
  decode (.t 0b1_1010101_1001_0110_1100_0011_10110001_0000011_000_01_00_01011_10101_1_00001_11) =
    some (.oacc ⟨3, 1, 0, 11, 21, 1, 1, 85, 9, 6, 12, 3, 177⟩) ∧
  decode (.h 0) = none ∧
  decode (.w 0b0000000000_00011_00010_00001_11110_01) = none ∧
  decode (.w 0b00000_01000_01100_01010_00000_10111_01) = none

/-- R31 to R51: decoding what the encoder gives for a well-formed instruction gives it back, and so does decoding its bytes in memory order,
whatever bytes follow them: no field of an encoding is dropped, and the length rule finds where the instruction ends. -/
def Obligations.DecodeEncodeRoundTrip : Prop :=
  ∀ (i : Instr) (c : Code), i.wf = true → i.encode = some c →
    decode c = some i ∧ ∀ r : List Byte, decodeBytes (c.bytes ++ r) = .instr i c

/-- R82, R83, R102 to R106, R136, R188, R226, R304, R305, R328, R331, R338, R352, R355, R375, R380, R388: the values that the layouts give for
reset, as State holds them; memory lists nothing and has its canonical form, and the invariants of a step hold. By their meanings RIN then reads as the entry
interval 1, and SEALSTAT.OCC as 100 for shares of 0 MiB, where their layouts give 0 (assumption log 68). That memory which nothing has written
reads as 0 is the model's choice (assumption log 4). -/
def Obligations.ResetValues : Prop :=
  let c := State.reset.core
  c.status = 2 ∧ c.flags = 0 ∧ c.eidxNv = 0 ∧ c.eidxDz = 0 ∧ c.eidxOf = 0 ∧ c.eidxUf = 0 ∧ c.eidxSat = 0 ∧ c.ffi = 0 ∧
  c.restidx = 0 ∧ c.stepprog = 0 ∧ c.rowprog = 0 ∧ c.tvec = 0 ∧ c.epc = 0 ∧ c.spc = 0 ∧ c.cause = 0 ∧ c.tval = 0 ∧ c.tscr = 0 ∧
  c.mckind = 0 ∧ c.mclane = 0 ∧ c.mcrow = 0 ∧ c.mcop = 0 ∧ c.mcpc = 0 ∧ c.timecmp = 0 ∧
  c.rin = 0 ∧ State.reset.dom.datum = 0 ∧ State.reset.csrRead 0x016 = 0 ∧ State.reset.csrRead 0x032 = 0x640000 ∧
  State.reset.csrRead 0x050 = 0 ∧ State.reset.csrRead 0x051 = 0 ∧
  (∀ p < 16,
    let x := State.reset.getPart p
    x.ptroot = 0 ∧ x.ha = false ∧ x.frbase = 0 ∧ x.frctl = 0 ∧ x.frtail = 0 ∧ x.frhead = 0 ∧ x.invva = 0 ∧ x.invbusy = false ∧
    x.invpages = 0 ∧ x.invseq = 0 ∧ x.ctxbase = 0 ∧ x.ctxsize = 0 ∧ x.rtvec = 0 ∧ x.pstate = 0 ∧ x.clusters = 0 ∧ x.grantbase = 0 ∧
    x.schedw = 1 ∧ x.linkw = 1 ∧ x.hbmw = 1 ∧ x.stallms = 100 ∧ x.holdkib = 0 ∧ x.logmib = 0 ∧ x.mcha = false ∧ x.placeha = false ∧
    x.dutybase = 0 ∧ x.dutyctl = 0 ∧ x.dutytail = 0 ∧ x.dutyhead = 0 ∧ x.anstag = 0 ∧ x.ansval = 0 ∧ x.msgbell = 0 ∧ x.tenant = 0 ∧
    x.meters = Vector.replicate 10 0 ∧ x.stage = .none ∧ x.release = false ∧ x.msgin = List.replicate 64 0 ∧
    x.msgout = List.replicate 64 0 ∧
    ∀ q < 8,
      let y := State.reset.getQueue p q
      y.qbase = 0 ∧ y.en = false ∧ y.state = 0 ∧ y.fcause = 0 ∧ y.log2sz = 0 ∧ y.head = 0 ∧ y.tail = 0 ∧ y.faddr = 0 ∧ y.ndisp = 0) ∧
  (∀ l < 12, State.linkstat (State.reset.links.getD l Link.init) = 0) ∧ State.reset.devctl = 0 ∧
  RunsInDomain State.reset ∧ LevelsLegal State.reset ∧ memoryWf State.reset ∧ ∀ a, byte State.reset a = 0

/-- Every step keeps the canonical form of memory: addresses strictly rise, and no listed byte is zero. -/
def Obligations.StepKeepsMemoryWf : Prop :=
  ∀ (s t : State), memoryWf s → step s = .next t → memoryWf t
end

