-- ==== Sys2Proof/Laws/Bits.lean ====
section
/-! SUPPORT. Sys2Proof/Laws/Bits.lean: what the bit-field helpers do, bit by bit. -/

namespace Sys2Proof.Machine

theorem fieldNat_lt {k : Nat} (w : BitVec k) (lo n : Nat) : fieldNat w lo n < 2 ^ n := Nat.mod_lt _ (Nat.two_pow_pos n)

theorem testBit_fieldNat {k : Nat} (w : BitVec k) (lo n i : Nat) :
    (fieldNat w lo n).testBit i = (decide (i < n) && w.getLsbD (lo + i)) := by
  rw [fieldNat, Nat.testBit_mod_two_pow, Nat.testBit_shiftRight]
  rfl

/-- Bit `i` of a word after a field is set: the value's bit inside the field, the word's own outside. -/
theorem getLsbD_setField (w : Word) {lo n i : Nat} (v : Nat) (hn : lo + n ≤ 64) (hi : i < 64) :
    (setField w lo n v).getLsbD i = if lo ≤ i ∧ i < lo + n then v.testBit (i - lo) else w.getLsbD i := by
  have hm : (2 ^ n - 1) <<< lo < 2 ^ 64 := by
    have h1 : (2 ^ n - 1) * 2 ^ lo < 2 ^ n * 2 ^ lo :=
      Nat.mul_lt_mul_of_pos_right (Nat.sub_lt (Nat.two_pow_pos n) Nat.one_pos) (Nat.two_pow_pos lo)
    rw [← Nat.pow_add] at h1
    rw [Nat.shiftLeft_eq]
    exact Nat.lt_of_lt_of_le h1 (Nat.pow_le_pow_right (by decide) (by omega))
  have hs := Nat.testBit_two_pow_sub_succ hm i
  rw [Nat.sub_add_eq, Nat.sub_right_comm] at hs
  have hw : w.toNat.testBit i = w.getLsbD i := rfl
  simp only [setField, BitVec.getLsbD_ofNat, Nat.testBit_or, Nat.testBit_and, hs, Nat.testBit_shiftLeft,
    Nat.testBit_two_pow_sub_one, Nat.testBit_mod_two_pow, hw, hi, decide_true, Bool.true_and]
  by_cases h1 : lo ≤ i
  · by_cases h2 : i < lo + n
    · have h3 : i - lo < n := by omega
      simp [h1, h2, h3]
    · have h3 : ¬i - lo < n := by omega
      simp [h1, h2, h3]
  · simp [h1]

/-- The field that was set reads the value. -/
theorem fieldNat_setField (w : Word) {lo n : Nat} (v : Nat) (hn : lo + n ≤ 64) : fieldNat (setField w lo n v) lo n = v % 2 ^ n := by
  apply Nat.eq_of_testBit_eq
  intro i
  rw [testBit_fieldNat, Nat.testBit_mod_two_pow]
  by_cases h : i < n
  · rw [getLsbD_setField w v hn (by omega)]
    simp [h]
  · simp [h]

/-- A field that lies outside the one that was set is unchanged. -/
theorem fieldNat_setField_out (w : Word) {lo n a k : Nat} (v : Nat) (hn : lo + n ≤ 64) (hk : a + k ≤ 64)
    (h : a + k ≤ lo ∨ lo + n ≤ a) : fieldNat (setField w lo n v) a k = fieldNat w a k := by
  apply Nat.eq_of_testBit_eq
  intro i
  rw [testBit_fieldNat, testBit_fieldNat]
  by_cases hi : i < k
  · rw [getLsbD_setField w v hn (by omega), if_neg (by omega)]
  · simp [hi]

theorem getLsbD_blend (m old new : Word) (i : Nat) (hi : i < 64) :
    (blend m old new).getLsbD i = if m.getLsbD i then new.getLsbD i else old.getLsbD i := by
  simp only [blend, BitVec.getLsbD_or, BitVec.getLsbD_and, BitVec.getLsbD_not, hi, decide_true, Bool.true_and]
  cases m.getLsbD i <;> simp

theorem leBytes_length (n v : Nat) : (leBytes n v).length = n := by
  induction n generalizing v with
  | zero => rfl
  | succ n ih => simp [leBytes, ih]

theorem fromLE_leBytes (n v : Nat) : fromLE (leBytes n v) = v % 256 ^ n := by
  induction n generalizing v with
  | zero => simp [leBytes, fromLE, Nat.mod_one]
  | succ n ih =>
    rw [leBytes, fromLE, ih, Nat.pow_succ, Nat.mul_comm (256 ^ n), Nat.mod_mul]
    simp

end Sys2Proof.Machine
end

