-- ==== Sys2Proof/Laws/Encoding.lean ====
section
/-! SUPPORT. Sys2Proof/Laws/Encoding.lean: the fields of an encoded word, one lemma a field of each layout of R35, R49, R50 and R51:
what the decoder reads at a field's place is what the encoder put there. -/

namespace Sys2Proof

open Sys2Proof.Machine (bits)

/-- A bit of a field is the word's bit at the field's place. -/
theorem bits_eq {k n : Nat} (w : BitVec k) (lo : Nat) (x : BitVec n) (h : ∀ i < n, w.getLsbD (lo + i) = x.getLsbD i) :
    bits w lo n = x := by
  apply BitVec.eq_of_getLsbD_eq
  intro i hi
  simp [bits, hi, h i hi]

/-- A change of the width's spelling changes no field. -/
theorem bits_cast {k m : Nat} (h : k = m) (x : BitVec k) (lo n : Nat) : bits (x.cast h) lo n = bits x lo n := by
  subst h; rfl

/-- A field above the low part of a concatenation is a field of the high part. -/
theorem bits_skip {n m : Nat} (x : BitVec n) (y : BitVec m) (lo k : Nat) : bits (x ++ y) (m + lo) k = bits x lo k :=
  bits_eq _ _ _ fun i hi => by
    simp only [bits, BitVec.getLsbD_append, BitVec.getLsbD_extractLsb', hi, decide_true, Bool.true_and]
    rw [if_neg (by omega)]
    congr 1
    omega

theorem bits_whole {n : Nat} (x : BitVec n) : bits x 0 n = x := bits_eq _ _ _ fun i _ => by simp

/-- The high part of a concatenation. -/
theorem bits_append_hi {n m : Nat} (x : BitVec n) (y : BitVec m) : bits (x ++ y) m n = x :=
  bits_eq _ _ _ fun i hi => by simp [BitVec.getLsbD_append]

/-- The low part of a concatenation. -/
theorem bits_append_lo {n m : Nat} (x : BitVec n) (y : BitVec m) : bits (x ++ y) 0 m = y :=
  bits_eq _ _ _ fun i hi => by simp [BitVec.getLsbD_append, hi]

/-! encR -/

section

variable (fn : BitVec 10) (b a d maj : BitVec 5)

theorem encR_cast : encR fn b a d maj = BitVec.cast (by decide) (fn ++ b ++ a ++ d ++ maj ++ 1#2) := rfl

@[simp] theorem encR_fn : bits (encR fn b a d maj) 22 10 = fn :=
  (bits_cast rfl _ _ _).trans <| (bits_skip _ _ 20 _).trans <| (bits_skip _ _ 15 _).trans <| (bits_skip _ _ 10 _).trans <| (bits_skip _ _ 5 _).trans <| (bits_skip _ _ 0 _).trans <| bits_whole _

@[simp] theorem encR_b : bits (encR fn b a d maj) 17 5 = b :=
  (bits_cast rfl _ _ _).trans <| (bits_skip _ _ 15 _).trans <| (bits_skip _ _ 10 _).trans <| (bits_skip _ _ 5 _).trans <| (bits_skip _ _ 0 _).trans <| bits_append_lo _ _

@[simp] theorem encR_a : bits (encR fn b a d maj) 12 5 = a :=
  (bits_cast rfl _ _ _).trans <| (bits_skip _ _ 10 _).trans <| (bits_skip _ _ 5 _).trans <| (bits_skip _ _ 0 _).trans <| bits_append_lo _ _

@[simp] theorem encR_d : bits (encR fn b a d maj) 7 5 = d :=
  (bits_cast rfl _ _ _).trans <| (bits_skip _ _ 5 _).trans <| (bits_skip _ _ 0 _).trans <| bits_append_lo _ _

@[simp] theorem encR_maj : bits (encR fn b a d maj) 2 5 = maj :=
  (bits_cast rfl _ _ _).trans <| (bits_skip _ _ 0 _).trans <| bits_append_lo _ _

end

/-! FpsF.enc -/

section

variable (f : FpsF) (op : BitVec 6)

theorem FpsF_enc_cast : FpsF.enc f op = BitVec.cast (by decide) (f.p ++ f.m ++ op ++ f.b ++ f.a ++ f.d ++ 0x03#5 ++ 1#2) := rfl

@[simp] theorem FpsF_enc_p : bits (FpsF.enc f op) 31 1 = f.p :=
  (bits_cast rfl _ _ _).trans <| (bits_skip _ _ 29 _).trans <| (bits_skip _ _ 24 _).trans <| (bits_skip _ _ 19 _).trans <| (bits_skip _ _ 14 _).trans <| (bits_skip _ _ 9 _).trans <| (bits_skip _ _ 3 _).trans <| (bits_skip _ _ 0 _).trans <| bits_whole _

@[simp] theorem FpsF_enc_m : bits (FpsF.enc f op) 28 3 = f.m :=
  (bits_cast rfl _ _ _).trans <| (bits_skip _ _ 26 _).trans <| (bits_skip _ _ 21 _).trans <| (bits_skip _ _ 16 _).trans <| (bits_skip _ _ 11 _).trans <| (bits_skip _ _ 6 _).trans <| (bits_skip _ _ 0 _).trans <| bits_append_lo _ _

@[simp] theorem FpsF_enc_op : bits (FpsF.enc f op) 22 6 = op :=
  (bits_cast rfl _ _ _).trans <| (bits_skip _ _ 20 _).trans <| (bits_skip _ _ 15 _).trans <| (bits_skip _ _ 10 _).trans <| (bits_skip _ _ 5 _).trans <| (bits_skip _ _ 0 _).trans <| bits_append_lo _ _

@[simp] theorem FpsF_enc_b : bits (FpsF.enc f op) 17 5 = f.b :=
  (bits_cast rfl _ _ _).trans <| (bits_skip _ _ 15 _).trans <| (bits_skip _ _ 10 _).trans <| (bits_skip _ _ 5 _).trans <| (bits_skip _ _ 0 _).trans <| bits_append_lo _ _

@[simp] theorem FpsF_enc_a : bits (FpsF.enc f op) 12 5 = f.a :=
  (bits_cast rfl _ _ _).trans <| (bits_skip _ _ 10 _).trans <| (bits_skip _ _ 5 _).trans <| (bits_skip _ _ 0 _).trans <| bits_append_lo _ _

@[simp] theorem FpsF_enc_d : bits (FpsF.enc f op) 7 5 = f.d :=
  (bits_cast rfl _ _ _).trans <| (bits_skip _ _ 5 _).trans <| (bits_skip _ _ 0 _).trans <| bits_append_lo _ _

@[simp] theorem FpsF_enc_maj : bits (FpsF.enc f op) 2 5 = 0x03#5 :=
  (bits_cast rfl _ _ _).trans <| (bits_skip _ _ 0 _).trans <| bits_append_lo _ _

end

/-! AmoF.enc -/

section

variable (f : AmoF) (op : BitVec 4)

theorem AmoF_enc_cast : AmoF.enc f op = BitVec.cast (by decide) (f.scope ++ f.width ++ f.order ++ op ++ f.b ++ f.a ++ f.d ++ 0x0D#5 ++ 1#2) := rfl

@[simp] theorem AmoF_enc_scope : bits (AmoF.enc f op) 29 3 = f.scope :=
  (bits_cast rfl _ _ _).trans <| (bits_skip _ _ 27 _).trans <| (bits_skip _ _ 22 _).trans <| (bits_skip _ _ 17 _).trans <| (bits_skip _ _ 12 _).trans <| (bits_skip _ _ 7 _).trans <| (bits_skip _ _ 3 _).trans <| (bits_skip _ _ 1 _).trans <| (bits_skip _ _ 0 _).trans <| bits_whole _

@[simp] theorem AmoF_enc_width : bits (AmoF.enc f op) 28 1 = f.width :=
  (bits_cast rfl _ _ _).trans <| (bits_skip _ _ 26 _).trans <| (bits_skip _ _ 21 _).trans <| (bits_skip _ _ 16 _).trans <| (bits_skip _ _ 11 _).trans <| (bits_skip _ _ 6 _).trans <| (bits_skip _ _ 2 _).trans <| (bits_skip _ _ 0 _).trans <| bits_append_lo _ _

@[simp] theorem AmoF_enc_order : bits (AmoF.enc f op) 26 2 = f.order :=
  (bits_cast rfl _ _ _).trans <| (bits_skip _ _ 24 _).trans <| (bits_skip _ _ 19 _).trans <| (bits_skip _ _ 14 _).trans <| (bits_skip _ _ 9 _).trans <| (bits_skip _ _ 4 _).trans <| (bits_skip _ _ 0 _).trans <| bits_append_lo _ _

@[simp] theorem AmoF_enc_op : bits (AmoF.enc f op) 22 4 = op :=
  (bits_cast rfl _ _ _).trans <| (bits_skip _ _ 20 _).trans <| (bits_skip _ _ 15 _).trans <| (bits_skip _ _ 10 _).trans <| (bits_skip _ _ 5 _).trans <| (bits_skip _ _ 0 _).trans <| bits_append_lo _ _

@[simp] theorem AmoF_enc_b : bits (AmoF.enc f op) 17 5 = f.b :=
  (bits_cast rfl _ _ _).trans <| (bits_skip _ _ 15 _).trans <| (bits_skip _ _ 10 _).trans <| (bits_skip _ _ 5 _).trans <| (bits_skip _ _ 0 _).trans <| bits_append_lo _ _

@[simp] theorem AmoF_enc_a : bits (AmoF.enc f op) 12 5 = f.a :=
  (bits_cast rfl _ _ _).trans <| (bits_skip _ _ 10 _).trans <| (bits_skip _ _ 5 _).trans <| (bits_skip _ _ 0 _).trans <| bits_append_lo _ _

@[simp] theorem AmoF_enc_d : bits (AmoF.enc f op) 7 5 = f.d :=
  (bits_cast rfl _ _ _).trans <| (bits_skip _ _ 5 _).trans <| (bits_skip _ _ 0 _).trans <| bits_append_lo _ _

@[simp] theorem AmoF_enc_maj : bits (AmoF.enc f op) 2 5 = 0x0D#5 :=
  (bits_cast rfl _ _ _).trans <| (bits_skip _ _ 0 _).trans <| bits_append_lo _ _

end

/-! encI -/

section

variable (imm : BitVec 15) (a d maj : BitVec 5)

theorem encI_cast : encI imm a d maj = BitVec.cast (by decide) (imm ++ a ++ d ++ maj ++ 1#2) := rfl

@[simp] theorem encI_imm : bits (encI imm a d maj) 17 15 = imm :=
  (bits_cast rfl _ _ _).trans <| (bits_skip _ _ 15 _).trans <| (bits_skip _ _ 10 _).trans <| (bits_skip _ _ 5 _).trans <| (bits_skip _ _ 0 _).trans <| bits_whole _

@[simp] theorem encI_a : bits (encI imm a d maj) 12 5 = a :=
  (bits_cast rfl _ _ _).trans <| (bits_skip _ _ 10 _).trans <| (bits_skip _ _ 5 _).trans <| (bits_skip _ _ 0 _).trans <| bits_append_lo _ _

@[simp] theorem encI_d : bits (encI imm a d maj) 7 5 = d :=
  (bits_cast rfl _ _ _).trans <| (bits_skip _ _ 5 _).trans <| (bits_skip _ _ 0 _).trans <| bits_append_lo _ _

@[simp] theorem encI_maj : bits (encI imm a d maj) 2 5 = maj :=
  (bits_cast rfl _ _ _).trans <| (bits_skip _ _ 0 _).trans <| bits_append_lo _ _

end

/-! encI3 -/

section

variable (sub : BitVec 3) (imm : BitVec 12) (a d maj : BitVec 5)

theorem encI3_cast : encI3 sub imm a d maj = BitVec.cast (by decide) (sub ++ imm ++ a ++ d ++ maj ++ 1#2) := rfl

@[simp] theorem encI3_sub : bits (encI3 sub imm a d maj) 29 3 = sub :=
  (bits_cast rfl _ _ _).trans <| (bits_skip _ _ 27 _).trans <| (bits_skip _ _ 22 _).trans <| (bits_skip _ _ 17 _).trans <| (bits_skip _ _ 12 _).trans <| (bits_skip _ _ 0 _).trans <| bits_whole _

@[simp] theorem encI3_imm : bits (encI3 sub imm a d maj) 17 12 = imm :=
  (bits_cast rfl _ _ _).trans <| (bits_skip _ _ 15 _).trans <| (bits_skip _ _ 10 _).trans <| (bits_skip _ _ 5 _).trans <| (bits_skip _ _ 0 _).trans <| bits_append_lo _ _

@[simp] theorem encI3_a : bits (encI3 sub imm a d maj) 12 5 = a :=
  (bits_cast rfl _ _ _).trans <| (bits_skip _ _ 10 _).trans <| (bits_skip _ _ 5 _).trans <| (bits_skip _ _ 0 _).trans <| bits_append_lo _ _

@[simp] theorem encI3_d : bits (encI3 sub imm a d maj) 7 5 = d :=
  (bits_cast rfl _ _ _).trans <| (bits_skip _ _ 5 _).trans <| (bits_skip _ _ 0 _).trans <| bits_append_lo _ _

@[simp] theorem encI3_maj : bits (encI3 sub imm a d maj) 2 5 = maj :=
  (bits_cast rfl _ _ _).trans <| (bits_skip _ _ 0 _).trans <| bits_append_lo _ _

end

/-! encSys -/

section

variable (fn : BitVec 5) (csr : BitVec 10) (a d : BitVec 5)

theorem encSys_cast : encSys fn csr a d = BitVec.cast (by decide) (fn ++ csr ++ a ++ d ++ 0x0F#5 ++ 1#2) := rfl

@[simp] theorem encSys_fn : bits (encSys fn csr a d) 27 5 = fn :=
  (bits_cast rfl _ _ _).trans <| (bits_skip _ _ 25 _).trans <| (bits_skip _ _ 20 _).trans <| (bits_skip _ _ 15 _).trans <| (bits_skip _ _ 10 _).trans <| (bits_skip _ _ 0 _).trans <| bits_whole _

@[simp] theorem encSys_csr : bits (encSys fn csr a d) 17 10 = csr :=
  (bits_cast rfl _ _ _).trans <| (bits_skip _ _ 15 _).trans <| (bits_skip _ _ 10 _).trans <| (bits_skip _ _ 5 _).trans <| (bits_skip _ _ 0 _).trans <| bits_append_lo _ _

@[simp] theorem encSys_a : bits (encSys fn csr a d) 12 5 = a :=
  (bits_cast rfl _ _ _).trans <| (bits_skip _ _ 10 _).trans <| (bits_skip _ _ 5 _).trans <| (bits_skip _ _ 0 _).trans <| bits_append_lo _ _

@[simp] theorem encSys_d : bits (encSys fn csr a d) 7 5 = d :=
  (bits_cast rfl _ _ _).trans <| (bits_skip _ _ 5 _).trans <| (bits_skip _ _ 0 _).trans <| bits_append_lo _ _

@[simp] theorem encSys_maj : bits (encSys fn csr a d) 2 5 = 0x0F#5 :=
  (bits_cast rfl _ _ _).trans <| (bits_skip _ _ 0 _).trans <| bits_append_lo _ _

end

/-! encB -/

section

variable (imm : BitVec 12) (b a : BitVec 5) (cond : BitVec 3)

theorem encB_cast : encB imm b a cond = BitVec.cast (by decide) (imm ++ b ++ a ++ cond ++ 0x0A#5 ++ 1#2) := rfl

@[simp] theorem encB_imm : bits (encB imm b a cond) 20 12 = imm :=
  (bits_cast rfl _ _ _).trans <| (bits_skip _ _ 18 _).trans <| (bits_skip _ _ 13 _).trans <| (bits_skip _ _ 10 _).trans <| (bits_skip _ _ 5 _).trans <| (bits_skip _ _ 0 _).trans <| bits_whole _

@[simp] theorem encB_b : bits (encB imm b a cond) 15 5 = b :=
  (bits_cast rfl _ _ _).trans <| (bits_skip _ _ 13 _).trans <| (bits_skip _ _ 8 _).trans <| (bits_skip _ _ 5 _).trans <| (bits_skip _ _ 0 _).trans <| bits_append_lo _ _

@[simp] theorem encB_a : bits (encB imm b a cond) 10 5 = a :=
  (bits_cast rfl _ _ _).trans <| (bits_skip _ _ 8 _).trans <| (bits_skip _ _ 3 _).trans <| (bits_skip _ _ 0 _).trans <| bits_append_lo _ _

@[simp] theorem encB_cond : bits (encB imm b a cond) 7 3 = cond :=
  (bits_cast rfl _ _ _).trans <| (bits_skip _ _ 5 _).trans <| (bits_skip _ _ 0 _).trans <| bits_append_lo _ _

@[simp] theorem encB_maj : bits (encB imm b a cond) 2 5 = 0x0A#5 :=
  (bits_cast rfl _ _ _).trans <| (bits_skip _ _ 0 _).trans <| bits_append_lo _ _

end

/-! encU -/

section

variable (imm : BitVec 20) (d maj : BitVec 5)

theorem encU_cast : encU imm d maj = BitVec.cast (by decide) (imm ++ d ++ maj ++ 1#2) := rfl

@[simp] theorem encU_imm : bits (encU imm d maj) 12 20 = imm :=
  (bits_cast rfl _ _ _).trans <| (bits_skip _ _ 10 _).trans <| (bits_skip _ _ 5 _).trans <| (bits_skip _ _ 0 _).trans <| bits_whole _

@[simp] theorem encU_d : bits (encU imm d maj) 7 5 = d :=
  (bits_cast rfl _ _ _).trans <| (bits_skip _ _ 5 _).trans <| (bits_skip _ _ 0 _).trans <| bits_append_lo _ _

@[simp] theorem encU_maj : bits (encU imm d maj) 2 5 = maj :=
  (bits_cast rfl _ _ _).trans <| (bits_skip _ _ 0 _).trans <| bits_append_lo _ _

end

/-! encE -/

section

variable (fn c b a d maj : BitVec 5)

theorem encE_cast : encE fn c b a d maj = BitVec.cast (by decide) (fn ++ c ++ b ++ a ++ d ++ maj ++ 1#2) := rfl

@[simp] theorem encE_fn : bits (encE fn c b a d maj) 27 5 = fn :=
  (bits_cast rfl _ _ _).trans <| (bits_skip _ _ 25 _).trans <| (bits_skip _ _ 20 _).trans <| (bits_skip _ _ 15 _).trans <| (bits_skip _ _ 10 _).trans <| (bits_skip _ _ 5 _).trans <| (bits_skip _ _ 0 _).trans <| bits_whole _

@[simp] theorem encE_c : bits (encE fn c b a d maj) 22 5 = c :=
  (bits_cast rfl _ _ _).trans <| (bits_skip _ _ 20 _).trans <| (bits_skip _ _ 15 _).trans <| (bits_skip _ _ 10 _).trans <| (bits_skip _ _ 5 _).trans <| (bits_skip _ _ 0 _).trans <| bits_append_lo _ _

@[simp] theorem encE_b : bits (encE fn c b a d maj) 17 5 = b :=
  (bits_cast rfl _ _ _).trans <| (bits_skip _ _ 15 _).trans <| (bits_skip _ _ 10 _).trans <| (bits_skip _ _ 5 _).trans <| (bits_skip _ _ 0 _).trans <| bits_append_lo _ _

@[simp] theorem encE_a : bits (encE fn c b a d maj) 12 5 = a :=
  (bits_cast rfl _ _ _).trans <| (bits_skip _ _ 10 _).trans <| (bits_skip _ _ 5 _).trans <| (bits_skip _ _ 0 _).trans <| bits_append_lo _ _

@[simp] theorem encE_d : bits (encE fn c b a d maj) 7 5 = d :=
  (bits_cast rfl _ _ _).trans <| (bits_skip _ _ 5 _).trans <| (bits_skip _ _ 0 _).trans <| bits_append_lo _ _

@[simp] theorem encE_maj : bits (encE fn c b a d maj) 2 5 = maj :=
  (bits_cast rfl _ _ _).trans <| (bits_skip _ _ 0 _).trans <| bits_append_lo _ _

end

/-! encV -/

section

variable (ws2 ws1 wd : BitVec 3) (km : BitVec 5) (form : BitVec 2) (ty : BitVec 4) (fn maj : BitVec 5)

theorem encV_cast : encV ws2 ws1 wd km form ty fn maj = BitVec.cast (by decide) (ws2 ++ ws1 ++ wd ++ km ++ form ++ ty ++ fn ++ maj ++ 1#2) := rfl

@[simp] theorem encV_ws2 : bits (encV ws2 ws1 wd km form ty fn maj) 29 3 = ws2 :=
  (bits_cast rfl _ _ _).trans <| (bits_skip _ _ 27 _).trans <| (bits_skip _ _ 22 _).trans <| (bits_skip _ _ 17 _).trans <| (bits_skip _ _ 13 _).trans <| (bits_skip _ _ 11 _).trans <| (bits_skip _ _ 6 _).trans <| (bits_skip _ _ 3 _).trans <| (bits_skip _ _ 0 _).trans <| bits_whole _

@[simp] theorem encV_ws1 : bits (encV ws2 ws1 wd km form ty fn maj) 26 3 = ws1 :=
  (bits_cast rfl _ _ _).trans <| (bits_skip _ _ 24 _).trans <| (bits_skip _ _ 19 _).trans <| (bits_skip _ _ 14 _).trans <| (bits_skip _ _ 10 _).trans <| (bits_skip _ _ 8 _).trans <| (bits_skip _ _ 3 _).trans <| (bits_skip _ _ 0 _).trans <| bits_append_lo _ _

@[simp] theorem encV_wd : bits (encV ws2 ws1 wd km form ty fn maj) 23 3 = wd :=
  (bits_cast rfl _ _ _).trans <| (bits_skip _ _ 21 _).trans <| (bits_skip _ _ 16 _).trans <| (bits_skip _ _ 11 _).trans <| (bits_skip _ _ 7 _).trans <| (bits_skip _ _ 5 _).trans <| (bits_skip _ _ 0 _).trans <| bits_append_lo _ _

@[simp] theorem encV_km : bits (encV ws2 ws1 wd km form ty fn maj) 18 5 = km :=
  (bits_cast rfl _ _ _).trans <| (bits_skip _ _ 16 _).trans <| (bits_skip _ _ 11 _).trans <| (bits_skip _ _ 6 _).trans <| (bits_skip _ _ 2 _).trans <| (bits_skip _ _ 0 _).trans <| bits_append_lo _ _

@[simp] theorem encV_form : bits (encV ws2 ws1 wd km form ty fn maj) 16 2 = form :=
  (bits_cast rfl _ _ _).trans <| (bits_skip _ _ 14 _).trans <| (bits_skip _ _ 9 _).trans <| (bits_skip _ _ 4 _).trans <| (bits_skip _ _ 0 _).trans <| bits_append_lo _ _

@[simp] theorem encV_ty : bits (encV ws2 ws1 wd km form ty fn maj) 12 4 = ty :=
  (bits_cast rfl _ _ _).trans <| (bits_skip _ _ 10 _).trans <| (bits_skip _ _ 5 _).trans <| (bits_skip _ _ 0 _).trans <| bits_append_lo _ _

@[simp] theorem encV_fn : bits (encV ws2 ws1 wd km form ty fn maj) 7 5 = fn :=
  (bits_cast rfl _ _ _).trans <| (bits_skip _ _ 5 _).trans <| (bits_skip _ _ 0 _).trans <| bits_append_lo _ _

@[simp] theorem encV_maj : bits (encV ws2 ws1 wd km form ty fn maj) 2 5 = maj :=
  (bits_cast rfl _ _ _).trans <| (bits_skip _ _ 0 _).trans <| bits_append_lo _ _

end

/-! encH -/

section

variable (imm : BitVec 7) (r : BitVec 5) (op : BitVec 3)

theorem encH_cast : encH imm r op = BitVec.cast (by decide) (imm ++ r ++ op ++ 0#1) := rfl

@[simp] theorem encH_imm : bits (encH imm r op) 9 7 = imm :=
  (bits_cast rfl _ _ _).trans <| (bits_skip _ _ 8 _).trans <| (bits_skip _ _ 5 _).trans <| (bits_skip _ _ 0 _).trans <| bits_whole _

@[simp] theorem encH_r : bits (encH imm r op) 4 5 = r :=
  (bits_cast rfl _ _ _).trans <| (bits_skip _ _ 3 _).trans <| (bits_skip _ _ 0 _).trans <| bits_append_lo _ _

@[simp] theorem encH_op : bits (encH imm r op) 1 3 = op :=
  (bits_cast rfl _ _ _).trans <| (bits_skip _ _ 0 _).trans <| bits_append_lo _ _

end

/-! encHJ -/

section

variable (imm : BitVec 12)

theorem encHJ_cast : encHJ imm = BitVec.cast (by decide) (imm ++ 6#3 ++ 0#1) := rfl

@[simp] theorem encHJ_imm : bits (encHJ imm) 4 12 = imm :=
  (bits_cast rfl _ _ _).trans <| (bits_skip _ _ 3 _).trans <| (bits_skip _ _ 0 _).trans <| bits_whole _

@[simp] theorem encHJ_maj : bits (encHJ imm) 1 3 = 6#3 :=
  (bits_cast rfl _ _ _).trans <| (bits_skip _ _ 0 _).trans <| bits_append_lo _ _

end

/-! encWrd -/

section

variable (w : Win) (d : Reg)

theorem encWrd_cast : encWrd w d = BitVec.cast (by decide) (0#27 ++ d ++ 0#21 ++ w ++ 1#1 ++ 0x03#5 ++ 3#2) := rfl

@[simp] theorem encWrd_d : bits (encWrd w d) 32 5 = d :=
  (bits_cast rfl _ _ _).trans <| (bits_skip _ _ 30 _).trans <| (bits_skip _ _ 25 _).trans <| (bits_skip _ _ 24 _).trans <| (bits_skip _ _ 21 _).trans <| (bits_skip _ _ 0 _).trans <| bits_append_lo _ _

@[simp] theorem encWrd_w : bits (encWrd w d) 8 3 = w :=
  (bits_cast rfl _ _ _).trans <| (bits_skip _ _ 6 _).trans <| (bits_skip _ _ 1 _).trans <| (bits_skip _ _ 0 _).trans <| bits_append_lo _ _

@[simp] theorem encWrd_sel : bits (encWrd w d) 7 1 = 1#1 :=
  (bits_cast rfl _ _ _).trans <| (bits_skip _ _ 5 _).trans <| (bits_skip _ _ 0 _).trans <| bits_append_lo _ _

@[simp] theorem encWrd_maj : bits (encWrd w d) 2 5 = 0x03#5 :=
  (bits_cast rfl _ _ _).trans <| (bits_skip _ _ 0 _).trans <| bits_append_lo _ _

end

/-! encOfill -/

section

variable (w : Win) (km : KField) (ty : BitVec 4) (v : BitVec 32)

theorem encOfill_cast : encOfill w km ty v = BitVec.cast (by decide) (v ++ 0#12 ++ ty ++ km ++ w ++ 0#1 ++ 0x02#5 ++ 3#2) := rfl

@[simp] theorem encOfill_v : bits (encOfill w km ty v) 32 32 = v :=
  (bits_cast rfl _ _ _).trans <| (bits_skip _ _ 30 _).trans <| (bits_skip _ _ 25 _).trans <| (bits_skip _ _ 24 _).trans <| (bits_skip _ _ 21 _).trans <| (bits_skip _ _ 16 _).trans <| (bits_skip _ _ 12 _).trans <| (bits_skip _ _ 0 _).trans <| bits_whole _

@[simp] theorem encOfill_ty : bits (encOfill w km ty v) 16 4 = ty :=
  (bits_cast rfl _ _ _).trans <| (bits_skip _ _ 14 _).trans <| (bits_skip _ _ 9 _).trans <| (bits_skip _ _ 8 _).trans <| (bits_skip _ _ 5 _).trans <| (bits_skip _ _ 0 _).trans <| bits_append_lo _ _

@[simp] theorem encOfill_km : bits (encOfill w km ty v) 11 5 = km :=
  (bits_cast rfl _ _ _).trans <| (bits_skip _ _ 9 _).trans <| (bits_skip _ _ 4 _).trans <| (bits_skip _ _ 3 _).trans <| (bits_skip _ _ 0 _).trans <| bits_append_lo _ _

@[simp] theorem encOfill_w : bits (encOfill w km ty v) 8 3 = w :=
  (bits_cast rfl _ _ _).trans <| (bits_skip _ _ 6 _).trans <| (bits_skip _ _ 1 _).trans <| (bits_skip _ _ 0 _).trans <| bits_append_lo _ _

@[simp] theorem encOfill_sel : bits (encOfill w km ty v) 7 1 = 0#1 :=
  (bits_cast rfl _ _ _).trans <| (bits_skip _ _ 5 _).trans <| (bits_skip _ _ 0 _).trans <| bits_append_lo _ _

@[simp] theorem encOfill_maj : bits (encOfill w km ty v) 2 5 = 0x02#5 :=
  (bits_cast rfl _ _ _).trans <| (bits_skip _ _ 0 _).trans <| bits_append_lo _ _

end

/-! OaccF.enc -/

section

variable (f : OaccF)

theorem OaccF_enc_cast : OaccF.enc f = BitVec.cast (by decide) (f.clear ++ f.bIdx ++ f.cols ++ f.corg ++ f.rows ++ f.rorg ++ f.steps ++ f.aIdx ++ 0#3 ++ f.bSrc ++ f.aSrc ++ f.bFmt ++ f.aFmt ++ f.half ++ 0x01#5 ++ 3#2) := rfl

@[simp] theorem OaccF_enc_clear : bits (OaccF.enc f) 63 1 = f.clear :=
  (bits_cast rfl _ _ _).trans <| (bits_skip _ _ 61 _).trans <| (bits_skip _ _ 56 _).trans <| (bits_skip _ _ 55 _).trans <| (bits_skip _ _ 50 _).trans <| (bits_skip _ _ 45 _).trans <| (bits_skip _ _ 43 _).trans <| (bits_skip _ _ 41 _).trans <| (bits_skip _ _ 38 _).trans <| (bits_skip _ _ 31 _).trans <| (bits_skip _ _ 23 _).trans <| (bits_skip _ _ 19 _).trans <| (bits_skip _ _ 15 _).trans <| (bits_skip _ _ 11 _).trans <| (bits_skip _ _ 7 _).trans <| (bits_skip _ _ 0 _).trans <| bits_whole _

@[simp] theorem OaccF_enc_bIdx : bits (OaccF.enc f) 56 7 = f.bIdx :=
  (bits_cast rfl _ _ _).trans <| (bits_skip _ _ 54 _).trans <| (bits_skip _ _ 49 _).trans <| (bits_skip _ _ 48 _).trans <| (bits_skip _ _ 43 _).trans <| (bits_skip _ _ 38 _).trans <| (bits_skip _ _ 36 _).trans <| (bits_skip _ _ 34 _).trans <| (bits_skip _ _ 31 _).trans <| (bits_skip _ _ 24 _).trans <| (bits_skip _ _ 16 _).trans <| (bits_skip _ _ 12 _).trans <| (bits_skip _ _ 8 _).trans <| (bits_skip _ _ 4 _).trans <| (bits_skip _ _ 0 _).trans <| bits_append_lo _ _

@[simp] theorem OaccF_enc_cols : bits (OaccF.enc f) 52 4 = f.cols :=
  (bits_cast rfl _ _ _).trans <| (bits_skip _ _ 50 _).trans <| (bits_skip _ _ 45 _).trans <| (bits_skip _ _ 44 _).trans <| (bits_skip _ _ 39 _).trans <| (bits_skip _ _ 34 _).trans <| (bits_skip _ _ 32 _).trans <| (bits_skip _ _ 30 _).trans <| (bits_skip _ _ 27 _).trans <| (bits_skip _ _ 20 _).trans <| (bits_skip _ _ 12 _).trans <| (bits_skip _ _ 8 _).trans <| (bits_skip _ _ 4 _).trans <| (bits_skip _ _ 0 _).trans <| bits_append_lo _ _

@[simp] theorem OaccF_enc_corg : bits (OaccF.enc f) 48 4 = f.corg :=
  (bits_cast rfl _ _ _).trans <| (bits_skip _ _ 46 _).trans <| (bits_skip _ _ 41 _).trans <| (bits_skip _ _ 40 _).trans <| (bits_skip _ _ 35 _).trans <| (bits_skip _ _ 30 _).trans <| (bits_skip _ _ 28 _).trans <| (bits_skip _ _ 26 _).trans <| (bits_skip _ _ 23 _).trans <| (bits_skip _ _ 16 _).trans <| (bits_skip _ _ 8 _).trans <| (bits_skip _ _ 4 _).trans <| (bits_skip _ _ 0 _).trans <| bits_append_lo _ _

@[simp] theorem OaccF_enc_rows : bits (OaccF.enc f) 44 4 = f.rows :=
  (bits_cast rfl _ _ _).trans <| (bits_skip _ _ 42 _).trans <| (bits_skip _ _ 37 _).trans <| (bits_skip _ _ 36 _).trans <| (bits_skip _ _ 31 _).trans <| (bits_skip _ _ 26 _).trans <| (bits_skip _ _ 24 _).trans <| (bits_skip _ _ 22 _).trans <| (bits_skip _ _ 19 _).trans <| (bits_skip _ _ 12 _).trans <| (bits_skip _ _ 4 _).trans <| (bits_skip _ _ 0 _).trans <| bits_append_lo _ _

@[simp] theorem OaccF_enc_rorg : bits (OaccF.enc f) 40 4 = f.rorg :=
  (bits_cast rfl _ _ _).trans <| (bits_skip _ _ 38 _).trans <| (bits_skip _ _ 33 _).trans <| (bits_skip _ _ 32 _).trans <| (bits_skip _ _ 27 _).trans <| (bits_skip _ _ 22 _).trans <| (bits_skip _ _ 20 _).trans <| (bits_skip _ _ 18 _).trans <| (bits_skip _ _ 15 _).trans <| (bits_skip _ _ 8 _).trans <| (bits_skip _ _ 0 _).trans <| bits_append_lo _ _

@[simp] theorem OaccF_enc_steps : bits (OaccF.enc f) 32 8 = f.steps :=
  (bits_cast rfl _ _ _).trans <| (bits_skip _ _ 30 _).trans <| (bits_skip _ _ 25 _).trans <| (bits_skip _ _ 24 _).trans <| (bits_skip _ _ 19 _).trans <| (bits_skip _ _ 14 _).trans <| (bits_skip _ _ 12 _).trans <| (bits_skip _ _ 10 _).trans <| (bits_skip _ _ 7 _).trans <| (bits_skip _ _ 0 _).trans <| bits_append_lo _ _

@[simp] theorem OaccF_enc_aIdx : bits (OaccF.enc f) 25 7 = f.aIdx :=
  (bits_cast rfl _ _ _).trans <| (bits_skip _ _ 23 _).trans <| (bits_skip _ _ 18 _).trans <| (bits_skip _ _ 17 _).trans <| (bits_skip _ _ 12 _).trans <| (bits_skip _ _ 7 _).trans <| (bits_skip _ _ 5 _).trans <| (bits_skip _ _ 3 _).trans <| (bits_skip _ _ 0 _).trans <| bits_append_lo _ _

@[simp] theorem OaccF_enc_bSrc : bits (OaccF.enc f) 20 2 = f.bSrc :=
  (bits_cast rfl _ _ _).trans <| (bits_skip _ _ 18 _).trans <| (bits_skip _ _ 13 _).trans <| (bits_skip _ _ 12 _).trans <| (bits_skip _ _ 7 _).trans <| (bits_skip _ _ 2 _).trans <| (bits_skip _ _ 0 _).trans <| bits_append_lo _ _

@[simp] theorem OaccF_enc_aSrc : bits (OaccF.enc f) 18 2 = f.aSrc :=
  (bits_cast rfl _ _ _).trans <| (bits_skip _ _ 16 _).trans <| (bits_skip _ _ 11 _).trans <| (bits_skip _ _ 10 _).trans <| (bits_skip _ _ 5 _).trans <| (bits_skip _ _ 0 _).trans <| bits_append_lo _ _

@[simp] theorem OaccF_enc_bFmt : bits (OaccF.enc f) 13 5 = f.bFmt :=
  (bits_cast rfl _ _ _).trans <| (bits_skip _ _ 11 _).trans <| (bits_skip _ _ 6 _).trans <| (bits_skip _ _ 5 _).trans <| (bits_skip _ _ 0 _).trans <| bits_append_lo _ _

@[simp] theorem OaccF_enc_aFmt : bits (OaccF.enc f) 8 5 = f.aFmt :=
  (bits_cast rfl _ _ _).trans <| (bits_skip _ _ 6 _).trans <| (bits_skip _ _ 1 _).trans <| (bits_skip _ _ 0 _).trans <| bits_append_lo _ _

@[simp] theorem OaccF_enc_half : bits (OaccF.enc f) 7 1 = f.half :=
  (bits_cast rfl _ _ _).trans <| (bits_skip _ _ 5 _).trans <| (bits_skip _ _ 0 _).trans <| bits_append_lo _ _

@[simp] theorem OaccF_enc_maj : bits (OaccF.enc f) 2 5 = 0x01#5 :=
  (bits_cast rfl _ _ _).trans <| (bits_skip _ _ 0 _).trans <| bits_append_lo _ _

end

/-! WsetF.enc -/

section

variable (f : WsetF)

theorem WsetF_enc_cast : WsetF.enc f = BitVec.cast (by decide) (0#27 ++ f.xo ++ f.stride ++ f.cntm1 ++ f.origin ++ f.mode ++ f.half ++ f.w ++ 0#1 ++ 0x03#5 ++ 3#2) := rfl

@[simp] theorem WsetF_enc_xo : bits (WsetF.enc f) 32 5 = f.xo :=
  (bits_cast rfl _ _ _).trans <| (bits_skip _ _ 30 _).trans <| (bits_skip _ _ 25 _).trans <| (bits_skip _ _ 24 _).trans <| (bits_skip _ _ 21 _).trans <| (bits_skip _ _ 20 _).trans <| (bits_skip _ _ 18 _).trans <| (bits_skip _ _ 11 _).trans <| (bits_skip _ _ 4 _).trans <| (bits_skip _ _ 0 _).trans <| bits_append_lo _ _

@[simp] theorem WsetF_enc_stride : bits (WsetF.enc f) 28 4 = f.stride :=
  (bits_cast rfl _ _ _).trans <| (bits_skip _ _ 26 _).trans <| (bits_skip _ _ 21 _).trans <| (bits_skip _ _ 20 _).trans <| (bits_skip _ _ 17 _).trans <| (bits_skip _ _ 16 _).trans <| (bits_skip _ _ 14 _).trans <| (bits_skip _ _ 7 _).trans <| (bits_skip _ _ 0 _).trans <| bits_append_lo _ _

@[simp] theorem WsetF_enc_cntm1 : bits (WsetF.enc f) 21 7 = f.cntm1 :=
  (bits_cast rfl _ _ _).trans <| (bits_skip _ _ 19 _).trans <| (bits_skip _ _ 14 _).trans <| (bits_skip _ _ 13 _).trans <| (bits_skip _ _ 10 _).trans <| (bits_skip _ _ 9 _).trans <| (bits_skip _ _ 7 _).trans <| (bits_skip _ _ 0 _).trans <| bits_append_lo _ _

@[simp] theorem WsetF_enc_origin : bits (WsetF.enc f) 14 7 = f.origin :=
  (bits_cast rfl _ _ _).trans <| (bits_skip _ _ 12 _).trans <| (bits_skip _ _ 7 _).trans <| (bits_skip _ _ 6 _).trans <| (bits_skip _ _ 3 _).trans <| (bits_skip _ _ 2 _).trans <| (bits_skip _ _ 0 _).trans <| bits_append_lo _ _

@[simp] theorem WsetF_enc_mode : bits (WsetF.enc f) 12 2 = f.mode :=
  (bits_cast rfl _ _ _).trans <| (bits_skip _ _ 10 _).trans <| (bits_skip _ _ 5 _).trans <| (bits_skip _ _ 4 _).trans <| (bits_skip _ _ 1 _).trans <| (bits_skip _ _ 0 _).trans <| bits_append_lo _ _

@[simp] theorem WsetF_enc_half : bits (WsetF.enc f) 11 1 = f.half :=
  (bits_cast rfl _ _ _).trans <| (bits_skip _ _ 9 _).trans <| (bits_skip _ _ 4 _).trans <| (bits_skip _ _ 3 _).trans <| (bits_skip _ _ 0 _).trans <| bits_append_lo _ _

@[simp] theorem WsetF_enc_w : bits (WsetF.enc f) 8 3 = f.w :=
  (bits_cast rfl _ _ _).trans <| (bits_skip _ _ 6 _).trans <| (bits_skip _ _ 1 _).trans <| (bits_skip _ _ 0 _).trans <| bits_append_lo _ _

@[simp] theorem WsetF_enc_sel : bits (WsetF.enc f) 7 1 = 0#1 :=
  (bits_cast rfl _ _ _).trans <| (bits_skip _ _ 5 _).trans <| (bits_skip _ _ 0 _).trans <| bits_append_lo _ _

@[simp] theorem WsetF_enc_maj : bits (WsetF.enc f) 2 5 = 0x03#5 :=
  (bits_cast rfl _ _ _).trans <| (bits_skip _ _ 0 _).trans <| bits_append_lo _ _

end

/-! CopyF.enc -/

section

variable (f : CopyF) (sel : BitVec 1)

theorem CopyF_enc_cast : CopyF.enc f sel = BitVec.cast (by decide) (0#8 ++ f.cols ++ f.rows ++ f.dc ++ f.dr ++ f.sc ++ f.sr ++ 0#22 ++ f.sh ++ f.dh ++ sel ++ 0x04#5 ++ 3#2) := rfl

@[simp] theorem CopyF_enc_cols : bits (CopyF.enc f sel) 52 4 = f.cols :=
  (bits_cast rfl _ _ _).trans <| (bits_skip _ _ 50 _).trans <| (bits_skip _ _ 45 _).trans <| (bits_skip _ _ 44 _).trans <| (bits_skip _ _ 43 _).trans <| (bits_skip _ _ 42 _).trans <| (bits_skip _ _ 20 _).trans <| (bits_skip _ _ 16 _).trans <| (bits_skip _ _ 12 _).trans <| (bits_skip _ _ 8 _).trans <| (bits_skip _ _ 4 _).trans <| (bits_skip _ _ 0 _).trans <| bits_append_lo _ _

@[simp] theorem CopyF_enc_rows : bits (CopyF.enc f sel) 48 4 = f.rows :=
  (bits_cast rfl _ _ _).trans <| (bits_skip _ _ 46 _).trans <| (bits_skip _ _ 41 _).trans <| (bits_skip _ _ 40 _).trans <| (bits_skip _ _ 39 _).trans <| (bits_skip _ _ 38 _).trans <| (bits_skip _ _ 16 _).trans <| (bits_skip _ _ 12 _).trans <| (bits_skip _ _ 8 _).trans <| (bits_skip _ _ 4 _).trans <| (bits_skip _ _ 0 _).trans <| bits_append_lo _ _

@[simp] theorem CopyF_enc_dc : bits (CopyF.enc f sel) 44 4 = f.dc :=
  (bits_cast rfl _ _ _).trans <| (bits_skip _ _ 42 _).trans <| (bits_skip _ _ 37 _).trans <| (bits_skip _ _ 36 _).trans <| (bits_skip _ _ 35 _).trans <| (bits_skip _ _ 34 _).trans <| (bits_skip _ _ 12 _).trans <| (bits_skip _ _ 8 _).trans <| (bits_skip _ _ 4 _).trans <| (bits_skip _ _ 0 _).trans <| bits_append_lo _ _

@[simp] theorem CopyF_enc_dr : bits (CopyF.enc f sel) 40 4 = f.dr :=
  (bits_cast rfl _ _ _).trans <| (bits_skip _ _ 38 _).trans <| (bits_skip _ _ 33 _).trans <| (bits_skip _ _ 32 _).trans <| (bits_skip _ _ 31 _).trans <| (bits_skip _ _ 30 _).trans <| (bits_skip _ _ 8 _).trans <| (bits_skip _ _ 4 _).trans <| (bits_skip _ _ 0 _).trans <| bits_append_lo _ _

@[simp] theorem CopyF_enc_sc : bits (CopyF.enc f sel) 36 4 = f.sc :=
  (bits_cast rfl _ _ _).trans <| (bits_skip _ _ 34 _).trans <| (bits_skip _ _ 29 _).trans <| (bits_skip _ _ 28 _).trans <| (bits_skip _ _ 27 _).trans <| (bits_skip _ _ 26 _).trans <| (bits_skip _ _ 4 _).trans <| (bits_skip _ _ 0 _).trans <| bits_append_lo _ _

@[simp] theorem CopyF_enc_sr : bits (CopyF.enc f sel) 32 4 = f.sr :=
  (bits_cast rfl _ _ _).trans <| (bits_skip _ _ 30 _).trans <| (bits_skip _ _ 25 _).trans <| (bits_skip _ _ 24 _).trans <| (bits_skip _ _ 23 _).trans <| (bits_skip _ _ 22 _).trans <| (bits_skip _ _ 0 _).trans <| bits_append_lo _ _

@[simp] theorem CopyF_enc_sh : bits (CopyF.enc f sel) 9 1 = f.sh :=
  (bits_cast rfl _ _ _).trans <| (bits_skip _ _ 7 _).trans <| (bits_skip _ _ 2 _).trans <| (bits_skip _ _ 1 _).trans <| (bits_skip _ _ 0 _).trans <| bits_append_lo _ _

@[simp] theorem CopyF_enc_dh : bits (CopyF.enc f sel) 8 1 = f.dh :=
  (bits_cast rfl _ _ _).trans <| (bits_skip _ _ 6 _).trans <| (bits_skip _ _ 1 _).trans <| (bits_skip _ _ 0 _).trans <| bits_append_lo _ _

@[simp] theorem CopyF_enc_sel : bits (CopyF.enc f sel) 7 1 = sel :=
  (bits_cast rfl _ _ _).trans <| (bits_skip _ _ 5 _).trans <| (bits_skip _ _ 0 _).trans <| bits_append_lo _ _

@[simp] theorem CopyF_enc_maj : bits (CopyF.enc f sel) 2 5 = 0x04#5 :=
  (bits_cast rfl _ _ _).trans <| (bits_skip _ _ 0 _).trans <| bits_append_lo _ _

end

/-! GimF.enc -/

section

variable (f : GimF) (sel : BitVec 1)

theorem GimF_enc_cast : GimF.enc f sel = BitVec.cast (by decide) (0#32 ++ 0#3 ++ f.a ++ 0#1 ++ f.cntm1 ++ f.first ++ f.half ++ sel ++ 0x05#5 ++ 3#2) := rfl

@[simp] theorem GimF_enc_a : bits (GimF.enc f sel) 24 5 = f.a :=
  (bits_cast rfl _ _ _).trans <| (bits_skip _ _ 22 _).trans <| (bits_skip _ _ 17 _).trans <| (bits_skip _ _ 16 _).trans <| (bits_skip _ _ 15 _).trans <| (bits_skip _ _ 8 _).trans <| (bits_skip _ _ 1 _).trans <| (bits_skip _ _ 0 _).trans <| bits_append_lo _ _

@[simp] theorem GimF_enc_cntm1 : bits (GimF.enc f sel) 16 7 = f.cntm1 :=
  (bits_cast rfl _ _ _).trans <| (bits_skip _ _ 14 _).trans <| (bits_skip _ _ 9 _).trans <| (bits_skip _ _ 8 _).trans <| (bits_skip _ _ 7 _).trans <| (bits_skip _ _ 0 _).trans <| bits_append_lo _ _

@[simp] theorem GimF_enc_first : bits (GimF.enc f sel) 9 7 = f.first :=
  (bits_cast rfl _ _ _).trans <| (bits_skip _ _ 7 _).trans <| (bits_skip _ _ 2 _).trans <| (bits_skip _ _ 1 _).trans <| (bits_skip _ _ 0 _).trans <| bits_append_lo _ _

@[simp] theorem GimF_enc_half : bits (GimF.enc f sel) 8 1 = f.half :=
  (bits_cast rfl _ _ _).trans <| (bits_skip _ _ 6 _).trans <| (bits_skip _ _ 1 _).trans <| (bits_skip _ _ 0 _).trans <| bits_append_lo _ _

@[simp] theorem GimF_enc_sel : bits (GimF.enc f sel) 7 1 = sel :=
  (bits_cast rfl _ _ _).trans <| (bits_skip _ _ 5 _).trans <| (bits_skip _ _ 0 _).trans <| bits_append_lo _ _

@[simp] theorem GimF_enc_maj : bits (GimF.enc f sel) 2 5 = 0x05#5 :=
  (bits_cast rfl _ _ _).trans <| (bits_skip _ _ 0 _).trans <| bits_append_lo _ _

end

/-! Fields inside a field -/

@[simp] theorem bits_shamt (n : BitVec 6) : bits (k := 12) (0#6 ++ n) 0 6 = n := bits_append_lo _ _
@[simp] theorem bits_queue (q : BitVec 3) : bits (k := 10) (0#7 ++ q) 0 3 = q := bits_append_lo _ _
@[simp] theorem bits_size (s : BitVec 2) (w : BitVec 3) : bits (k := 5) (s ++ w) 3 2 = s := bits_append_hi _ _
@[simp] theorem bits_window (s : BitVec 2) (w : BitVec 3) : bits (k := 5) (s ++ w) 0 3 = w := bits_append_lo _ _
@[simp] theorem bits_awin (z : BitVec 3) (w : BitVec 2) : bits (k := 5) (z ++ w) 0 2 = w := bits_append_lo _ _
@[simp] theorem bits_awinOp (op w : BitVec 2) : bits (k := 5) (0#1 ++ op ++ w) 2 2 = op :=
  (bits_skip (0#1 ++ op) w 0 2).trans (bits_append_lo _ _)
@[simp] theorem bits_quant (e : BitVec 1) (q : BitVec 3) : bits (k := 5) (0#1 ++ e ++ q) 0 3 = q := bits_append_lo _ _
@[simp] theorem bits_feedback (e : BitVec 1) (q : BitVec 3) : bits (k := 5) (0#1 ++ e ++ q) 3 1 = e :=
  (bits_skip (0#1 ++ e) q 0 1).trans (bits_append_lo _ _)
@[simp] theorem bits_source (a : BitVec 5) : bits (k := 7) (0#2 ++ a) 0 5 = a := bits_append_lo _ _

/-- A field of a field is a field of the word. -/
theorem bits_bits {k : Nat} (w : BitVec k) (a n lo m : Nat) (h : lo + m ≤ n) : bits (bits w a n) lo m = bits w (a + lo) m :=
  bits_eq _ _ _ fun i hi => by
    simp only [bits, BitVec.getLsbD_extractLsb', hi, show lo + i < n by omega, decide_true, Bool.true_and, Nat.add_assoc]

@[simp] theorem encI3_scope (sub x : BitVec 3) (a d maj : BitVec 5) : bits (encI3 sub (x ++ 0#9) a d maj) 26 3 = x := by
  rw [← bits_bits _ 17 12 9 3 (by decide), encI3_imm]
  exact bits_append_hi x 0#9

theorem encH_low (a r : BitVec 5) (op : BitVec 3) : bits (encH (0#2 ++ a) r op) 9 5 = a := by
  rw [← bits_bits _ 9 7 0 5 (by decide), encH_imm]
  exact bits_append_lo 0#2 a

end Sys2Proof
end

