-- ==== Sys2Proof/Laws/Length.lean ====
section
/-! SUPPORT. Sys2Proof/Laws/Length.lean: the length rule of R31 finds the code in the bytes that hold it. -/

namespace Sys2Proof

open Sys2Proof.Machine (leBytes fromLE leBytes_length fromLE_leBytes)

/-- The low bits of a code say its length (R31). -/
def Code.lengthBits : Code → Prop
  | .h x => x.getLsbD 0 = false
  | .w x => x.getLsbD 0 = true ∧ x.getLsbD 1 = false
  | .t x => x.getLsbD 0 = true ∧ x.getLsbD 1 = true

theorem leBytes_cons (n v : Nat) : leBytes (n + 1) v = BitVec.ofNat 8 v :: leBytes n (v / 256) := rfl

theorem lengthOf_ofNat {k : Nat} (w : BitVec k) :
    lengthOf (BitVec.ofNat 8 w.toNat) = if w.getLsbD 0 then (if w.getLsbD 1 then 8 else 4) else 2 := by
  have h (j : Nat) (hj : j < 8) : (BitVec.ofNat 8 w.toNat).getLsbD j = w.getLsbD j := by
    simp only [BitVec.getLsbD_ofNat, hj, decide_true, Bool.true_and]; rfl
  rw [lengthOf, h 0 (by decide), h 1 (by decide)]
  cases w.getLsbD 0 <;> cases w.getLsbD 1 <;> rfl

/-- A code's bytes, followed by any others, start with that code. -/
theorem codeOfBytes_bytes {c : Code} (h : c.lengthBits) (r : List Byte) : codeOfBytes (c.bytes ++ r) = some (c, r) := by
  have key {k n v : Nat} (w : BitVec k) (hv : v = w.toNat) (hn : lengthOf (BitVec.ofNat 8 v) = n + 1) :
      codeOfBytes (leBytes (n + 1) v ++ r) =
        (if n + 1 == 2 then some (.h (BitVec.ofNat 16 (v % 256 ^ (n + 1))), r)
         else if n + 1 == 4 then some (.w (BitVec.ofNat 32 (v % 256 ^ (n + 1))), r)
         else some (.t (BitVec.ofNat 64 (v % 256 ^ (n + 1))), r)) := by
    have hl := leBytes_length (n + 1) v
    have e : leBytes (n + 1) v ++ r = BitVec.ofNat 8 v :: (leBytes n (v / 256) ++ r) := rfl
    rw [e, codeOfBytes, ← e]
    simp only [hn, List.take_left' hl, List.drop_left' hl, fromLE_leBytes]
    rw [if_neg (by rw [List.length_append, hl]; omega)]
  cases c with
  | h w =>
    have := w.isLt
    rw [Code.bytes, key w rfl (by rw [lengthOf_ofNat, show w.getLsbD 0 = false from h]; rfl)]
    simp [Nat.mod_eq_of_lt this]
  | w w =>
    have := w.isLt
    rw [Code.bytes, key w rfl (by rw [lengthOf_ofNat, h.1, h.2]; rfl)]
    simp [Nat.mod_eq_of_lt this]
  | t w =>
    have := w.isLt
    rw [Code.bytes, key w rfl (by rw [lengthOf_ofNat, h.1, h.2]; rfl)]
    simp [Nat.mod_eq_of_lt this]

theorem low_append {n : Nat} (x : BitVec n) (y : BitVec 2) (j : Nat) (hj : j < 2) : (x ++ y).getLsbD j = y.getLsbD j := by
  simp [BitVec.getLsbD_append, hj]

theorem low16 (x : BitVec 15) : (Code.h (x ++ 0#1)).lengthBits := (BitVec.getLsbD_append (x := x) (y := 0#1)).trans rfl
theorem low32 (x : BitVec 30) : (Code.w (x ++ 1#2)).lengthBits := ⟨low_append x 1 0 (by decide), low_append x 1 1 (by decide)⟩
theorem low64 (x : BitVec 62) : (Code.t (x ++ 3#2)).lengthBits := ⟨low_append x 3 0 (by decide), low_append x 3 1 (by decide)⟩

end Sys2Proof
end

