-- ==== Sys2Proof/Laws/Sparse.lean ====
section
/-! SUPPORT. Sys2Proof/Laws/Sparse.lean: the laws of keyed lists: read after write, and the canonical form is kept. -/

namespace Sys2Proof.Machine

variable {α : Type}

theorem Sp.get_del_same (d : α) (m : Sp α) (k : Nat) : Sp.get d (Sp.del m k) k = d := by
  induction m with
  | nil => rfl
  | cons p r ih =>
    obtain ⟨j, v⟩ := p
    by_cases h : j = k <;> simp [Sp.del, Sp.get, h, ih]

theorem Sp.get_del_other (d : α) (m : Sp α) {k j : Nat} (h : j ≠ k) : Sp.get d (Sp.del m k) j = Sp.get d m j := by
  induction m with
  | nil => rfl
  | cons p r ih =>
    obtain ⟨i, v⟩ := p
    by_cases hi : i = k
    · subst hi; simp [Sp.del, Sp.get, ih, Ne.symm h]
    · by_cases hj : i = j
      · subst hj; simp [Sp.del, Sp.get, hi]
      · simp [Sp.del, Sp.get, hi, hj, ih]

theorem Sp.get_ins_other (d : α) (m : Sp α) {k j : Nat} (v : α) (h : j ≠ k) :
    Sp.get d (Sp.ins m k v) j = Sp.get d m j := by
  induction m with
  | nil => simp [Sp.ins, Sp.get, Ne.symm h]
  | cons p r ih =>
    obtain ⟨i, w⟩ := p
    by_cases hk : k < i
    · simp [Sp.ins, Sp.get, hk, Ne.symm h]
    · by_cases hj : i = j
      · subst hj; simp [Sp.ins, Sp.get, hk]
      · simp [Sp.ins, Sp.get, hk, hj, ih]

theorem Sp.get_ins_same (d : α) (m : Sp α) (k : Nat) (v : α) (h : ∀ p ∈ m, p.1 ≠ k) :
    Sp.get d (Sp.ins m k v) k = v := by
  induction m with
  | nil => simp [Sp.ins, Sp.get]
  | cons p r ih =>
    obtain ⟨i, w⟩ := p
    have hi : i ≠ k := h (i, w) (by simp)
    by_cases hk : k < i
    · simp [Sp.ins, Sp.get, hk]
    · simp [Sp.ins, Sp.get, hk, hi, ih (fun p hp => h p (by simp [hp]))]

theorem Sp.del_ne (m : Sp α) (k : Nat) : ∀ p ∈ Sp.del m k, p.1 ≠ k := by
  induction m with
  | nil => simp [Sp.del]
  | cons p r ih =>
    obtain ⟨i, w⟩ := p
    by_cases hi : i = k
    · simpa [Sp.del, hi] using ih
    · intro q hq
      simp only [Sp.del, if_neg hi, List.mem_cons] at hq
      rcases hq with rfl | hq
      · exact hi
      · exact ih q hq

/-- Reading a key just written gives the value written. -/
@[simp] theorem Sp.get_put_same [DecidableEq α] (d : α) (m : Sp α) (k : Nat) (v : α) :
    Sp.get d (Sp.put d m k v) k = v := by
  unfold Sp.put
  split
  · rename_i h; rw [Sp.get_del_same, h]
  · exact Sp.get_ins_same d _ k v (Sp.del_ne m k)

/-- A write leaves every other key alone. -/
@[simp] theorem Sp.get_put_other [DecidableEq α] (d : α) (m : Sp α) {k j : Nat} (v : α) (h : j ≠ k) :
    Sp.get d (Sp.put d m k v) j = Sp.get d m j := by
  unfold Sp.put
  split
  · exact Sp.get_del_other d m h
  · rw [Sp.get_ins_other d _ v h, Sp.get_del_other d m h]

theorem Sp.mem_del {m : Sp α} {k : Nat} {p : Nat × α} (h : p ∈ Sp.del m k) : p ∈ m := by
  induction m with
  | nil => simp [Sp.del] at h
  | cons q r ih =>
    obtain ⟨i, w⟩ := q
    by_cases hi : i = k
    · simp only [Sp.del, if_pos hi] at h; exact List.mem_cons_of_mem _ (ih h)
    · simp only [Sp.del, if_neg hi, List.mem_cons] at h
      rcases h with rfl | h
      · simp
      · exact List.mem_cons_of_mem _ (ih h)

theorem Sp.mem_ins {m : Sp α} {k : Nat} {v : α} {p : Nat × α} (h : p ∈ Sp.ins m k v) : p = (k, v) ∨ p ∈ m := by
  induction m with
  | nil => simpa [Sp.ins] using h
  | cons q r ih =>
    obtain ⟨i, w⟩ := q
    by_cases hi : k < i
    · simp only [Sp.ins, if_pos hi, List.mem_cons] at h
      rcases h with h | h | h <;> simp [h]
    · simp only [Sp.ins, if_neg hi, List.mem_cons] at h
      rcases h with h | h
      · simp [h]
      · rcases ih h with h | h <;> simp [h]

theorem Sp.above_iff (b : Nat) (m : Sp α) : Sp.above b m = true ↔ ∀ p ∈ m, b < p.1 := by
  simp [Sp.above, List.all_eq_true]

theorem Sp.rising_del {m : Sp α} (k : Nat) (h : Sp.rising m = true) : Sp.rising (Sp.del m k) = true := by
  induction m with
  | nil => rfl
  | cons q r ih =>
    obtain ⟨i, w⟩ := q
    simp only [Sp.rising, Bool.and_eq_true] at h
    by_cases hi : i = k
    · simp only [Sp.del, if_pos hi]; exact ih h.2
    · simp only [Sp.del, if_neg hi, Sp.rising, Bool.and_eq_true]
      refine ⟨?_, ih h.2⟩
      rw [Sp.above_iff] at *
      exact fun p hp => h.1 p (Sp.mem_del hp)

theorem Sp.rising_ins {m : Sp α} {k : Nat} {v : α} (h : Sp.rising m = true) (hk : ∀ p ∈ m, p.1 ≠ k) :
    Sp.rising (Sp.ins m k v) = true := by
  induction m with
  | nil => rfl
  | cons q r ih =>
    obtain ⟨i, w⟩ := q
    simp only [Sp.rising, Bool.and_eq_true] at h
    have hi : i ≠ k := hk (i, w) (by simp)
    by_cases hlt : k < i
    · simp only [Sp.ins, if_pos hlt, Sp.rising, Bool.and_eq_true]
      refine ⟨?_, h.1, h.2⟩
      rw [Sp.above_iff] at *
      intro p hp
      rcases List.mem_cons.1 hp with rfl | hp
      · exact hlt
      · have := h.1 p hp; omega
    · simp only [Sp.ins, if_neg hlt, Sp.rising, Bool.and_eq_true]
      refine ⟨?_, ih h.2 (fun p hp => hk p (by simp [hp]))⟩
      rw [Sp.above_iff] at *
      intro p hp
      rcases Sp.mem_ins hp with rfl | hp
      · simp only; omega
      · exact h.1 p hp

/-- Every write keeps the canonical form. -/
theorem Sp.wf_put [DecidableEq α] (d : α) (m : Sp α) (k : Nat) (v : α) (h : Sp.wf d m = true) :
    Sp.wf d (Sp.put d m k v) = true := by
  simp only [Sp.wf, Bool.and_eq_true, List.all_eq_true, decide_eq_true_eq] at *
  unfold Sp.put
  split
  · exact ⟨Sp.rising_del k h.1, fun p hp => h.2 p (Sp.mem_del hp)⟩
  · rename_i hv
    refine ⟨Sp.rising_ins (Sp.rising_del k h.1) (Sp.del_ne m k), fun p hp => ?_⟩
    rcases Sp.mem_ins hp with rfl | hp
    · exact hv
    · exact h.2 p (Sp.mem_del hp)

@[simp] theorem Sp.wf_nil [DecidableEq α] (d : α) : Sp.wf d ([] : Sp α) = true := rfl

end Sys2Proof.Machine
end

