-- ==== Sys2Proof/Laws/State.lean ====
section
/-! SUPPORT. Sys2Proof/Laws/State.lean: what each field of the state is after each elementary update, one lemma a field, so that
no proof unfolds a record update; and what a register write leaves of a core. -/

namespace Sys2Proof.Machine
namespace State

variable (s : State)

/-! `updCore` -/

@[simp] theorem updCore_core (f : Core → Core) : (s.updCore f).core = f s.core := rfl
@[simp] theorem updCore_cur (f : Core → Core) : (s.updCore f).cur = s.cur := rfl
@[simp] theorem updCore_others (f : Core → Core) : (s.updCore f).others = s.others := rfl
@[simp] theorem updCore_agenda (f : Core → Core) : (s.updCore f).agenda = s.agenda := rfl
@[simp] theorem updCore_lagLoads (f : Core → Core) : (s.updCore f).lagLoads = s.lagLoads := rfl
@[simp] theorem updCore_lagStores (f : Core → Core) : (s.updCore f).lagStores = s.lagStores := rfl
@[simp] theorem updCore_lagGrid (f : Core → Core) : (s.updCore f).lagGrid = s.lagGrid := rfl
@[simp] theorem updCore_lagEng (f : Core → Core) : (s.updCore f).lagEng = s.lagEng := rfl
@[simp] theorem updCore_upsets (f : Core → Core) : (s.updCore f).upsets = s.upsets := rfl
@[simp] theorem updCore_ticks (f : Core → Core) : (s.updCore f).ticks = s.ticks := rfl
@[simp] theorem updCore_free (f : Core → Core) : (s.updCore f).free = s.free := rfl
@[simp] theorem updCore_time (f : Core → Core) : (s.updCore f).time = s.time := rfl
@[simp] theorem updCore_devid (f : Core → Core) : (s.updCore f).devid = s.devid := rfl
@[simp] theorem updCore_mem (f : Core → Core) : (s.updCore f).mem = s.mem := rfl
@[simp] theorem updCore_poison (f : Core → Core) : (s.updCore f).poison = s.poison := rfl
@[simp] theorem updCore_seqtags (f : Core → Core) : (s.updCore f).seqtags = s.seqtags := rfl
@[simp] theorem updCore_tlb (f : Core → Core) : (s.updCore f).tlb = s.tlb := rfl
@[simp] theorem updCore_walks (f : Core → Core) : (s.updCore f).walks = s.walks := rfl
@[simp] theorem updCore_tasks (f : Core → Core) : (s.updCore f).tasks = s.tasks := rfl
@[simp] theorem updCore_tagtab (f : Core → Core) : (s.updCore f).tagtab = s.tagtab := rfl
@[simp] theorem updCore_rwaits (f : Core → Core) : (s.updCore f).rwaits = s.rwaits := rfl
@[simp] theorem updCore_cmds (f : Core → Core) : (s.updCore f).cmds = s.cmds := rfl
@[simp] theorem updCore_nextCmd (f : Core → Core) : (s.updCore f).nextCmd = s.nextCmd := rfl
@[simp] theorem updCore_notices (f : Core → Core) : (s.updCore f).notices = s.notices := rfl
@[simp] theorem updCore_rrXfer (f : Core → Core) : (s.updCore f).rrXfer = s.rrXfer := rfl
@[simp] theorem updCore_rrDec (f : Core → Core) : (s.updCore f).rrDec = s.rrDec := rfl
@[simp] theorem updCore_rrLoad (f : Core → Core) : (s.updCore f).rrLoad = s.rrLoad := rfl
@[simp] theorem updCore_rrLink (f : Core → Core) : (s.updCore f).rrLink = s.rrLink := rfl
@[simp] theorem updCore_parts (f : Core → Core) : (s.updCore f).parts = s.parts := rfl
@[simp] theorem updCore_deficit (f : Core → Core) : (s.updCore f).deficit = s.deficit := rfl
@[simp] theorem updCore_coreTime (f : Core → Core) : (s.updCore f).coreTime = s.coreTime := rfl
@[simp] theorem updCore_energy (f : Core → Core) : (s.updCore f).energy = s.energy := rfl
@[simp] theorem updCore_lastPart (f : Core → Core) : (s.updCore f).lastPart = s.lastPart := rfl
@[simp] theorem updCore_lastQue (f : Core → Core) : (s.updCore f).lastQue = s.lastQue := rfl
@[simp] theorem updCore_nextTask (f : Core → Core) : (s.updCore f).nextTask = s.nextTask := rfl
@[simp] theorem updCore_logGib (f : Core → Core) : (s.updCore f).logGib = s.logGib := rfl
@[simp] theorem updCore_undo (f : Core → Core) : (s.updCore f).undo = s.undo := rfl
@[simp] theorem updCore_held (f : Core → Core) : (s.updCore f).held = s.held := rfl
@[simp] theorem updCore_dom (f : Core → Core) : (s.updCore f).dom = s.dom := rfl
@[simp] theorem updCore_deadDies (f : Core → Core) : (s.updCore f).deadDies = s.deadDies := rfl
@[simp] theorem updCore_badUnits (f : Core → Core) : (s.updCore f).badUnits = s.badUnits := rfl
@[simp] theorem updCore_links (f : Core → Core) : (s.updCore f).links = s.links := rfl
@[simp] theorem updCore_routes (f : Core → Core) : (s.updCore f).routes = s.routes := rfl
@[simp] theorem updCore_devctl (f : Core → Core) : (s.updCore f).devctl = s.devctl := rfl
@[simp] theorem updCore_hdmBase (f : Core → Core) : (s.updCore f).hdmBase = s.hdmBase := rfl
@[simp] theorem updCore_boot (f : Core → Core) : (s.updCore f).boot = s.boot := rfl
@[simp] theorem updCore_spdm (f : Core → Core) : (s.updCore f).spdm = s.spdm := rfl
@[simp] theorem updCore_host (f : Core → Core) : (s.updCore f).host = s.host := rfl
@[simp] theorem updCore_net (f : Core → Core) : (s.updCore f).net = s.net := rfl

/-! `setReg` -/

@[simp] theorem setReg_core (r : Reg) (v : Word) : (s.setReg r v).core = s.core.setReg r.toNat v := rfl
@[simp] theorem setReg_cur (r : Reg) (v : Word) : (s.setReg r v).cur = s.cur := rfl
@[simp] theorem setReg_others (r : Reg) (v : Word) : (s.setReg r v).others = s.others := rfl
@[simp] theorem setReg_agenda (r : Reg) (v : Word) : (s.setReg r v).agenda = s.agenda := rfl
@[simp] theorem setReg_lagLoads (r : Reg) (v : Word) : (s.setReg r v).lagLoads = s.lagLoads := rfl
@[simp] theorem setReg_lagStores (r : Reg) (v : Word) : (s.setReg r v).lagStores = s.lagStores := rfl
@[simp] theorem setReg_lagGrid (r : Reg) (v : Word) : (s.setReg r v).lagGrid = s.lagGrid := rfl
@[simp] theorem setReg_lagEng (r : Reg) (v : Word) : (s.setReg r v).lagEng = s.lagEng := rfl
@[simp] theorem setReg_upsets (r : Reg) (v : Word) : (s.setReg r v).upsets = s.upsets := rfl
@[simp] theorem setReg_ticks (r : Reg) (v : Word) : (s.setReg r v).ticks = s.ticks := rfl
@[simp] theorem setReg_free (r : Reg) (v : Word) : (s.setReg r v).free = s.free := rfl
@[simp] theorem setReg_time (r : Reg) (v : Word) : (s.setReg r v).time = s.time := rfl
@[simp] theorem setReg_devid (r : Reg) (v : Word) : (s.setReg r v).devid = s.devid := rfl
@[simp] theorem setReg_mem (r : Reg) (v : Word) : (s.setReg r v).mem = s.mem := rfl
@[simp] theorem setReg_poison (r : Reg) (v : Word) : (s.setReg r v).poison = s.poison := rfl
@[simp] theorem setReg_seqtags (r : Reg) (v : Word) : (s.setReg r v).seqtags = s.seqtags := rfl
@[simp] theorem setReg_tlb (r : Reg) (v : Word) : (s.setReg r v).tlb = s.tlb := rfl
@[simp] theorem setReg_walks (r : Reg) (v : Word) : (s.setReg r v).walks = s.walks := rfl
@[simp] theorem setReg_tasks (r : Reg) (v : Word) : (s.setReg r v).tasks = s.tasks := rfl
@[simp] theorem setReg_tagtab (r : Reg) (v : Word) : (s.setReg r v).tagtab = s.tagtab := rfl
@[simp] theorem setReg_rwaits (r : Reg) (v : Word) : (s.setReg r v).rwaits = s.rwaits := rfl
@[simp] theorem setReg_cmds (r : Reg) (v : Word) : (s.setReg r v).cmds = s.cmds := rfl
@[simp] theorem setReg_nextCmd (r : Reg) (v : Word) : (s.setReg r v).nextCmd = s.nextCmd := rfl
@[simp] theorem setReg_notices (r : Reg) (v : Word) : (s.setReg r v).notices = s.notices := rfl
@[simp] theorem setReg_rrXfer (r : Reg) (v : Word) : (s.setReg r v).rrXfer = s.rrXfer := rfl
@[simp] theorem setReg_rrDec (r : Reg) (v : Word) : (s.setReg r v).rrDec = s.rrDec := rfl
@[simp] theorem setReg_rrLoad (r : Reg) (v : Word) : (s.setReg r v).rrLoad = s.rrLoad := rfl
@[simp] theorem setReg_rrLink (r : Reg) (v : Word) : (s.setReg r v).rrLink = s.rrLink := rfl
@[simp] theorem setReg_parts (r : Reg) (v : Word) : (s.setReg r v).parts = s.parts := rfl
@[simp] theorem setReg_deficit (r : Reg) (v : Word) : (s.setReg r v).deficit = s.deficit := rfl
@[simp] theorem setReg_coreTime (r : Reg) (v : Word) : (s.setReg r v).coreTime = s.coreTime := rfl
@[simp] theorem setReg_energy (r : Reg) (v : Word) : (s.setReg r v).energy = s.energy := rfl
@[simp] theorem setReg_lastPart (r : Reg) (v : Word) : (s.setReg r v).lastPart = s.lastPart := rfl
@[simp] theorem setReg_lastQue (r : Reg) (v : Word) : (s.setReg r v).lastQue = s.lastQue := rfl
@[simp] theorem setReg_nextTask (r : Reg) (v : Word) : (s.setReg r v).nextTask = s.nextTask := rfl
@[simp] theorem setReg_logGib (r : Reg) (v : Word) : (s.setReg r v).logGib = s.logGib := rfl
@[simp] theorem setReg_undo (r : Reg) (v : Word) : (s.setReg r v).undo = s.undo := rfl
@[simp] theorem setReg_held (r : Reg) (v : Word) : (s.setReg r v).held = s.held := rfl
@[simp] theorem setReg_dom (r : Reg) (v : Word) : (s.setReg r v).dom = s.dom := rfl
@[simp] theorem setReg_deadDies (r : Reg) (v : Word) : (s.setReg r v).deadDies = s.deadDies := rfl
@[simp] theorem setReg_badUnits (r : Reg) (v : Word) : (s.setReg r v).badUnits = s.badUnits := rfl
@[simp] theorem setReg_links (r : Reg) (v : Word) : (s.setReg r v).links = s.links := rfl
@[simp] theorem setReg_routes (r : Reg) (v : Word) : (s.setReg r v).routes = s.routes := rfl
@[simp] theorem setReg_devctl (r : Reg) (v : Word) : (s.setReg r v).devctl = s.devctl := rfl
@[simp] theorem setReg_hdmBase (r : Reg) (v : Word) : (s.setReg r v).hdmBase = s.hdmBase := rfl
@[simp] theorem setReg_boot (r : Reg) (v : Word) : (s.setReg r v).boot = s.boot := rfl
@[simp] theorem setReg_spdm (r : Reg) (v : Word) : (s.setReg r v).spdm = s.spdm := rfl
@[simp] theorem setReg_host (r : Reg) (v : Word) : (s.setReg r v).host = s.host := rfl
@[simp] theorem setReg_net (r : Reg) (v : Word) : (s.setReg r v).net = s.net := rfl

/-! `setPc` -/

@[simp] theorem setPc_core (v : Word) : (s.setPc v).core = { s.core with pc := v } := rfl
@[simp] theorem setPc_cur (v : Word) : (s.setPc v).cur = s.cur := rfl
@[simp] theorem setPc_others (v : Word) : (s.setPc v).others = s.others := rfl
@[simp] theorem setPc_agenda (v : Word) : (s.setPc v).agenda = s.agenda := rfl
@[simp] theorem setPc_lagLoads (v : Word) : (s.setPc v).lagLoads = s.lagLoads := rfl
@[simp] theorem setPc_lagStores (v : Word) : (s.setPc v).lagStores = s.lagStores := rfl
@[simp] theorem setPc_lagGrid (v : Word) : (s.setPc v).lagGrid = s.lagGrid := rfl
@[simp] theorem setPc_lagEng (v : Word) : (s.setPc v).lagEng = s.lagEng := rfl
@[simp] theorem setPc_upsets (v : Word) : (s.setPc v).upsets = s.upsets := rfl
@[simp] theorem setPc_ticks (v : Word) : (s.setPc v).ticks = s.ticks := rfl
@[simp] theorem setPc_free (v : Word) : (s.setPc v).free = s.free := rfl
@[simp] theorem setPc_time (v : Word) : (s.setPc v).time = s.time := rfl
@[simp] theorem setPc_devid (v : Word) : (s.setPc v).devid = s.devid := rfl
@[simp] theorem setPc_mem (v : Word) : (s.setPc v).mem = s.mem := rfl
@[simp] theorem setPc_poison (v : Word) : (s.setPc v).poison = s.poison := rfl
@[simp] theorem setPc_seqtags (v : Word) : (s.setPc v).seqtags = s.seqtags := rfl
@[simp] theorem setPc_tlb (v : Word) : (s.setPc v).tlb = s.tlb := rfl
@[simp] theorem setPc_walks (v : Word) : (s.setPc v).walks = s.walks := rfl
@[simp] theorem setPc_tasks (v : Word) : (s.setPc v).tasks = s.tasks := rfl
@[simp] theorem setPc_tagtab (v : Word) : (s.setPc v).tagtab = s.tagtab := rfl
@[simp] theorem setPc_rwaits (v : Word) : (s.setPc v).rwaits = s.rwaits := rfl
@[simp] theorem setPc_cmds (v : Word) : (s.setPc v).cmds = s.cmds := rfl
@[simp] theorem setPc_nextCmd (v : Word) : (s.setPc v).nextCmd = s.nextCmd := rfl
@[simp] theorem setPc_notices (v : Word) : (s.setPc v).notices = s.notices := rfl
@[simp] theorem setPc_rrXfer (v : Word) : (s.setPc v).rrXfer = s.rrXfer := rfl
@[simp] theorem setPc_rrDec (v : Word) : (s.setPc v).rrDec = s.rrDec := rfl
@[simp] theorem setPc_rrLoad (v : Word) : (s.setPc v).rrLoad = s.rrLoad := rfl
@[simp] theorem setPc_rrLink (v : Word) : (s.setPc v).rrLink = s.rrLink := rfl
@[simp] theorem setPc_parts (v : Word) : (s.setPc v).parts = s.parts := rfl
@[simp] theorem setPc_deficit (v : Word) : (s.setPc v).deficit = s.deficit := rfl
@[simp] theorem setPc_coreTime (v : Word) : (s.setPc v).coreTime = s.coreTime := rfl
@[simp] theorem setPc_energy (v : Word) : (s.setPc v).energy = s.energy := rfl
@[simp] theorem setPc_lastPart (v : Word) : (s.setPc v).lastPart = s.lastPart := rfl
@[simp] theorem setPc_lastQue (v : Word) : (s.setPc v).lastQue = s.lastQue := rfl
@[simp] theorem setPc_nextTask (v : Word) : (s.setPc v).nextTask = s.nextTask := rfl
@[simp] theorem setPc_logGib (v : Word) : (s.setPc v).logGib = s.logGib := rfl
@[simp] theorem setPc_undo (v : Word) : (s.setPc v).undo = s.undo := rfl
@[simp] theorem setPc_held (v : Word) : (s.setPc v).held = s.held := rfl
@[simp] theorem setPc_dom (v : Word) : (s.setPc v).dom = s.dom := rfl
@[simp] theorem setPc_deadDies (v : Word) : (s.setPc v).deadDies = s.deadDies := rfl
@[simp] theorem setPc_badUnits (v : Word) : (s.setPc v).badUnits = s.badUnits := rfl
@[simp] theorem setPc_links (v : Word) : (s.setPc v).links = s.links := rfl
@[simp] theorem setPc_routes (v : Word) : (s.setPc v).routes = s.routes := rfl
@[simp] theorem setPc_devctl (v : Word) : (s.setPc v).devctl = s.devctl := rfl
@[simp] theorem setPc_hdmBase (v : Word) : (s.setPc v).hdmBase = s.hdmBase := rfl
@[simp] theorem setPc_boot (v : Word) : (s.setPc v).boot = s.boot := rfl
@[simp] theorem setPc_spdm (v : Word) : (s.setPc v).spdm = s.spdm := rfl
@[simp] theorem setPc_host (v : Word) : (s.setPc v).host = s.host := rfl
@[simp] theorem setPc_net (v : Word) : (s.setPc v).net = s.net := rfl

/-! `retire` -/

@[simp] theorem retire_core : (s.retire).core = { s.core with instret := s.core.instret + 1 } := rfl
@[simp] theorem retire_cur : (s.retire).cur = s.cur := rfl
@[simp] theorem retire_others : (s.retire).others = s.others := rfl
@[simp] theorem retire_agenda : (s.retire).agenda = s.agenda := rfl
@[simp] theorem retire_lagLoads : (s.retire).lagLoads = s.lagLoads := rfl
@[simp] theorem retire_lagStores : (s.retire).lagStores = s.lagStores := rfl
@[simp] theorem retire_lagGrid : (s.retire).lagGrid = s.lagGrid := rfl
@[simp] theorem retire_lagEng : (s.retire).lagEng = s.lagEng := rfl
@[simp] theorem retire_upsets : (s.retire).upsets = s.upsets := rfl
@[simp] theorem retire_ticks : (s.retire).ticks = s.ticks := rfl
@[simp] theorem retire_free : (s.retire).free = s.free := rfl
@[simp] theorem retire_time : (s.retire).time = s.time := rfl
@[simp] theorem retire_devid : (s.retire).devid = s.devid := rfl
@[simp] theorem retire_mem : (s.retire).mem = s.mem := rfl
@[simp] theorem retire_poison : (s.retire).poison = s.poison := rfl
@[simp] theorem retire_seqtags : (s.retire).seqtags = s.seqtags := rfl
@[simp] theorem retire_tlb : (s.retire).tlb = s.tlb := rfl
@[simp] theorem retire_walks : (s.retire).walks = s.walks := rfl
@[simp] theorem retire_tasks : (s.retire).tasks = s.tasks := rfl
@[simp] theorem retire_tagtab : (s.retire).tagtab = s.tagtab := rfl
@[simp] theorem retire_rwaits : (s.retire).rwaits = s.rwaits := rfl
@[simp] theorem retire_cmds : (s.retire).cmds = s.cmds := rfl
@[simp] theorem retire_nextCmd : (s.retire).nextCmd = s.nextCmd := rfl
@[simp] theorem retire_notices : (s.retire).notices = s.notices := rfl
@[simp] theorem retire_rrXfer : (s.retire).rrXfer = s.rrXfer := rfl
@[simp] theorem retire_rrDec : (s.retire).rrDec = s.rrDec := rfl
@[simp] theorem retire_rrLoad : (s.retire).rrLoad = s.rrLoad := rfl
@[simp] theorem retire_rrLink : (s.retire).rrLink = s.rrLink := rfl
@[simp] theorem retire_parts : (s.retire).parts = s.parts := rfl
@[simp] theorem retire_deficit : (s.retire).deficit = s.deficit := rfl
@[simp] theorem retire_coreTime : (s.retire).coreTime = s.coreTime := rfl
@[simp] theorem retire_energy : (s.retire).energy = s.energy := rfl
@[simp] theorem retire_lastPart : (s.retire).lastPart = s.lastPart := rfl
@[simp] theorem retire_lastQue : (s.retire).lastQue = s.lastQue := rfl
@[simp] theorem retire_nextTask : (s.retire).nextTask = s.nextTask := rfl
@[simp] theorem retire_logGib : (s.retire).logGib = s.logGib := rfl
@[simp] theorem retire_undo : (s.retire).undo = s.undo := rfl
@[simp] theorem retire_held : (s.retire).held = s.held := rfl
@[simp] theorem retire_dom : (s.retire).dom = s.dom := rfl
@[simp] theorem retire_deadDies : (s.retire).deadDies = s.deadDies := rfl
@[simp] theorem retire_badUnits : (s.retire).badUnits = s.badUnits := rfl
@[simp] theorem retire_links : (s.retire).links = s.links := rfl
@[simp] theorem retire_routes : (s.retire).routes = s.routes := rfl
@[simp] theorem retire_devctl : (s.retire).devctl = s.devctl := rfl
@[simp] theorem retire_hdmBase : (s.retire).hdmBase = s.hdmBase := rfl
@[simp] theorem retire_boot : (s.retire).boot = s.boot := rfl
@[simp] theorem retire_spdm : (s.retire).spdm = s.spdm := rfl
@[simp] theorem retire_host : (s.retire).host = s.host := rfl
@[simp] theorem retire_net : (s.retire).net = s.net := rfl

/-! `advance` -/

@[simp] theorem advance_core (n : Nat) : (s.advance n).core = { s.core with pc := s.core.pc + BitVec.ofNat 64 n, instret := s.core.instret + 1, lastMc := s.core.lastMc.filter (· != s.core.pc) } := rfl
@[simp] theorem advance_cur (n : Nat) : (s.advance n).cur = s.cur := rfl
@[simp] theorem advance_others (n : Nat) : (s.advance n).others = s.others := rfl
@[simp] theorem advance_agenda (n : Nat) : (s.advance n).agenda = s.agenda := rfl
@[simp] theorem advance_lagLoads (n : Nat) : (s.advance n).lagLoads = s.lagLoads := rfl
@[simp] theorem advance_lagStores (n : Nat) : (s.advance n).lagStores = s.lagStores := rfl
@[simp] theorem advance_lagGrid (n : Nat) : (s.advance n).lagGrid = s.lagGrid := rfl
@[simp] theorem advance_lagEng (n : Nat) : (s.advance n).lagEng = s.lagEng := rfl
@[simp] theorem advance_upsets (n : Nat) : (s.advance n).upsets = s.upsets := rfl
@[simp] theorem advance_ticks (n : Nat) : (s.advance n).ticks = s.ticks := rfl
@[simp] theorem advance_free (n : Nat) : (s.advance n).free = s.free := rfl
@[simp] theorem advance_time (n : Nat) : (s.advance n).time = s.time := rfl
@[simp] theorem advance_devid (n : Nat) : (s.advance n).devid = s.devid := rfl
@[simp] theorem advance_mem (n : Nat) : (s.advance n).mem = s.mem := rfl
@[simp] theorem advance_poison (n : Nat) : (s.advance n).poison = s.poison := rfl
@[simp] theorem advance_seqtags (n : Nat) : (s.advance n).seqtags = s.seqtags := rfl
@[simp] theorem advance_tlb (n : Nat) : (s.advance n).tlb = s.tlb := rfl
@[simp] theorem advance_walks (n : Nat) : (s.advance n).walks = s.walks := rfl
@[simp] theorem advance_tasks (n : Nat) : (s.advance n).tasks = s.tasks := rfl
@[simp] theorem advance_tagtab (n : Nat) : (s.advance n).tagtab = s.tagtab := rfl
@[simp] theorem advance_rwaits (n : Nat) : (s.advance n).rwaits = s.rwaits := rfl
@[simp] theorem advance_cmds (n : Nat) : (s.advance n).cmds = s.cmds := rfl
@[simp] theorem advance_nextCmd (n : Nat) : (s.advance n).nextCmd = s.nextCmd := rfl
@[simp] theorem advance_notices (n : Nat) : (s.advance n).notices = s.notices := rfl
@[simp] theorem advance_rrXfer (n : Nat) : (s.advance n).rrXfer = s.rrXfer := rfl
@[simp] theorem advance_rrDec (n : Nat) : (s.advance n).rrDec = s.rrDec := rfl
@[simp] theorem advance_rrLoad (n : Nat) : (s.advance n).rrLoad = s.rrLoad := rfl
@[simp] theorem advance_rrLink (n : Nat) : (s.advance n).rrLink = s.rrLink := rfl
@[simp] theorem advance_parts (n : Nat) : (s.advance n).parts = s.parts := rfl
@[simp] theorem advance_deficit (n : Nat) : (s.advance n).deficit = s.deficit := rfl
@[simp] theorem advance_coreTime (n : Nat) : (s.advance n).coreTime = s.coreTime := rfl
@[simp] theorem advance_energy (n : Nat) : (s.advance n).energy = s.energy := rfl
@[simp] theorem advance_lastPart (n : Nat) : (s.advance n).lastPart = s.lastPart := rfl
@[simp] theorem advance_lastQue (n : Nat) : (s.advance n).lastQue = s.lastQue := rfl
@[simp] theorem advance_nextTask (n : Nat) : (s.advance n).nextTask = s.nextTask := rfl
@[simp] theorem advance_logGib (n : Nat) : (s.advance n).logGib = s.logGib := rfl
@[simp] theorem advance_undo (n : Nat) : (s.advance n).undo = s.undo := rfl
@[simp] theorem advance_held (n : Nat) : (s.advance n).held = s.held := rfl
@[simp] theorem advance_dom (n : Nat) : (s.advance n).dom = s.dom := rfl
@[simp] theorem advance_deadDies (n : Nat) : (s.advance n).deadDies = s.deadDies := rfl
@[simp] theorem advance_badUnits (n : Nat) : (s.advance n).badUnits = s.badUnits := rfl
@[simp] theorem advance_links (n : Nat) : (s.advance n).links = s.links := rfl
@[simp] theorem advance_routes (n : Nat) : (s.advance n).routes = s.routes := rfl
@[simp] theorem advance_devctl (n : Nat) : (s.advance n).devctl = s.devctl := rfl
@[simp] theorem advance_hdmBase (n : Nat) : (s.advance n).hdmBase = s.hdmBase := rfl
@[simp] theorem advance_boot (n : Nat) : (s.advance n).boot = s.boot := rfl
@[simp] theorem advance_spdm (n : Nat) : (s.advance n).spdm = s.spdm := rfl
@[simp] theorem advance_host (n : Nat) : (s.advance n).host = s.host := rfl
@[simp] theorem advance_net (n : Nat) : (s.advance n).net = s.net := rfl

/-! `tickFree` -/

@[simp] theorem tickFree_core : (s.tickFree).core = s.core := rfl
@[simp] theorem tickFree_cur : (s.tickFree).cur = s.cur := rfl
@[simp] theorem tickFree_others : (s.tickFree).others = s.others := rfl
@[simp] theorem tickFree_agenda : (s.tickFree).agenda = s.agenda := rfl
@[simp] theorem tickFree_lagLoads : (s.tickFree).lagLoads = s.lagLoads := rfl
@[simp] theorem tickFree_lagStores : (s.tickFree).lagStores = s.lagStores := rfl
@[simp] theorem tickFree_lagGrid : (s.tickFree).lagGrid = s.lagGrid := rfl
@[simp] theorem tickFree_lagEng : (s.tickFree).lagEng = s.lagEng := rfl
@[simp] theorem tickFree_upsets : (s.tickFree).upsets = s.upsets := rfl
@[simp] theorem tickFree_ticks : (s.tickFree).ticks = s.ticks := rfl
@[simp] theorem tickFree_free : (s.tickFree).free = s.free + 1 := rfl
@[simp] theorem tickFree_time : (s.tickFree).time = s.time := rfl
@[simp] theorem tickFree_devid : (s.tickFree).devid = s.devid := rfl
@[simp] theorem tickFree_mem : (s.tickFree).mem = s.mem := rfl
@[simp] theorem tickFree_poison : (s.tickFree).poison = s.poison := rfl
@[simp] theorem tickFree_seqtags : (s.tickFree).seqtags = s.seqtags := rfl
@[simp] theorem tickFree_tlb : (s.tickFree).tlb = s.tlb := rfl
@[simp] theorem tickFree_walks : (s.tickFree).walks = s.walks := rfl
@[simp] theorem tickFree_tasks : (s.tickFree).tasks = s.tasks := rfl
@[simp] theorem tickFree_tagtab : (s.tickFree).tagtab = s.tagtab := rfl
@[simp] theorem tickFree_rwaits : (s.tickFree).rwaits = s.rwaits := rfl
@[simp] theorem tickFree_cmds : (s.tickFree).cmds = s.cmds := rfl
@[simp] theorem tickFree_nextCmd : (s.tickFree).nextCmd = s.nextCmd := rfl
@[simp] theorem tickFree_notices : (s.tickFree).notices = s.notices := rfl
@[simp] theorem tickFree_rrXfer : (s.tickFree).rrXfer = s.rrXfer := rfl
@[simp] theorem tickFree_rrDec : (s.tickFree).rrDec = s.rrDec := rfl
@[simp] theorem tickFree_rrLoad : (s.tickFree).rrLoad = s.rrLoad := rfl
@[simp] theorem tickFree_rrLink : (s.tickFree).rrLink = s.rrLink := rfl
@[simp] theorem tickFree_parts : (s.tickFree).parts = s.parts := rfl
@[simp] theorem tickFree_deficit : (s.tickFree).deficit = s.deficit := rfl
@[simp] theorem tickFree_coreTime : (s.tickFree).coreTime = s.coreTime := rfl
@[simp] theorem tickFree_energy : (s.tickFree).energy = s.energy := rfl
@[simp] theorem tickFree_lastPart : (s.tickFree).lastPart = s.lastPart := rfl
@[simp] theorem tickFree_lastQue : (s.tickFree).lastQue = s.lastQue := rfl
@[simp] theorem tickFree_nextTask : (s.tickFree).nextTask = s.nextTask := rfl
@[simp] theorem tickFree_logGib : (s.tickFree).logGib = s.logGib := rfl
@[simp] theorem tickFree_undo : (s.tickFree).undo = s.undo := rfl
@[simp] theorem tickFree_held : (s.tickFree).held = s.held := rfl
@[simp] theorem tickFree_dom : (s.tickFree).dom = s.dom := rfl
@[simp] theorem tickFree_deadDies : (s.tickFree).deadDies = s.deadDies := rfl
@[simp] theorem tickFree_badUnits : (s.tickFree).badUnits = s.badUnits := rfl
@[simp] theorem tickFree_links : (s.tickFree).links = s.links := rfl
@[simp] theorem tickFree_routes : (s.tickFree).routes = s.routes := rfl
@[simp] theorem tickFree_devctl : (s.tickFree).devctl = s.devctl := rfl
@[simp] theorem tickFree_hdmBase : (s.tickFree).hdmBase = s.hdmBase := rfl
@[simp] theorem tickFree_boot : (s.tickFree).boot = s.boot := rfl
@[simp] theorem tickFree_spdm : (s.tickFree).spdm = s.spdm := rfl
@[simp] theorem tickFree_host : (s.tickFree).host = s.host := rfl
@[simp] theorem tickFree_net : (s.tickFree).net = s.net := rfl

/-! `tell` -/

@[simp] theorem tell_core (m : HostMsg) : (s.tell m).core = s.core := rfl
@[simp] theorem tell_cur (m : HostMsg) : (s.tell m).cur = s.cur := rfl
@[simp] theorem tell_others (m : HostMsg) : (s.tell m).others = s.others := rfl
@[simp] theorem tell_agenda (m : HostMsg) : (s.tell m).agenda = s.agenda := rfl
@[simp] theorem tell_lagLoads (m : HostMsg) : (s.tell m).lagLoads = s.lagLoads := rfl
@[simp] theorem tell_lagStores (m : HostMsg) : (s.tell m).lagStores = s.lagStores := rfl
@[simp] theorem tell_lagGrid (m : HostMsg) : (s.tell m).lagGrid = s.lagGrid := rfl
@[simp] theorem tell_lagEng (m : HostMsg) : (s.tell m).lagEng = s.lagEng := rfl
@[simp] theorem tell_upsets (m : HostMsg) : (s.tell m).upsets = s.upsets := rfl
@[simp] theorem tell_ticks (m : HostMsg) : (s.tell m).ticks = s.ticks := rfl
@[simp] theorem tell_free (m : HostMsg) : (s.tell m).free = s.free := rfl
@[simp] theorem tell_time (m : HostMsg) : (s.tell m).time = s.time := rfl
@[simp] theorem tell_devid (m : HostMsg) : (s.tell m).devid = s.devid := rfl
@[simp] theorem tell_mem (m : HostMsg) : (s.tell m).mem = s.mem := rfl
@[simp] theorem tell_poison (m : HostMsg) : (s.tell m).poison = s.poison := rfl
@[simp] theorem tell_seqtags (m : HostMsg) : (s.tell m).seqtags = s.seqtags := rfl
@[simp] theorem tell_tlb (m : HostMsg) : (s.tell m).tlb = s.tlb := rfl
@[simp] theorem tell_walks (m : HostMsg) : (s.tell m).walks = s.walks := rfl
@[simp] theorem tell_tasks (m : HostMsg) : (s.tell m).tasks = s.tasks := rfl
@[simp] theorem tell_tagtab (m : HostMsg) : (s.tell m).tagtab = s.tagtab := rfl
@[simp] theorem tell_rwaits (m : HostMsg) : (s.tell m).rwaits = s.rwaits := rfl
@[simp] theorem tell_cmds (m : HostMsg) : (s.tell m).cmds = s.cmds := rfl
@[simp] theorem tell_nextCmd (m : HostMsg) : (s.tell m).nextCmd = s.nextCmd := rfl
@[simp] theorem tell_notices (m : HostMsg) : (s.tell m).notices = s.notices := rfl
@[simp] theorem tell_rrXfer (m : HostMsg) : (s.tell m).rrXfer = s.rrXfer := rfl
@[simp] theorem tell_rrDec (m : HostMsg) : (s.tell m).rrDec = s.rrDec := rfl
@[simp] theorem tell_rrLoad (m : HostMsg) : (s.tell m).rrLoad = s.rrLoad := rfl
@[simp] theorem tell_rrLink (m : HostMsg) : (s.tell m).rrLink = s.rrLink := rfl
@[simp] theorem tell_parts (m : HostMsg) : (s.tell m).parts = s.parts := rfl
@[simp] theorem tell_deficit (m : HostMsg) : (s.tell m).deficit = s.deficit := rfl
@[simp] theorem tell_coreTime (m : HostMsg) : (s.tell m).coreTime = s.coreTime := rfl
@[simp] theorem tell_energy (m : HostMsg) : (s.tell m).energy = s.energy := rfl
@[simp] theorem tell_lastPart (m : HostMsg) : (s.tell m).lastPart = s.lastPart := rfl
@[simp] theorem tell_lastQue (m : HostMsg) : (s.tell m).lastQue = s.lastQue := rfl
@[simp] theorem tell_nextTask (m : HostMsg) : (s.tell m).nextTask = s.nextTask := rfl
@[simp] theorem tell_logGib (m : HostMsg) : (s.tell m).logGib = s.logGib := rfl
@[simp] theorem tell_undo (m : HostMsg) : (s.tell m).undo = s.undo := rfl
@[simp] theorem tell_held (m : HostMsg) : (s.tell m).held = s.held := rfl
@[simp] theorem tell_dom (m : HostMsg) : (s.tell m).dom = s.dom := rfl
@[simp] theorem tell_deadDies (m : HostMsg) : (s.tell m).deadDies = s.deadDies := rfl
@[simp] theorem tell_badUnits (m : HostMsg) : (s.tell m).badUnits = s.badUnits := rfl
@[simp] theorem tell_links (m : HostMsg) : (s.tell m).links = s.links := rfl
@[simp] theorem tell_routes (m : HostMsg) : (s.tell m).routes = s.routes := rfl
@[simp] theorem tell_devctl (m : HostMsg) : (s.tell m).devctl = s.devctl := rfl
@[simp] theorem tell_hdmBase (m : HostMsg) : (s.tell m).hdmBase = s.hdmBase := rfl
@[simp] theorem tell_boot (m : HostMsg) : (s.tell m).boot = s.boot := rfl
@[simp] theorem tell_spdm (m : HostMsg) : (s.tell m).spdm = s.spdm := rfl
@[simp] theorem tell_host (m : HostMsg) : (s.tell m).host = s.host ++ [m] := rfl
@[simp] theorem tell_net (m : HostMsg) : (s.tell m).net = s.net := rfl

/-! `sendMsg` -/

@[simp] theorem sendMsg_core (m : NetMsg) : (s.sendMsg m).core = s.core := rfl
@[simp] theorem sendMsg_cur (m : NetMsg) : (s.sendMsg m).cur = s.cur := rfl
@[simp] theorem sendMsg_others (m : NetMsg) : (s.sendMsg m).others = s.others := rfl
@[simp] theorem sendMsg_agenda (m : NetMsg) : (s.sendMsg m).agenda = s.agenda := rfl
@[simp] theorem sendMsg_lagLoads (m : NetMsg) : (s.sendMsg m).lagLoads = s.lagLoads := rfl
@[simp] theorem sendMsg_lagStores (m : NetMsg) : (s.sendMsg m).lagStores = s.lagStores := rfl
@[simp] theorem sendMsg_lagGrid (m : NetMsg) : (s.sendMsg m).lagGrid = s.lagGrid := rfl
@[simp] theorem sendMsg_lagEng (m : NetMsg) : (s.sendMsg m).lagEng = s.lagEng := rfl
@[simp] theorem sendMsg_upsets (m : NetMsg) : (s.sendMsg m).upsets = s.upsets := rfl
@[simp] theorem sendMsg_ticks (m : NetMsg) : (s.sendMsg m).ticks = s.ticks := rfl
@[simp] theorem sendMsg_free (m : NetMsg) : (s.sendMsg m).free = s.free := rfl
@[simp] theorem sendMsg_time (m : NetMsg) : (s.sendMsg m).time = s.time := rfl
@[simp] theorem sendMsg_devid (m : NetMsg) : (s.sendMsg m).devid = s.devid := rfl
@[simp] theorem sendMsg_mem (m : NetMsg) : (s.sendMsg m).mem = s.mem := rfl
@[simp] theorem sendMsg_poison (m : NetMsg) : (s.sendMsg m).poison = s.poison := rfl
@[simp] theorem sendMsg_seqtags (m : NetMsg) : (s.sendMsg m).seqtags = s.seqtags := rfl
@[simp] theorem sendMsg_tlb (m : NetMsg) : (s.sendMsg m).tlb = s.tlb := rfl
@[simp] theorem sendMsg_walks (m : NetMsg) : (s.sendMsg m).walks = s.walks := rfl
@[simp] theorem sendMsg_tasks (m : NetMsg) : (s.sendMsg m).tasks = s.tasks := rfl
@[simp] theorem sendMsg_tagtab (m : NetMsg) : (s.sendMsg m).tagtab = s.tagtab := rfl
@[simp] theorem sendMsg_rwaits (m : NetMsg) : (s.sendMsg m).rwaits = s.rwaits := rfl
@[simp] theorem sendMsg_cmds (m : NetMsg) : (s.sendMsg m).cmds = s.cmds := rfl
@[simp] theorem sendMsg_nextCmd (m : NetMsg) : (s.sendMsg m).nextCmd = s.nextCmd := rfl
@[simp] theorem sendMsg_notices (m : NetMsg) : (s.sendMsg m).notices = s.notices := rfl
@[simp] theorem sendMsg_rrXfer (m : NetMsg) : (s.sendMsg m).rrXfer = s.rrXfer := rfl
@[simp] theorem sendMsg_rrDec (m : NetMsg) : (s.sendMsg m).rrDec = s.rrDec := rfl
@[simp] theorem sendMsg_rrLoad (m : NetMsg) : (s.sendMsg m).rrLoad = s.rrLoad := rfl
@[simp] theorem sendMsg_rrLink (m : NetMsg) : (s.sendMsg m).rrLink = s.rrLink := rfl
@[simp] theorem sendMsg_parts (m : NetMsg) : (s.sendMsg m).parts = s.parts := rfl
@[simp] theorem sendMsg_deficit (m : NetMsg) : (s.sendMsg m).deficit = s.deficit := rfl
@[simp] theorem sendMsg_coreTime (m : NetMsg) : (s.sendMsg m).coreTime = s.coreTime := rfl
@[simp] theorem sendMsg_energy (m : NetMsg) : (s.sendMsg m).energy = s.energy := rfl
@[simp] theorem sendMsg_lastPart (m : NetMsg) : (s.sendMsg m).lastPart = s.lastPart := rfl
@[simp] theorem sendMsg_lastQue (m : NetMsg) : (s.sendMsg m).lastQue = s.lastQue := rfl
@[simp] theorem sendMsg_nextTask (m : NetMsg) : (s.sendMsg m).nextTask = s.nextTask := rfl
@[simp] theorem sendMsg_logGib (m : NetMsg) : (s.sendMsg m).logGib = s.logGib := rfl
@[simp] theorem sendMsg_undo (m : NetMsg) : (s.sendMsg m).undo = s.undo := rfl
@[simp] theorem sendMsg_held (m : NetMsg) : (s.sendMsg m).held = s.held := rfl
@[simp] theorem sendMsg_dom (m : NetMsg) : (s.sendMsg m).dom = s.dom := rfl
@[simp] theorem sendMsg_deadDies (m : NetMsg) : (s.sendMsg m).deadDies = s.deadDies := rfl
@[simp] theorem sendMsg_badUnits (m : NetMsg) : (s.sendMsg m).badUnits = s.badUnits := rfl
@[simp] theorem sendMsg_links (m : NetMsg) : (s.sendMsg m).links = s.links := rfl
@[simp] theorem sendMsg_routes (m : NetMsg) : (s.sendMsg m).routes = s.routes := rfl
@[simp] theorem sendMsg_devctl (m : NetMsg) : (s.sendMsg m).devctl = s.devctl := rfl
@[simp] theorem sendMsg_hdmBase (m : NetMsg) : (s.sendMsg m).hdmBase = s.hdmBase := rfl
@[simp] theorem sendMsg_boot (m : NetMsg) : (s.sendMsg m).boot = s.boot := rfl
@[simp] theorem sendMsg_spdm (m : NetMsg) : (s.sendMsg m).spdm = s.spdm := rfl
@[simp] theorem sendMsg_host (m : NetMsg) : (s.sendMsg m).host = s.host := rfl
@[simp] theorem sendMsg_net (m : NetMsg) : (s.sendMsg m).net = s.net ++ [m] := rfl

/-! `modTask` -/

@[simp] theorem modTask_core (i : Nat) (f : Task → Task) : (s.modTask i f).core = s.core := rfl
@[simp] theorem modTask_cur (i : Nat) (f : Task → Task) : (s.modTask i f).cur = s.cur := rfl
@[simp] theorem modTask_others (i : Nat) (f : Task → Task) : (s.modTask i f).others = s.others := rfl
@[simp] theorem modTask_agenda (i : Nat) (f : Task → Task) : (s.modTask i f).agenda = s.agenda := rfl
@[simp] theorem modTask_lagLoads (i : Nat) (f : Task → Task) : (s.modTask i f).lagLoads = s.lagLoads := rfl
@[simp] theorem modTask_lagStores (i : Nat) (f : Task → Task) : (s.modTask i f).lagStores = s.lagStores := rfl
@[simp] theorem modTask_lagGrid (i : Nat) (f : Task → Task) : (s.modTask i f).lagGrid = s.lagGrid := rfl
@[simp] theorem modTask_lagEng (i : Nat) (f : Task → Task) : (s.modTask i f).lagEng = s.lagEng := rfl
@[simp] theorem modTask_upsets (i : Nat) (f : Task → Task) : (s.modTask i f).upsets = s.upsets := rfl
@[simp] theorem modTask_ticks (i : Nat) (f : Task → Task) : (s.modTask i f).ticks = s.ticks := rfl
@[simp] theorem modTask_free (i : Nat) (f : Task → Task) : (s.modTask i f).free = s.free := rfl
@[simp] theorem modTask_time (i : Nat) (f : Task → Task) : (s.modTask i f).time = s.time := rfl
@[simp] theorem modTask_devid (i : Nat) (f : Task → Task) : (s.modTask i f).devid = s.devid := rfl
@[simp] theorem modTask_mem (i : Nat) (f : Task → Task) : (s.modTask i f).mem = s.mem := rfl
@[simp] theorem modTask_poison (i : Nat) (f : Task → Task) : (s.modTask i f).poison = s.poison := rfl
@[simp] theorem modTask_seqtags (i : Nat) (f : Task → Task) : (s.modTask i f).seqtags = s.seqtags := rfl
@[simp] theorem modTask_tlb (i : Nat) (f : Task → Task) : (s.modTask i f).tlb = s.tlb := rfl
@[simp] theorem modTask_walks (i : Nat) (f : Task → Task) : (s.modTask i f).walks = s.walks := rfl
@[simp] theorem modTask_tasks (i : Nat) (f : Task → Task) : (s.modTask i f).tasks = s.tasks.map fun t => if t.id == i then f t else t := rfl
@[simp] theorem modTask_tagtab (i : Nat) (f : Task → Task) : (s.modTask i f).tagtab = s.tagtab := rfl
@[simp] theorem modTask_rwaits (i : Nat) (f : Task → Task) : (s.modTask i f).rwaits = s.rwaits := rfl
@[simp] theorem modTask_cmds (i : Nat) (f : Task → Task) : (s.modTask i f).cmds = s.cmds := rfl
@[simp] theorem modTask_nextCmd (i : Nat) (f : Task → Task) : (s.modTask i f).nextCmd = s.nextCmd := rfl
@[simp] theorem modTask_notices (i : Nat) (f : Task → Task) : (s.modTask i f).notices = s.notices := rfl
@[simp] theorem modTask_rrXfer (i : Nat) (f : Task → Task) : (s.modTask i f).rrXfer = s.rrXfer := rfl
@[simp] theorem modTask_rrDec (i : Nat) (f : Task → Task) : (s.modTask i f).rrDec = s.rrDec := rfl
@[simp] theorem modTask_rrLoad (i : Nat) (f : Task → Task) : (s.modTask i f).rrLoad = s.rrLoad := rfl
@[simp] theorem modTask_rrLink (i : Nat) (f : Task → Task) : (s.modTask i f).rrLink = s.rrLink := rfl
@[simp] theorem modTask_parts (i : Nat) (f : Task → Task) : (s.modTask i f).parts = s.parts := rfl
@[simp] theorem modTask_deficit (i : Nat) (f : Task → Task) : (s.modTask i f).deficit = s.deficit := rfl
@[simp] theorem modTask_coreTime (i : Nat) (f : Task → Task) : (s.modTask i f).coreTime = s.coreTime := rfl
@[simp] theorem modTask_energy (i : Nat) (f : Task → Task) : (s.modTask i f).energy = s.energy := rfl
@[simp] theorem modTask_lastPart (i : Nat) (f : Task → Task) : (s.modTask i f).lastPart = s.lastPart := rfl
@[simp] theorem modTask_lastQue (i : Nat) (f : Task → Task) : (s.modTask i f).lastQue = s.lastQue := rfl
@[simp] theorem modTask_nextTask (i : Nat) (f : Task → Task) : (s.modTask i f).nextTask = s.nextTask := rfl
@[simp] theorem modTask_logGib (i : Nat) (f : Task → Task) : (s.modTask i f).logGib = s.logGib := rfl
@[simp] theorem modTask_undo (i : Nat) (f : Task → Task) : (s.modTask i f).undo = s.undo := rfl
@[simp] theorem modTask_held (i : Nat) (f : Task → Task) : (s.modTask i f).held = s.held := rfl
@[simp] theorem modTask_dom (i : Nat) (f : Task → Task) : (s.modTask i f).dom = s.dom := rfl
@[simp] theorem modTask_deadDies (i : Nat) (f : Task → Task) : (s.modTask i f).deadDies = s.deadDies := rfl
@[simp] theorem modTask_badUnits (i : Nat) (f : Task → Task) : (s.modTask i f).badUnits = s.badUnits := rfl
@[simp] theorem modTask_links (i : Nat) (f : Task → Task) : (s.modTask i f).links = s.links := rfl
@[simp] theorem modTask_routes (i : Nat) (f : Task → Task) : (s.modTask i f).routes = s.routes := rfl
@[simp] theorem modTask_devctl (i : Nat) (f : Task → Task) : (s.modTask i f).devctl = s.devctl := rfl
@[simp] theorem modTask_hdmBase (i : Nat) (f : Task → Task) : (s.modTask i f).hdmBase = s.hdmBase := rfl
@[simp] theorem modTask_boot (i : Nat) (f : Task → Task) : (s.modTask i f).boot = s.boot := rfl
@[simp] theorem modTask_spdm (i : Nat) (f : Task → Task) : (s.modTask i f).spdm = s.spdm := rfl
@[simp] theorem modTask_host (i : Nat) (f : Task → Task) : (s.modTask i f).host = s.host := rfl
@[simp] theorem modTask_net (i : Nat) (f : Task → Task) : (s.modTask i f).net = s.net := rfl

/-! `modPart` -/

@[simp] theorem modPart_core (p : Nat) (f : Partition → Partition) : (s.modPart p f).core = s.core := rfl
@[simp] theorem modPart_cur (p : Nat) (f : Partition → Partition) : (s.modPart p f).cur = s.cur := rfl
@[simp] theorem modPart_others (p : Nat) (f : Partition → Partition) : (s.modPart p f).others = s.others := rfl
@[simp] theorem modPart_agenda (p : Nat) (f : Partition → Partition) : (s.modPart p f).agenda = s.agenda := rfl
@[simp] theorem modPart_lagLoads (p : Nat) (f : Partition → Partition) : (s.modPart p f).lagLoads = s.lagLoads := rfl
@[simp] theorem modPart_lagStores (p : Nat) (f : Partition → Partition) : (s.modPart p f).lagStores = s.lagStores := rfl
@[simp] theorem modPart_lagGrid (p : Nat) (f : Partition → Partition) : (s.modPart p f).lagGrid = s.lagGrid := rfl
@[simp] theorem modPart_lagEng (p : Nat) (f : Partition → Partition) : (s.modPart p f).lagEng = s.lagEng := rfl
@[simp] theorem modPart_upsets (p : Nat) (f : Partition → Partition) : (s.modPart p f).upsets = s.upsets := rfl
@[simp] theorem modPart_ticks (p : Nat) (f : Partition → Partition) : (s.modPart p f).ticks = s.ticks := rfl
@[simp] theorem modPart_free (p : Nat) (f : Partition → Partition) : (s.modPart p f).free = s.free := rfl
@[simp] theorem modPart_time (p : Nat) (f : Partition → Partition) : (s.modPart p f).time = s.time := rfl
@[simp] theorem modPart_devid (p : Nat) (f : Partition → Partition) : (s.modPart p f).devid = s.devid := rfl
@[simp] theorem modPart_mem (p : Nat) (f : Partition → Partition) : (s.modPart p f).mem = s.mem := rfl
@[simp] theorem modPart_poison (p : Nat) (f : Partition → Partition) : (s.modPart p f).poison = s.poison := rfl
@[simp] theorem modPart_seqtags (p : Nat) (f : Partition → Partition) : (s.modPart p f).seqtags = s.seqtags := rfl
@[simp] theorem modPart_tlb (p : Nat) (f : Partition → Partition) : (s.modPart p f).tlb = s.tlb := rfl
@[simp] theorem modPart_walks (p : Nat) (f : Partition → Partition) : (s.modPart p f).walks = s.walks := rfl
@[simp] theorem modPart_tasks (p : Nat) (f : Partition → Partition) : (s.modPart p f).tasks = s.tasks := rfl
@[simp] theorem modPart_tagtab (p : Nat) (f : Partition → Partition) : (s.modPart p f).tagtab = s.tagtab := rfl
@[simp] theorem modPart_rwaits (p : Nat) (f : Partition → Partition) : (s.modPart p f).rwaits = s.rwaits := rfl
@[simp] theorem modPart_cmds (p : Nat) (f : Partition → Partition) : (s.modPart p f).cmds = s.cmds := rfl
@[simp] theorem modPart_nextCmd (p : Nat) (f : Partition → Partition) : (s.modPart p f).nextCmd = s.nextCmd := rfl
@[simp] theorem modPart_notices (p : Nat) (f : Partition → Partition) : (s.modPart p f).notices = s.notices := rfl
@[simp] theorem modPart_rrXfer (p : Nat) (f : Partition → Partition) : (s.modPart p f).rrXfer = s.rrXfer := rfl
@[simp] theorem modPart_rrDec (p : Nat) (f : Partition → Partition) : (s.modPart p f).rrDec = s.rrDec := rfl
@[simp] theorem modPart_rrLoad (p : Nat) (f : Partition → Partition) : (s.modPart p f).rrLoad = s.rrLoad := rfl
@[simp] theorem modPart_rrLink (p : Nat) (f : Partition → Partition) : (s.modPart p f).rrLink = s.rrLink := rfl
@[simp] theorem modPart_parts (p : Nat) (f : Partition → Partition) : (s.modPart p f).parts = s.parts.setIfInBounds p (f (s.getPart p)) := rfl
@[simp] theorem modPart_deficit (p : Nat) (f : Partition → Partition) : (s.modPart p f).deficit = s.deficit := rfl
@[simp] theorem modPart_coreTime (p : Nat) (f : Partition → Partition) : (s.modPart p f).coreTime = s.coreTime := rfl
@[simp] theorem modPart_energy (p : Nat) (f : Partition → Partition) : (s.modPart p f).energy = s.energy := rfl
@[simp] theorem modPart_lastPart (p : Nat) (f : Partition → Partition) : (s.modPart p f).lastPart = s.lastPart := rfl
@[simp] theorem modPart_lastQue (p : Nat) (f : Partition → Partition) : (s.modPart p f).lastQue = s.lastQue := rfl
@[simp] theorem modPart_nextTask (p : Nat) (f : Partition → Partition) : (s.modPart p f).nextTask = s.nextTask := rfl
@[simp] theorem modPart_logGib (p : Nat) (f : Partition → Partition) : (s.modPart p f).logGib = s.logGib := rfl
@[simp] theorem modPart_undo (p : Nat) (f : Partition → Partition) : (s.modPart p f).undo = s.undo := rfl
@[simp] theorem modPart_held (p : Nat) (f : Partition → Partition) : (s.modPart p f).held = s.held := rfl
@[simp] theorem modPart_dom (p : Nat) (f : Partition → Partition) : (s.modPart p f).dom = s.dom := rfl
@[simp] theorem modPart_deadDies (p : Nat) (f : Partition → Partition) : (s.modPart p f).deadDies = s.deadDies := rfl
@[simp] theorem modPart_badUnits (p : Nat) (f : Partition → Partition) : (s.modPart p f).badUnits = s.badUnits := rfl
@[simp] theorem modPart_links (p : Nat) (f : Partition → Partition) : (s.modPart p f).links = s.links := rfl
@[simp] theorem modPart_routes (p : Nat) (f : Partition → Partition) : (s.modPart p f).routes = s.routes := rfl
@[simp] theorem modPart_devctl (p : Nat) (f : Partition → Partition) : (s.modPart p f).devctl = s.devctl := rfl
@[simp] theorem modPart_hdmBase (p : Nat) (f : Partition → Partition) : (s.modPart p f).hdmBase = s.hdmBase := rfl
@[simp] theorem modPart_boot (p : Nat) (f : Partition → Partition) : (s.modPart p f).boot = s.boot := rfl
@[simp] theorem modPart_spdm (p : Nat) (f : Partition → Partition) : (s.modPart p f).spdm = s.spdm := rfl
@[simp] theorem modPart_host (p : Nat) (f : Partition → Partition) : (s.modPart p f).host = s.host := rfl
@[simp] theorem modPart_net (p : Nat) (f : Partition → Partition) : (s.modPart p f).net = s.net := rfl

end State

namespace Core

variable (c : Core)

/-! `setReg` of a core -/

@[simp] theorem setReg_pc (n : Nat) (v : Word) : (c.setReg n v).pc = c.pc := by unfold setReg; split <;> rfl
@[simp] theorem setReg_status (n : Nat) (v : Word) : (c.setReg n v).status = c.status := by unfold setReg; split <;> rfl
@[simp] theorem setReg_flags (n : Nat) (v : Word) : (c.setReg n v).flags = c.flags := by unfold setReg; split <;> rfl
@[simp] theorem setReg_eidxNv (n : Nat) (v : Word) : (c.setReg n v).eidxNv = c.eidxNv := by unfold setReg; split <;> rfl
@[simp] theorem setReg_eidxDz (n : Nat) (v : Word) : (c.setReg n v).eidxDz = c.eidxDz := by unfold setReg; split <;> rfl
@[simp] theorem setReg_eidxOf (n : Nat) (v : Word) : (c.setReg n v).eidxOf = c.eidxOf := by unfold setReg; split <;> rfl
@[simp] theorem setReg_eidxUf (n : Nat) (v : Word) : (c.setReg n v).eidxUf = c.eidxUf := by unfold setReg; split <;> rfl
@[simp] theorem setReg_eidxSat (n : Nat) (v : Word) : (c.setReg n v).eidxSat = c.eidxSat := by unfold setReg; split <;> rfl
@[simp] theorem setReg_ffi (n : Nat) (v : Word) : (c.setReg n v).ffi = c.ffi := by unfold setReg; split <;> rfl
@[simp] theorem setReg_restidx (n : Nat) (v : Word) : (c.setReg n v).restidx = c.restidx := by unfold setReg; split <;> rfl
@[simp] theorem setReg_stepprog (n : Nat) (v : Word) : (c.setReg n v).stepprog = c.stepprog := by unfold setReg; split <;> rfl
@[simp] theorem setReg_rowprog (n : Nat) (v : Word) : (c.setReg n v).rowprog = c.rowprog := by unfold setReg; split <;> rfl
@[simp] theorem setReg_tvec (n : Nat) (v : Word) : (c.setReg n v).tvec = c.tvec := by unfold setReg; split <;> rfl
@[simp] theorem setReg_epc (n : Nat) (v : Word) : (c.setReg n v).epc = c.epc := by unfold setReg; split <;> rfl
@[simp] theorem setReg_spc (n : Nat) (v : Word) : (c.setReg n v).spc = c.spc := by unfold setReg; split <;> rfl
@[simp] theorem setReg_cause (n : Nat) (v : Word) : (c.setReg n v).cause = c.cause := by unfold setReg; split <;> rfl
@[simp] theorem setReg_tval (n : Nat) (v : Word) : (c.setReg n v).tval = c.tval := by unfold setReg; split <;> rfl
@[simp] theorem setReg_tscr (n : Nat) (v : Word) : (c.setReg n v).tscr = c.tscr := by unfold setReg; split <;> rfl
@[simp] theorem setReg_mckind (n : Nat) (v : Word) : (c.setReg n v).mckind = c.mckind := by unfold setReg; split <;> rfl
@[simp] theorem setReg_mclane (n : Nat) (v : Word) : (c.setReg n v).mclane = c.mclane := by unfold setReg; split <;> rfl
@[simp] theorem setReg_mcrow (n : Nat) (v : Word) : (c.setReg n v).mcrow = c.mcrow := by unfold setReg; split <;> rfl
@[simp] theorem setReg_mcop (n : Nat) (v : Word) : (c.setReg n v).mcop = c.mcop := by unfold setReg; split <;> rfl
@[simp] theorem setReg_mcpc (n : Nat) (v : Word) : (c.setReg n v).mcpc = c.mcpc := by unfold setReg; split <;> rfl
@[simp] theorem setReg_rin (n : Nat) (v : Word) : (c.setReg n v).rin = c.rin := by unfold setReg; split <;> rfl
@[simp] theorem setReg_cycle (n : Nat) (v : Word) : (c.setReg n v).cycle = c.cycle := by unfold setReg; split <;> rfl
@[simp] theorem setReg_instret (n : Nat) (v : Word) : (c.setReg n v).instret = c.instret := by unfold setReg; split <;> rfl
@[simp] theorem setReg_timecmp (n : Nat) (v : Word) : (c.setReg n v).timecmp = c.timecmp := by unfold setReg; split <;> rfl
@[simp] theorem setReg_fw (n : Nat) (v : Word) : (c.setReg n v).fw = c.fw := by unfold setReg; split <;> rfl
@[simp] theorem setReg_preReq (n : Nat) (v : Word) : (c.setReg n v).preReq = c.preReq := by unfold setReg; split <;> rfl
@[simp] theorem setReg_sealReq (n : Nat) (v : Word) : (c.setReg n v).sealReq = c.sealReq := by unfold setReg; split <;> rfl
@[simp] theorem setReg_msgReq (n : Nat) (v : Word) : (c.setReg n v).msgReq = c.msgReq := by unfold setReg; split <;> rfl
@[simp] theorem setReg_run (n : Nat) (v : Word) : (c.setReg n v).run = c.run := by unfold setReg; split <;> rfl
@[simp] theorem setReg_task (n : Nat) (v : Word) : (c.setReg n v).task = c.task := by unfold setReg; split <;> rfl
@[simp] theorem setReg_prev (n : Nat) (v : Word) : (c.setReg n v).prev = c.prev := by unfold setReg; split <;> rfl
@[simp] theorem setReg_front (n : Nat) (v : Word) : (c.setReg n v).front = c.front := by unfold setReg; split <;> rfl
@[simp] theorem setReg_resv (n : Nat) (v : Word) : (c.setReg n v).resv = c.resv := by unfold setReg; split <;> rfl
@[simp] theorem setReg_load (n : Nat) (v : Word) : (c.setReg n v).load = c.load := by unfold setReg; split <;> rfl
@[simp] theorem setReg_sbuf (n : Nat) (v : Word) : (c.setReg n v).sbuf = c.sbuf := by unfold setReg; split <;> rfl
@[simp] theorem setReg_older (n : Nat) (v : Word) : (c.setReg n v).older = c.older := by unfold setReg; split <;> rfl
@[simp] theorem setReg_wfi (n : Nat) (v : Word) : (c.setReg n v).wfi = c.wfi := by unfold setReg; split <;> rfl
@[simp] theorem setReg_drn (n : Nat) (v : Word) : (c.setReg n v).drn = c.drn := by unfold setReg; split <;> rfl
@[simp] theorem setReg_grid (n : Nat) (v : Word) : (c.setReg n v).grid = c.grid := by unfold setReg; split <;> rfl
@[simp] theorem setReg_masks (n : Nat) (v : Word) : (c.setReg n v).masks = c.masks := by unfold setReg; split <;> rfl
@[simp] theorem setReg_wins (n : Nat) (v : Word) : (c.setReg n v).wins = c.wins := by unfold setReg; split <;> rfl
@[simp] theorem setReg_awdecl (n : Nat) (v : Word) : (c.setReg n v).awdecl = c.awdecl := by unfold setReg; split <;> rfl
@[simp] theorem setReg_awins (n : Nat) (v : Word) : (c.setReg n v).awins = c.awins := by unfold setReg; split <;> rfl
@[simp] theorem setReg_giq (n : Nat) (v : Word) : (c.setReg n v).giq = c.giq := by unfold setReg; split <;> rfl
@[simp] theorem setReg_flight (n : Nat) (v : Word) : (c.setReg n v).flight = c.flight := by unfold setReg; split <;> rfl
@[simp] theorem setReg_blk (n : Nat) (v : Word) : (c.setReg n v).blk = c.blk := by unfold setReg; split <;> rfl
@[simp] theorem setReg_blkAt (n : Nat) (v : Word) : (c.setReg n v).blkAt = c.blkAt := by unfold setReg; split <;> rfl
@[simp] theorem setReg_queues (n : Nat) (v : Word) : (c.setReg n v).queues = c.queues := by unfold setReg; split <;> rfl
@[simp] theorem setReg_streams (n : Nat) (v : Word) : (c.setReg n v).streams = c.streams := by unfold setReg; split <;> rfl
@[simp] theorem setReg_ctrs (n : Nat) (v : Word) : (c.setReg n v).ctrs = c.ctrs := by unfold setReg; split <;> rfl
@[simp] theorem setReg_openN (n : Nat) (v : Word) : (c.setReg n v).openN = c.openN := by unfold setReg; split <;> rfl
@[simp] theorem setReg_now (n : Nat) (v : Word) : (c.setReg n v).now = c.now := by unfold setReg; split <;> rfl
@[simp] theorem setReg_sealPtr (n : Nat) (v : Word) : (c.setReg n v).sealPtr = c.sealPtr := by unfold setReg; split <;> rfl
@[simp] theorem setReg_spares (n : Nat) (v : Word) : (c.setReg n v).spares = c.spares := by unfold setReg; split <;> rfl
@[simp] theorem setReg_replays (n : Nat) (v : Word) : (c.setReg n v).replays = c.replays := by unfold setReg; split <;> rfl
@[simp] theorem setReg_lastMc (n : Nat) (v : Word) : (c.setReg n v).lastMc = c.lastMc := by unfold setReg; split <;> rfl
@[simp] theorem setReg_frame (n : Nat) (v : Word) : (c.setReg n v).frame = c.frame := by unfold setReg; split <;> rfl
@[simp] theorem setReg_fetched (n : Nat) (v : Word) : (c.setReg n v).fetched = c.fetched := by unfold setReg; split <;> rfl
@[simp] theorem setReg_era (n : Nat) (v : Word) : (c.setReg n v).era = c.era := by unfold setReg; split <;> rfl

@[simp] theorem getReg_zero : c.getReg 0 = 0 := rfl

theorem getReg_setReg_self (n : Nat) (v : Word) (h : n ≠ 0) (hn : n < 32) : (c.setReg n v).getReg n = v := by
  simp [getReg, setReg, h, hn, Vector.getD]

theorem getReg_setReg_ne (n m : Nat) (v : Word) (h : m ≠ n) : (c.setReg n v).getReg m = c.getReg m := by
  unfold getReg setReg
  by_cases hn : n = 0
  · simp [hn]
  · simp [hn, Vector.getD, Ne.symm h]

end Core

end Sys2Proof.Machine
end

