-- ==== Sys2Proof/Laws/Memory.lean ====
section
/-! SUPPORT. Sys2Proof/Laws/Memory.lean: what the memory operations do: reading after writing a list of bytes, which operations
leave the memory list alone, and that each of the others keeps its canonical form. -/

namespace Sys2Proof.Machine

/-! ### Lists of bytes -/

theorem pokeBytes_wf (bs : List Byte) (m : Sp Byte) (pa : Nat) (h : Sp.wf 0 m = true) : Sp.wf 0 (pokeBytes m pa bs) = true := by
  induction bs generalizing m pa with
  | nil => exact h
  | cons b bs ih => exact ih _ _ (Sp.wf_put 0 m pa b h)

theorem get_pokeBytes_out (bs : List Byte) (m : Sp Byte) (pa a : Nat) (h : a < pa ∨ pa + bs.length ≤ a) :
    Sp.get 0 (pokeBytes m pa bs) a = Sp.get 0 m a := by
  induction bs generalizing m pa with
  | nil => rfl
  | cons b bs ih =>
    simp only [List.length_cons] at h
    rw [pokeBytes, ih _ _ (by omega), Sp.get_put_other _ _ _ (by omega)]

theorem get_pokeBytes_in (bs : List Byte) (m : Sp Byte) (pa k : Nat) (hk : k < bs.length) :
    Sp.get 0 (pokeBytes m pa bs) (pa + k) = bs[k] := by
  induction bs generalizing m pa k with
  | nil => simp at hk
  | cons b bs ih =>
    cases k with
    | zero => rw [pokeBytes, get_pokeBytes_out _ _ _ _ (by omega)]; simp
    | succ k =>
      have := ih (Sp.put 0 m pa b) (pa + 1) k (by simpa using hk)
      simpa [pokeBytes, Nat.add_assoc, Nat.add_comm 1 k] using this

/-- Removing entries keeps the canonical form. -/
theorem Sp.wf_filter (f : Nat × Byte → Bool) (m : Sp Byte) (h : Sp.wf 0 m = true) : Sp.wf 0 (m.filter f) = true := by
  simp only [Sp.wf, Bool.and_eq_true, List.all_eq_true] at h ⊢
  refine ⟨?_, fun p hp => h.2 p ((List.mem_filter.1 hp).1)⟩
  have h1 := h.1
  clear h
  induction m with
  | nil => rfl
  | cons p m ih =>
    obtain ⟨j, v⟩ := p
    simp only [Sp.rising, Bool.and_eq_true] at h1
    rw [List.filter_cons]
    split
    · simp only [Sp.rising, Bool.and_eq_true]
      refine ⟨?_, ih h1.2⟩
      rw [Sp.above_iff] at *
      exact fun q hq => h1.1 q ((List.mem_filter.1 hq).1)
    · exact ih h1.2

/-! ### Operations that leave memory alone -/

namespace State

variable (s : State)

@[simp] theorem setCore_mem (n : Nat) (c : Core) : (s.setCore n c).mem = s.mem := by unfold setCore; split <;> rfl

@[simp] theorem modCore_mem (n : Nat) (f : Core → Core) : (s.modCore n f).mem = s.mem := by simp [modCore]

@[simp] theorem modCores_mem (ns : List Nat) (f : Nat → Core → Core) : (s.modCores ns f).mem = s.mem := by
  unfold modCores
  induction ns generalizing s with
  | nil => rfl
  | cons n ns ih => rw [List.foldl_cons, ih]; simp

@[simp] theorem switchTo_mem (n : Nat) : (s.switchTo n).mem = s.mem := by unfold switchTo; split <;> rfl

@[simp] theorem meter_mem (p k n : Nat) : (s.meter p k n).mem = s.mem := rfl

@[simp] theorem meterReads_mem (p : Nat) (l : List Nat) : (s.meterReads p l).mem = s.mem := rfl

@[simp] theorem meterMem_mem (p pa n wr : Nat) : (s.meterMem p pa n wr).mem = s.mem := by unfold meterMem; split <;> rfl

@[simp] theorem breakResv_mem (pa n : Nat) : (s.breakResv pa n).mem = s.mem := by
  simp only [breakResv]
  split <;> rfl

@[simp] theorem logLine_mem (w : Wr) (l : Nat) : (s.logLine w l).mem = s.mem := by unfold logLine; split <;> rfl

@[simp] theorem requestSeals_mem (p : Nat) : (s.requestSeals p).mem = s.mem := by simp [requestSeals]

@[simp] theorem setLstall_mem (p : Nat) : (s.setLstall p).mem = s.mem := by
  simp only [setLstall]
  split <;> simp

@[simp] theorem clearLstall_mem (p : Nat) : (s.clearLstall p).mem = s.mem := rfl

@[simp] theorem sealThreshold_mem (p d n : Nat) : (s.sealThreshold p d n).mem = s.mem := by unfold sealThreshold; split <;> simp

@[simp] theorem setNotices_mem (ns : List Notice) : (s.setNotices ns).mem = s.mem := by
  unfold setNotices
  split <;> simp

@[simp] theorem dropTask_mem (i : Nat) : (s.dropTask i).mem = s.mem := by simp [dropTask]

/-- A core with no store that waits performs none. -/
theorem performStores_none (n : Nat) (h : (s.getCore n).sbuf = []) : s.performStores n = s := by simp [performStores, h]

@[simp] theorem returnFirmware_mem : s.returnFirmware.mem = s.mem := rfl

@[simp] theorem returnRuntime_mem : s.returnRuntime.mem = s.mem := rfl

theorem countActive_mem (dt : Nat) (t : Task) : (s.countActive dt t).mem = s.mem := rfl

@[simp] theorem tick_mem : s.tick.mem = s.mem := by
  have h (ts : List Task) (u : State) (d : Nat) : (ts.foldl (countActive d) u).mem = u.mem := by
    induction ts generalizing u with
    | nil => rfl
    | cons t ts ih => rw [List.foldl_cons, ih]; rfl
  exact h s.tasks s _

/-! ### Operations that write memory -/

@[simp] theorem landBytes_mem (pa : Nat) (bs : List Byte) : (s.landBytes pa bs).mem = pokeBytes s.mem pa bs := by simp [landBytes]

@[simp] theorem landFrom_mem (w : Wr) (pa : Nat) (bs : List Byte) : (s.landFrom w pa bs).mem = pokeBytes s.mem pa bs := by
  unfold landFrom
  split
  · simp
  · split <;> simp

@[simp] theorem dropOlder_mem : s.dropOlder.mem = s.mem := rfl

@[simp] theorem dropOlder_core : s.dropOlder.core = { s.core with older := [] } := rfl

/-- Where loads move with their core a write leaves no older byte, and neither does one that the core's loads are ordered behind. -/
theorem landFrom_eq_landBytes (w : Wr) (pa : Nat) (bs : List Byte) (h : s.lagLoads = false ∨ w.behind = none) :
    s.landFrom w pa bs = s.landBytes pa bs := by
  unfold landFrom
  split
  · rfl
  · next k hk => rcases h with h | h <;> simp_all

/-- What a core holds of older bytes after a write: what it held before, and last the bytes of the range as they stood. -/
theorem mem_olderAfter (k pa n : Nat) (l : List (Nat × Byte)) :
    l ∈ s.olderAfter k pa n ↔ l ∈ (s.getCore k).older ∨ l = (List.range n).map fun i => (pa + i, Sp.get 0 s.mem (pa + i)) := by
  simp [olderAfter]


@[simp] theorem rawWrite_mem (pa : Nat) (bs : List Byte) : (s.rawWrite pa bs).mem = pokeBytes s.mem pa bs := by simp [rawWrite]

/-- The records and requests of a logged write leave memory alone. -/
theorem logLines_mem (w : Wr) (d n : State → Nat → Nat) (ls : List Nat) :
    (ls.foldl (fun s l => (s.logLine w l).sealThreshold w.part (d s l) (n s l)) s).mem = s.mem := by
  induction ls generalizing s with
  | nil => rfl
  | cons l ls ih => rw [List.foldl_cons, ih]; simp

/-- A write either leaves the memory list alone (a fenced die, a held store, no memory) or puts its bytes there. -/
theorem write_mem (w : Wr) (pa : Nat) (bs : List Byte) :
    (s.write w pa bs).mem = s.mem ∨ (s.write w pa bs).mem = pokeBytes s.mem pa bs := by
  unfold write
  split
  · exact .inl rfl
  · split
    · right; simp [logLines_mem s w (fun s l => s.dieOf l) (fun s l => s.occupancy w.part (s.dieOf l))]
    · right; simp [logLines_mem s w (fun s l => s.dieOf l) (fun s l => s.occupancy w.part (s.dieOf l))]
    · right; simp
    · split
      · exact .inl rfl
      · right; simp
    · exact .inl rfl
    · exact .inl rfl

end State

/-! ### The canonical form is kept -/

open Sys2Proof.Safety

variable {s : State}

theorem memoryWf_of_mem {t : State} (h : memoryWf s) (e : t.mem = s.mem) : memoryWf t := by
  simpa [memoryWf, e] using h

theorem memoryWf_landBytes (pa : Nat) (bs : List Byte) (h : memoryWf s) : memoryWf (s.landBytes pa bs) := by
  simpa [memoryWf] using pokeBytes_wf bs _ pa h

theorem memoryWf_rawWrite (pa : Nat) (bs : List Byte) (h : memoryWf s) : memoryWf (s.rawWrite pa bs) :=
  memoryWf_landBytes pa bs h

theorem memoryWf_write (w : Wr) (pa : Nat) (bs : List Byte) (h : memoryWf s) : memoryWf (s.write w pa bs) := by
  rcases s.write_mem w pa bs with e | e
  · exact memoryWf_of_mem h e
  · simpa [memoryWf, e] using pokeBytes_wf bs _ pa h

theorem memoryWf_reset : memoryWf State.reset := by decide

/-- Recording a fault writes at most its record. -/
theorem memoryWf_recordFault (p agent : Nat) (va : Word) (f : PFault) (h : memoryWf s) :
    memoryWf (s.recordFault p agent va f) := by
  unfold State.recordFault
  simp only []
  split
  · split
    · exact memoryWf_of_mem (memoryWf_rawWrite _ _ h) rfl
    · split
      · exact h
      · exact memoryWf_of_mem (memoryWf_rawWrite _ _ h) rfl
  · exact h

/-- The stores of a core that is stopped go through the one operation that writes. -/
theorem memoryWf_performStores (n : Nat) (h : memoryWf s) : memoryWf (s.performStores n) := by
  unfold State.performStores
  split
  · exact h
  · rename_i hb
    clear hb
    refine memoryWf_of_mem (s := (s.getCore n).sbuf.foldl
      (fun s (w : StoreWait) => s.write (s.storeWr n w) w.pa w.bytes) s) ?_ (by simp)
    generalize (s.getCore n).sbuf = ws
    induction ws generalizing s with
    | nil => exact h
    | cons w ws ih => exact ih (memoryWf_write _ _ _ h)

theorem memoryWf_stopTask (t : Task) (cores : List Nat) (stop : Nat → Core → Core) (h : memoryWf s) :
    memoryWf (s.stopTask t cores stop) := by
  refine memoryWf_of_mem (s := cores.foldl State.performStores s) ?_ (by simp [State.stopTask])
  induction cores generalizing s with
  | nil => exact h
  | cons n ns ih => exact ih (memoryWf_performStores n h)

theorem memoryWf_killTask (i : Nat) (h : memoryWf s) : memoryWf (s.killTask i) := by
  unfold State.killTask
  split
  · exact h
  · exact memoryWf_of_mem (memoryWf_stopTask _ _ _ h) rfl

theorem memoryWf_runtimeFault (c : Nat) (v e p : Word) (h : memoryWf s) : memoryWf (s.runtimeFault c v e p) :=
  memoryWf_of_mem (memoryWf_killTask _ (memoryWf_of_mem (memoryWf_performStores s.cur h) (by simp))) rfl

/-- A synchronous trap keeps the canonical form. -/
theorem memoryWf_trapWith {t : State} {blk : List Entry} {code : Nat} {tval epc spc : Word} (h : memoryWf s)
    (ht : s.trapWith blk code tval epc spc = .next t) : memoryWf t := by
  unfold State.trapWith at ht
  split at ht
  · cases ht; exact memoryWf_of_mem h rfl
  · split at ht
    · cases ht; exact memoryWf_runtimeFault _ _ _ _ h
    · cases ht

end Sys2Proof.Machine
end

