-- ==== Sys2Proof/Laws/PerInstr.lean ====
section
/-! SUPPORT. Sys2Proof/Laws/PerInstr.lean: for each instruction, decoding what its encoder gives for a well-formed term gives the term
back, and so does decoding its bytes, whatever follows them; an event has no encoding. -/

namespace Sys2Proof.Laws

open Sys2Proof.Machine (bits)

namespace RoundTrip

/-- What is said of one instruction. -/
def Statement (i : Instr) : Prop :=
  ∀ c : Code, i.wf = true → i.encode = some c → decode c = some i ∧ ∀ r : List Byte, decodeBytes (c.bytes ++ r) = .instr i c

/-- The decoder accepts a well-formed instruction that its row selection finds. -/
theorem of_pick {i : Instr} {c : Code} (hw : i.wf = true) (he : i.encode = some c) (hl : c.lengthBits) (hp : pick c = some i) :
    decode c = some i ∧ ∀ r : List Byte, decodeBytes (c.bytes ++ r) = .instr i c := by
  have hd : decode c = some i := by simp [decode, hp, hw, he]
  exact ⟨hd, fun r => by simp [decodeBytes, codeOfBytes_bytes hl, hd]⟩

/-- An event has no encoding. -/
theorem of_event {i : Instr} (h : i.encode = none) : Statement i := fun c _ he => by rw [h] at he; cases he

end RoundTrip

theorem RoundTrip.add (d a b : Reg) : Statement (.add d a b) := fun _ w h => of_pick w h (by cases h; exact low32 _) <| by
  cases h; simp [pick, pick32, decAlu]
theorem RoundTrip.sub (d a b : Reg) : Statement (.sub d a b) := fun _ w h => of_pick w h (by cases h; exact low32 _) <| by
  cases h; simp [pick, pick32, decAlu]
theorem RoundTrip.and (d a b : Reg) : Statement (.and d a b) := fun _ w h => of_pick w h (by cases h; exact low32 _) <| by
  cases h; simp [pick, pick32, decAlu]
theorem RoundTrip.or (d a b : Reg) : Statement (.or d a b) := fun _ w h => of_pick w h (by cases h; exact low32 _) <| by
  cases h; simp [pick, pick32, decAlu]
theorem RoundTrip.xor (d a b : Reg) : Statement (.xor d a b) := fun _ w h => of_pick w h (by cases h; exact low32 _) <| by
  cases h; simp [pick, pick32, decAlu]
theorem RoundTrip.andn (d a b : Reg) : Statement (.andn d a b) := fun _ w h => of_pick w h (by cases h; exact low32 _) <| by
  cases h; simp [pick, pick32, decAlu]
theorem RoundTrip.orn (d a b : Reg) : Statement (.orn d a b) := fun _ w h => of_pick w h (by cases h; exact low32 _) <| by
  cases h; simp [pick, pick32, decAlu]
theorem RoundTrip.shl (d a b : Reg) : Statement (.shl d a b) := fun _ w h => of_pick w h (by cases h; exact low32 _) <| by
  cases h; simp [pick, pick32, decAlu]
theorem RoundTrip.shr (d a b : Reg) : Statement (.shr d a b) := fun _ w h => of_pick w h (by cases h; exact low32 _) <| by
  cases h; simp [pick, pick32, decAlu]
theorem RoundTrip.sra (d a b : Reg) : Statement (.sra d a b) := fun _ w h => of_pick w h (by cases h; exact low32 _) <| by
  cases h; simp [pick, pick32, decAlu]
theorem RoundTrip.rotl (d a b : Reg) : Statement (.rotl d a b) := fun _ w h => of_pick w h (by cases h; exact low32 _) <| by
  cases h; simp [pick, pick32, decAlu]
theorem RoundTrip.rotr (d a b : Reg) : Statement (.rotr d a b) := fun _ w h => of_pick w h (by cases h; exact low32 _) <| by
  cases h; simp [pick, pick32, decAlu]
theorem RoundTrip.slt (d a b : Reg) : Statement (.slt d a b) := fun _ w h => of_pick w h (by cases h; exact low32 _) <| by
  cases h; simp [pick, pick32, decAlu]
theorem RoundTrip.sltn (d a b : Reg) : Statement (.sltn d a b) := fun _ w h => of_pick w h (by cases h; exact low32 _) <| by
  cases h; simp [pick, pick32, decAlu]
theorem RoundTrip.min (d a b : Reg) : Statement (.min d a b) := fun _ w h => of_pick w h (by cases h; exact low32 _) <| by
  cases h; simp [pick, pick32, decAlu]
theorem RoundTrip.max (d a b : Reg) : Statement (.max d a b) := fun _ w h => of_pick w h (by cases h; exact low32 _) <| by
  cases h; simp [pick, pick32, decAlu]
theorem RoundTrip.minn (d a b : Reg) : Statement (.minn d a b) := fun _ w h => of_pick w h (by cases h; exact low32 _) <| by
  cases h; simp [pick, pick32, decAlu]
theorem RoundTrip.maxn (d a b : Reg) : Statement (.maxn d a b) := fun _ w h => of_pick w h (by cases h; exact low32 _) <| by
  cases h; simp [pick, pick32, decAlu]
theorem RoundTrip.clz (d a : Reg) : Statement (.clz d a) := fun _ w h => of_pick w h (by cases h; exact low32 _) <| by
  cases h; simp [pick, pick32, decAlu]
theorem RoundTrip.ctz (d a : Reg) : Statement (.ctz d a) := fun _ w h => of_pick w h (by cases h; exact low32 _) <| by
  cases h; simp [pick, pick32, decAlu]
theorem RoundTrip.popc (d a : Reg) : Statement (.popc d a) := fun _ w h => of_pick w h (by cases h; exact low32 _) <| by
  cases h; simp [pick, pick32, decAlu]
theorem RoundTrip.clmul (d a b : Reg) : Statement (.clmul d a b) := fun _ w h => of_pick w h (by cases h; exact low32 _) <| by
  cases h; simp [pick, pick32, decAlu]
theorem RoundTrip.clmulh (d a b : Reg) : Statement (.clmulh d a b) := fun _ w h => of_pick w h (by cases h; exact low32 _) <| by
  cases h; simp [pick, pick32, decAlu]
theorem RoundTrip.mul (d a b : Reg) : Statement (.mul d a b) := fun _ w h => of_pick w h (by cases h; exact low32 _) <| by
  cases h; simp [pick, pick32, decMul]
theorem RoundTrip.mulh (d a b : Reg) : Statement (.mulh d a b) := fun _ w h => of_pick w h (by cases h; exact low32 _) <| by
  cases h; simp [pick, pick32, decMul]
theorem RoundTrip.mulhn (d a b : Reg) : Statement (.mulhn d a b) := fun _ w h => of_pick w h (by cases h; exact low32 _) <| by
  cases h; simp [pick, pick32, decMul]
theorem RoundTrip.mulhsn (d a b : Reg) : Statement (.mulhsn d a b) := fun _ w h => of_pick w h (by cases h; exact low32 _) <| by
  cases h; simp [pick, pick32, decMul]
theorem RoundTrip.div (d a b : Reg) : Statement (.div d a b) := fun _ w h => of_pick w h (by cases h; exact low32 _) <| by
  cases h; simp [pick, pick32, decMul]
theorem RoundTrip.divn (d a b : Reg) : Statement (.divn d a b) := fun _ w h => of_pick w h (by cases h; exact low32 _) <| by
  cases h; simp [pick, pick32, decMul]
theorem RoundTrip.rem (d a b : Reg) : Statement (.rem d a b) := fun _ w h => of_pick w h (by cases h; exact low32 _) <| by
  cases h; simp [pick, pick32, decMul]
theorem RoundTrip.remn (d a b : Reg) : Statement (.remn d a b) := fun _ w h => of_pick w h (by cases h; exact low32 _) <| by
  cases h; simp [pick, pick32, decMul]
theorem RoundTrip.fadd (f : FpsF) : Statement (.fadd f) := fun _ w h => of_pick w h (by cases h; exact low32 _) <| by
  cases h; simp [pick, pick32, decFps]
theorem RoundTrip.fsub (f : FpsF) : Statement (.fsub f) := fun _ w h => of_pick w h (by cases h; exact low32 _) <| by
  cases h; simp [pick, pick32, decFps]
theorem RoundTrip.fmul (f : FpsF) : Statement (.fmul f) := fun _ w h => of_pick w h (by cases h; exact low32 _) <| by
  cases h; simp [pick, pick32, decFps]
theorem RoundTrip.fdiv (f : FpsF) : Statement (.fdiv f) := fun _ w h => of_pick w h (by cases h; exact low32 _) <| by
  cases h; simp [pick, pick32, decFps]
theorem RoundTrip.fsqrt (f : FpsF) : Statement (.fsqrt f) := fun _ w h => of_pick w h (by cases h; exact low32 _) <| by
  cases h; simp [pick, pick32, decFps]
theorem RoundTrip.fmin (f : FpsF) : Statement (.fmin f) := fun _ w h => of_pick w h (by cases h; exact low32 _) <| by
  cases h; simp [pick, pick32, decFps]
theorem RoundTrip.fmax (f : FpsF) : Statement (.fmax f) := fun _ w h => of_pick w h (by cases h; exact low32 _) <| by
  cases h; simp [pick, pick32, decFps]
theorem RoundTrip.fma (f : FpsF) : Statement (.fma f) := fun _ w h => of_pick w h (by cases h; exact low32 _) <| by
  cases h; simp [pick, pick32, decFps]
theorem RoundTrip.fneg (f : FpsF) : Statement (.fneg f) := fun _ w h => of_pick w h (by cases h; exact low32 _) <| by
  cases h; simp [pick, pick32, decFps]
theorem RoundTrip.fabs (f : FpsF) : Statement (.fabs f) := fun _ w h => of_pick w h (by cases h; exact low32 _) <| by
  cases h; simp [pick, pick32, decFps]
theorem RoundTrip.feq (f : FpsF) : Statement (.feq f) := fun _ w h => of_pick w h (by cases h; exact low32 _) <| by
  cases h; simp [pick, pick32, decFps]
theorem RoundTrip.flt (f : FpsF) : Statement (.flt f) := fun _ w h => of_pick w h (by cases h; exact low32 _) <| by
  cases h; simp [pick, pick32, decFps]
theorem RoundTrip.fle (f : FpsF) : Statement (.fle f) := fun _ w h => of_pick w h (by cases h; exact low32 _) <| by
  cases h; simp [pick, pick32, decFps]
theorem RoundTrip.fclass (f : FpsF) : Statement (.fclass f) := fun _ w h => of_pick w h (by cases h; exact low32 _) <| by
  cases h; simp [pick, pick32, decFps]
theorem RoundTrip.fcvti (f : FpsF) : Statement (.fcvti f) := fun _ w h => of_pick w h (by cases h; exact low32 _) <| by
  cases h; simp [pick, pick32, decFps]
theorem RoundTrip.fcvtn (f : FpsF) : Statement (.fcvtn f) := fun _ w h => of_pick w h (by cases h; exact low32 _) <| by
  cases h; simp [pick, pick32, decFps]
theorem RoundTrip.fcvtfi (f : FpsF) : Statement (.fcvtfi f) := fun _ w h => of_pick w h (by cases h; exact low32 _) <| by
  cases h; simp [pick, pick32, decFps]
theorem RoundTrip.fcvtfn (f : FpsF) : Statement (.fcvtfn f) := fun _ w h => of_pick w h (by cases h; exact low32 _) <| by
  cases h; simp [pick, pick32, decFps]
theorem RoundTrip.fcvtp (f : FpsF) : Statement (.fcvtp f) := fun _ w h => of_pick w h (by cases h; exact low32 _) <| by
  cases h; simp [pick, pick32, decFps]
theorem RoundTrip.addi (d a : Reg) (imm : BitVec 15) : Statement (.addi d a imm) := fun _ w h => of_pick w h (by cases h; exact low32 _) <| by
  cases h; simp [pick, pick32]
theorem RoundTrip.andi (d a : Reg) (imm : BitVec 12) : Statement (.andi d a imm) := fun _ w h => of_pick w h (by cases h; exact low32 _) <| by
  cases h; simp [pick, pick32, decLogi]
theorem RoundTrip.ori (d a : Reg) (imm : BitVec 12) : Statement (.ori d a imm) := fun _ w h => of_pick w h (by cases h; exact low32 _) <| by
  cases h; simp [pick, pick32, decLogi]
theorem RoundTrip.xori (d a : Reg) (imm : BitVec 12) : Statement (.xori d a imm) := fun _ w h => of_pick w h (by cases h; exact low32 _) <| by
  cases h; simp [pick, pick32, decLogi]
theorem RoundTrip.shli (d a : Reg) (n : BitVec 6) : Statement (.shli d a n) := fun _ w h => of_pick w h (by cases h; exact low32 _) <| by
  cases h; simp [pick, pick32, decLogi]
theorem RoundTrip.shri (d a : Reg) (n : BitVec 6) : Statement (.shri d a n) := fun _ w h => of_pick w h (by cases h; exact low32 _) <| by
  cases h; simp [pick, pick32, decLogi]
theorem RoundTrip.srai (d a : Reg) (n : BitVec 6) : Statement (.srai d a n) := fun _ w h => of_pick w h (by cases h; exact low32 _) <| by
  cases h; simp [pick, pick32, decLogi]
theorem RoundTrip.slti (d a : Reg) (imm : BitVec 12) : Statement (.slti d a imm) := fun _ w h => of_pick w h (by cases h; exact low32 _) <| by
  cases h; simp [pick, pick32, decLogi]
theorem RoundTrip.sltni (d a : Reg) (imm : BitVec 12) : Statement (.sltni d a imm) := fun _ w h => of_pick w h (by cases h; exact low32 _) <| by
  cases h; simp [pick, pick32, decLogi]
theorem RoundTrip.lhi (d : Reg) (imm : BitVec 20) : Statement (.lhi d imm) := fun _ w h => of_pick w h (by cases h; exact low32 _) <| by
  cases h; simp [pick, pick32]
theorem RoundTrip.pcrel (d : Reg) (imm : BitVec 20) : Statement (.pcrel d imm) := fun _ w h => of_pick w h (by cases h; exact low32 _) <| by
  cases h; simp [pick, pick32]
theorem RoundTrip.jal (d : Reg) (imm : BitVec 20) : Statement (.jal d imm) := fun _ w h => of_pick w h (by cases h; exact low32 _) <| by
  cases h; simp [pick, pick32]
theorem RoundTrip.jalr (d a : Reg) (imm : BitVec 15) : Statement (.jalr d a imm) := fun _ w h => of_pick w h (by cases h; exact low32 _) <| by
  cases h; simp [pick, pick32]
theorem RoundTrip.beq (a b : Reg) (imm : BitVec 12) : Statement (.beq a b imm) := fun _ w h => of_pick w h (by cases h; exact low32 _) <| by
  cases h; simp [pick, pick32, decBr]
theorem RoundTrip.bne (a b : Reg) (imm : BitVec 12) : Statement (.bne a b imm) := fun _ w h => of_pick w h (by cases h; exact low32 _) <| by
  cases h; simp [pick, pick32, decBr]
theorem RoundTrip.blt (a b : Reg) (imm : BitVec 12) : Statement (.blt a b imm) := fun _ w h => of_pick w h (by cases h; exact low32 _) <| by
  cases h; simp [pick, pick32, decBr]
theorem RoundTrip.bge (a b : Reg) (imm : BitVec 12) : Statement (.bge a b imm) := fun _ w h => of_pick w h (by cases h; exact low32 _) <| by
  cases h; simp [pick, pick32, decBr]
theorem RoundTrip.bltn (a b : Reg) (imm : BitVec 12) : Statement (.bltn a b imm) := fun _ w h => of_pick w h (by cases h; exact low32 _) <| by
  cases h; simp [pick, pick32, decBr]
theorem RoundTrip.bgen (a b : Reg) (imm : BitVec 12) : Statement (.bgen a b imm) := fun _ w h => of_pick w h (by cases h; exact low32 _) <| by
  cases h; simp [pick, pick32, decBr]
theorem RoundTrip.ldb (d a : Reg) (imm : BitVec 12) : Statement (.ldb d a imm) := fun _ w h => of_pick w h (by cases h; exact low32 _) <| by
  cases h; simp [pick, pick32, decLd]
theorem RoundTrip.ldh (d a : Reg) (imm : BitVec 12) : Statement (.ldh d a imm) := fun _ w h => of_pick w h (by cases h; exact low32 _) <| by
  cases h; simp [pick, pick32, decLd]
theorem RoundTrip.ldw (d a : Reg) (imm : BitVec 12) : Statement (.ldw d a imm) := fun _ w h => of_pick w h (by cases h; exact low32 _) <| by
  cases h; simp [pick, pick32, decLd]
theorem RoundTrip.ldd (d a : Reg) (imm : BitVec 12) : Statement (.ldd d a imm) := fun _ w h => of_pick w h (by cases h; exact low32 _) <| by
  cases h; simp [pick, pick32, decLd]
theorem RoundTrip.ldbn (d a : Reg) (imm : BitVec 12) : Statement (.ldbn d a imm) := fun _ w h => of_pick w h (by cases h; exact low32 _) <| by
  cases h; simp [pick, pick32, decLd]
theorem RoundTrip.ldhn (d a : Reg) (imm : BitVec 12) : Statement (.ldhn d a imm) := fun _ w h => of_pick w h (by cases h; exact low32 _) <| by
  cases h; simp [pick, pick32, decLd]
theorem RoundTrip.ldwn (d a : Reg) (imm : BitVec 12) : Statement (.ldwn d a imm) := fun _ w h => of_pick w h (by cases h; exact low32 _) <| by
  cases h; simp [pick, pick32, decLd]
theorem RoundTrip.stb (b a : Reg) (imm : BitVec 12) : Statement (.stb b a imm) := fun _ w h => of_pick w h (by cases h; exact low32 _) <| by
  cases h; simp [pick, pick32, decSt]
theorem RoundTrip.sth (b a : Reg) (imm : BitVec 12) : Statement (.sth b a imm) := fun _ w h => of_pick w h (by cases h; exact low32 _) <| by
  cases h; simp [pick, pick32, decSt]
theorem RoundTrip.stw (b a : Reg) (imm : BitVec 12) : Statement (.stw b a imm) := fun _ w h => of_pick w h (by cases h; exact low32 _) <| by
  cases h; simp [pick, pick32, decSt]
theorem RoundTrip.std (b a : Reg) (imm : BitVec 12) : Statement (.std b a imm) := fun _ w h => of_pick w h (by cases h; exact low32 _) <| by
  cases h; simp [pick, pick32, decSt]
theorem RoundTrip.amoadd (f : AmoF) : Statement (.amoadd f) := fun _ w h => of_pick w h (by cases h; exact low32 _) <| by
  cases h; simp [pick, pick32, decAmo]
theorem RoundTrip.amoand (f : AmoF) : Statement (.amoand f) := fun _ w h => of_pick w h (by cases h; exact low32 _) <| by
  cases h; simp [pick, pick32, decAmo]
theorem RoundTrip.amoor (f : AmoF) : Statement (.amoor f) := fun _ w h => of_pick w h (by cases h; exact low32 _) <| by
  cases h; simp [pick, pick32, decAmo]
theorem RoundTrip.amoxor (f : AmoF) : Statement (.amoxor f) := fun _ w h => of_pick w h (by cases h; exact low32 _) <| by
  cases h; simp [pick, pick32, decAmo]
theorem RoundTrip.amomin (f : AmoF) : Statement (.amomin f) := fun _ w h => of_pick w h (by cases h; exact low32 _) <| by
  cases h; simp [pick, pick32, decAmo]
theorem RoundTrip.amomax (f : AmoF) : Statement (.amomax f) := fun _ w h => of_pick w h (by cases h; exact low32 _) <| by
  cases h; simp [pick, pick32, decAmo]
theorem RoundTrip.amominn (f : AmoF) : Statement (.amominn f) := fun _ w h => of_pick w h (by cases h; exact low32 _) <| by
  cases h; simp [pick, pick32, decAmo]
theorem RoundTrip.amomaxn (f : AmoF) : Statement (.amomaxn f) := fun _ w h => of_pick w h (by cases h; exact low32 _) <| by
  cases h; simp [pick, pick32, decAmo]
theorem RoundTrip.amoswap (f : AmoF) : Statement (.amoswap f) := fun _ w h => of_pick w h (by cases h; exact low32 _) <| by
  cases h; simp [pick, pick32, decAmo]
theorem RoundTrip.cas (f : AmoF) : Statement (.cas f) := fun _ w h => of_pick w h (by cases h; exact low32 _) <| by
  cases h; simp [pick, pick32, decAmo]
theorem RoundTrip.lr (f : AmoF) : Statement (.lr f) := fun _ w h => of_pick w h (by cases h; exact low32 _) <| by
  cases h; simp [pick, pick32, decAmo]
theorem RoundTrip.sc (f : AmoF) : Statement (.sc f) := fun _ w h => of_pick w h (by cases h; exact low32 _) <| by
  cases h; simp [pick, pick32, decAmo]
theorem RoundTrip.fenceSv (scope : BitVec 3) : Statement (.fenceSv scope) := fun _ w h => of_pick w h (by cases h; exact low32 _) <| by
  cases h; simp [pick, pick32, decFence]
theorem RoundTrip.fenceVs (scope : BitVec 3) : Statement (.fenceVs scope) := fun _ w h => of_pick w h (by cases h; exact low32 _) <| by
  cases h; simp [pick, pick32, decFence]
theorem RoundTrip.fenceVv (scope : BitVec 3) : Statement (.fenceVv scope) := fun _ w h => of_pick w h (by cases h; exact low32 _) <| by
  cases h; simp [pick, pick32, decFence]
theorem RoundTrip.fenceAll (scope : BitVec 3) : Statement (.fenceAll scope) := fun _ w h => of_pick w h (by cases h; exact low32 _) <| by
  cases h; simp [pick, pick32, decFence]
theorem RoundTrip.fenceRetire : Statement .fenceRetire := of_event rfl
theorem RoundTrip.trap (n : BitVec 10) : Statement (.trap n) := fun _ w h => of_pick w h (by cases h; exact low32 _) <| by
  simp only [Instr.wf, Bool.and_eq_true, bne_iff_ne] at w
  have h0 : n ≠ 0x300#10 := fun e => w.1 (e ▸ rfl)
  have h1 : n ≠ 0x301#10 := fun e => w.2 (e ▸ rfl)
  cases h; simp [pick, pick32, decSys, if_neg h0, if_neg h1]
theorem RoundTrip.trapRollback : Statement .trapRollback := fun _ w h => of_pick w h (by cases h; exact low32 _) <| by
  cases h; simp [pick, pick32, decSys]
theorem RoundTrip.trapKill : Statement .trapKill := fun _ w h => of_pick w h (by cases h; exact low32 _) <| by
  cases h; simp [pick, pick32, decSys]
theorem RoundTrip.eret : Statement .eret := fun _ w h => of_pick w h (by cases h; exact low32 _) <| by
  cases h; simp [pick, pick32, decSys]
theorem RoundTrip.wfi : Statement .wfi := fun _ w h => of_pick w h (by cases h; exact low32 _) <| by
  cases h; simp [pick, pick32, decSys]
theorem RoundTrip.csrr (d : Reg) (csr : BitVec 10) : Statement (.csrr d csr) := fun _ w h => of_pick w h (by cases h; exact low32 _) <| by
  cases h; simp [pick, pick32, decSys]
theorem RoundTrip.csrw (d a : Reg) (csr : BitVec 10) : Statement (.csrw d a csr) := fun _ w h => of_pick w h (by cases h; exact low32 _) <| by
  cases h; simp [pick, pick32, decSys]
theorem RoundTrip.csrs (d a : Reg) (csr : BitVec 10) : Statement (.csrs d a csr) := fun _ w h => of_pick w h (by cases h; exact low32 _) <| by
  cases h; simp [pick, pick32, decSys]
theorem RoundTrip.csrc (d a : Reg) (csr : BitVec 10) : Statement (.csrc d a csr) := fun _ w h => of_pick w h (by cases h; exact low32 _) <| by
  cases h; simp [pick, pick32, decSys]
theorem RoundTrip.timecmpWrite (v : Word) : Statement (.timecmpWrite v) := of_event rfl
theorem RoundTrip.giqsaveWrite (v : Word) : Statement (.giqsaveWrite v) := of_event rfl
theorem RoundTrip.seal (a : Reg) : Statement (.seal a) := fun _ w h => of_pick w h (by cases h; exact low32 _) <| by
  cases h; simp [pick, pick32, decSys]
theorem RoundTrip.sealRetire : Statement .sealRetire := of_event rfl
theorem RoundTrip.sealq (d : Reg) : Statement (.sealq d) := fun _ w h => of_pick w h (by cases h; exact low32 _) <| by
  cases h; simp [pick, pick32, decSys]
theorem RoundTrip.irrev : Statement .irrev := fun _ w h => of_pick w h (by cases h; exact low32 _) <| by
  cases h; simp [pick, pick32, decSys]
theorem RoundTrip.irrevRetire : Statement .irrevRetire := of_event rfl
theorem RoundTrip.enq (d a : Reg) (q : BitVec 3) : Statement (.enq d a q) := fun _ w h => of_pick w h (by cases h; exact low32 _) <| by
  cases h; simp [pick, pick32, decSys]
theorem RoundTrip.halt : Statement .halt := fun _ w h => of_pick w h (by cases h; exact low32 _) <| by
  cases h; simp [pick, pick32, decSys]
theorem RoundTrip.haltRetire : Statement .haltRetire := of_event rfl
theorem RoundTrip.gridResetEntry : Statement .gridResetEntry := of_event rfl
theorem RoundTrip.kbound (kd a b : Reg) : Statement (.kbound kd a b) := fun _ w h => of_pick w h (by cases h; exact low32 _) <| by
  cases h; simp [pick, pick32, decKop]
theorem RoundTrip.kand (kd ka kb : Reg) : Statement (.kand kd ka kb) := fun _ w h => of_pick w h (by cases h; exact low32 _) <| by
  cases h; simp [pick, pick32, decKop]
theorem RoundTrip.kor (kd ka kb : Reg) : Statement (.kor kd ka kb) := fun _ w h => of_pick w h (by cases h; exact low32 _) <| by
  cases h; simp [pick, pick32, decKop]
theorem RoundTrip.kxor (kd ka kb : Reg) : Statement (.kxor kd ka kb) := fun _ w h => of_pick w h (by cases h; exact low32 _) <| by
  cases h; simp [pick, pick32, decKop]
theorem RoundTrip.kandn (kd ka kb : Reg) : Statement (.kandn kd ka kb) := fun _ w h => of_pick w h (by cases h; exact low32 _) <| by
  cases h; simp [pick, pick32, decKop]
theorem RoundTrip.knot (kd ka : Reg) : Statement (.knot kd ka) := fun _ w h => of_pick w h (by cases h; exact low32 _) <| by
  cases h; simp [pick, pick32, decKop]
theorem RoundTrip.kmov (kd ka : Reg) : Statement (.kmov kd ka) := fun _ w h => of_pick w h (by cases h; exact low32 _) <| by
  cases h; simp [pick, pick32, decKop]
theorem RoundTrip.kpop (d ka : Reg) : Statement (.kpop d ka) := fun _ w h => of_pick w h (by cases h; exact low32 _) <| by
  cases h; simp [pick, pick32, decKop]
theorem RoundTrip.kfirst (d ka : Reg) : Statement (.kfirst d ka) := fun _ w h => of_pick w h (by cases h; exact low32 _) <| by
  cases h; simp [pick, pick32, decKop]
theorem RoundTrip.kset (kd a b : Reg) : Statement (.kset kd a b) := fun _ w h => of_pick w h (by cases h; exact low32 _) <| by
  cases h; simp [pick, pick32, decKop]
theorem RoundTrip.kgetl (d ka : Reg) : Statement (.kgetl d ka) := fun _ w h => of_pick w h (by cases h; exact low32 _) <| by
  cases h; simp [pick, pick32, decKop]
theorem RoundTrip.kgeth (d ka : Reg) : Statement (.kgeth d ka) := fun _ w h => of_pick w h (by cases h; exact low32 _) <| by
  cases h; simp [pick, pick32, decKop]
theorem RoundTrip.kzero (kd : Reg) : Statement (.kzero kd) := fun _ w h => of_pick w h (by cases h; exact low32 _) <| by
  cases h; simp [pick, pick32, decKop]
theorem RoundTrip.kone (kd : Reg) : Statement (.kone kd) := fun _ w h => of_pick w h (by cases h; exact low32 _) <| by
  cases h; simp [pick, pick32, decKop]
theorem RoundTrip.vadd (f : VBin) : Statement (.vadd f) := fun _ w h => of_pick w h (by cases h; exact low32 _) <| by
  cases h; simp [pick, pick32, vbin, VBin.enc, decValu]
theorem RoundTrip.vsub (f : VBin) : Statement (.vsub f) := fun _ w h => of_pick w h (by cases h; exact low32 _) <| by
  cases h; simp [pick, pick32, vbin, VBin.enc, decValu]
theorem RoundTrip.vmul (f : VBin) : Statement (.vmul f) := fun _ w h => of_pick w h (by cases h; exact low32 _) <| by
  cases h; simp [pick, pick32, vbin, VBin.enc, decValu]
theorem RoundTrip.vfma (f : VBin) : Statement (.vfma f) := fun _ w h => of_pick w h (by cases h; exact low32 _) <| by
  cases h; simp [pick, pick32, vbin, VBin.enc, decValu]
theorem RoundTrip.vfms (f : VBin) : Statement (.vfms f) := fun _ w h => of_pick w h (by cases h; exact low32 _) <| by
  cases h; simp [pick, pick32, vbin, VBin.enc, decValu]
theorem RoundTrip.vmin (f : VBin) : Statement (.vmin f) := fun _ w h => of_pick w h (by cases h; exact low32 _) <| by
  cases h; simp [pick, pick32, vbin, VBin.enc, decValu]
theorem RoundTrip.vmax (f : VBin) : Statement (.vmax f) := fun _ w h => of_pick w h (by cases h; exact low32 _) <| by
  cases h; simp [pick, pick32, vbin, VBin.enc, decValu]
theorem RoundTrip.vabs (f : VUn) : Statement (.vabs f) := fun _ w h => of_pick w h (by cases h; exact low32 _) <| by
  cases h; simp [pick, pick32, vun, VUn.enc, decValu]
theorem RoundTrip.vneg (f : VUn) : Statement (.vneg f) := fun _ w h => of_pick w h (by cases h; exact low32 _) <| by
  cases h; simp [pick, pick32, vun, VUn.enc, decValu]
theorem RoundTrip.vand (f : VBin) : Statement (.vand f) := fun _ w h => of_pick w h (by cases h; exact low32 _) <| by
  cases h; simp [pick, pick32, vbin, VBin.enc, decValu]
theorem RoundTrip.vor (f : VBin) : Statement (.vor f) := fun _ w h => of_pick w h (by cases h; exact low32 _) <| by
  cases h; simp [pick, pick32, vbin, VBin.enc, decValu]
theorem RoundTrip.vxor (f : VBin) : Statement (.vxor f) := fun _ w h => of_pick w h (by cases h; exact low32 _) <| by
  cases h; simp [pick, pick32, vbin, VBin.enc, decValu]
theorem RoundTrip.vshl (f : VBin) : Statement (.vshl f) := fun _ w h => of_pick w h (by cases h; exact low32 _) <| by
  cases h; simp [pick, pick32, vbin, VBin.enc, decValu]
theorem RoundTrip.vshr (f : VBin) : Statement (.vshr f) := fun _ w h => of_pick w h (by cases h; exact low32 _) <| by
  cases h; simp [pick, pick32, vbin, VBin.enc, decValu]
theorem RoundTrip.vsra (f : VBin) : Statement (.vsra f) := fun _ w h => of_pick w h (by cases h; exact low32 _) <| by
  cases h; simp [pick, pick32, vbin, VBin.enc, decValu]
theorem RoundTrip.vsel (f : VBin) : Statement (.vsel f) := fun _ w h => of_pick w h (by cases h; exact low32 _) <| by
  cases h; simp [pick, pick32, vbin, VBin.enc, decValu]
theorem RoundTrip.vclamp (f : VBin) : Statement (.vclamp f) := fun _ w h => of_pick w h (by cases h; exact low32 _) <| by
  cases h; simp [pick, pick32, vbin, VBin.enc, decValu]
theorem RoundTrip.vscale2 (f : VBin) : Statement (.vscale2 f) := fun _ w h => of_pick w h (by cases h; exact low32 _) <| by
  cases h; simp [pick, pick32, vbin, VBin.enc, decValu]
theorem RoundTrip.vclmul (f : VBin) : Statement (.vclmul f) := fun _ w h => of_pick w h (by cases h; exact low32 _) <| by
  cases h; simp [pick, pick32, vbin, VBin.enc, decValu]
theorem RoundTrip.vclmulh (f : VBin) : Statement (.vclmulh f) := fun _ w h => of_pick w h (by cases h; exact low32 _) <| by
  cases h; simp [pick, pick32, vbin, VBin.enc, decValu]
theorem RoundTrip.vcpsgn (f : VBin) : Statement (.vcpsgn f) := fun _ w h => of_pick w h (by cases h; exact low32 _) <| by
  cases h; simp [pick, pick32, vbin, VBin.enc, decValu]
theorem RoundTrip.vcmpEq (f : VCmp) : Statement (.vcmpEq f) := fun _ w h => of_pick w h (by cases h; exact low32 _) <| by
  cases h; simp [pick, pick32, vcmpf, VCmp.enc, decVcmp]
theorem RoundTrip.vcmpNe (f : VCmp) : Statement (.vcmpNe f) := fun _ w h => of_pick w h (by cases h; exact low32 _) <| by
  cases h; simp [pick, pick32, vcmpf, VCmp.enc, decVcmp]
theorem RoundTrip.vcmpLt (f : VCmp) : Statement (.vcmpLt f) := fun _ w h => of_pick w h (by cases h; exact low32 _) <| by
  cases h; simp [pick, pick32, vcmpf, VCmp.enc, decVcmp]
theorem RoundTrip.vcmpLe (f : VCmp) : Statement (.vcmpLe f) := fun _ w h => of_pick w h (by cases h; exact low32 _) <| by
  cases h; simp [pick, pick32, vcmpf, VCmp.enc, decVcmp]
theorem RoundTrip.vcmpGt (f : VCmp) : Statement (.vcmpGt f) := fun _ w h => of_pick w h (by cases h; exact low32 _) <| by
  cases h; simp [pick, pick32, vcmpf, VCmp.enc, decVcmp]
theorem RoundTrip.vcmpGe (f : VCmp) : Statement (.vcmpGe f) := fun _ w h => of_pick w h (by cases h; exact low32 _) <| by
  cases h; simp [pick, pick32, vcmpf, VCmp.enc, decVcmp]
theorem RoundTrip.vcmpUnord (f : VCmp) : Statement (.vcmpUnord f) := fun _ w h => of_pick w h (by cases h; exact low32 _) <| by
  cases h; simp [pick, pick32, vcmpf, VCmp.enc, decVcmp]
theorem RoundTrip.vcmpOrd (f : VCmp) : Statement (.vcmpOrd f) := fun _ w h => of_pick w h (by cases h; exact low32 _) <| by
  cases h; simp [pick, pick32, vcmpf, VCmp.enc, decVcmp]
theorem RoundTrip.vrsum (f : VUn) : Statement (.vrsum f) := fun _ w h => of_pick w h (by cases h; exact low32 _) <| by
  cases h; simp [pick, pick32, vun, VUn.enc, decVred]
theorem RoundTrip.vrmax (f : VUn) : Statement (.vrmax f) := fun _ w h => of_pick w h (by cases h; exact low32 _) <| by
  cases h; simp [pick, pick32, vun, VUn.enc, decVred]
theorem RoundTrip.vrmin (f : VUn) : Statement (.vrmin f) := fun _ w h => of_pick w h (by cases h; exact low32 _) <| by
  cases h; simp [pick, pick32, vun, VUn.enc, decVred]
theorem RoundTrip.vrsumsq (f : VUn) : Statement (.vrsumsq f) := fun _ w h => of_pick w h (by cases h; exact low32 _) <| by
  cases h; simp [pick, pick32, vun, VUn.enc, decVred]
theorem RoundTrip.vcsum (f : VUn) : Statement (.vcsum f) := fun _ w h => of_pick w h (by cases h; exact low32 _) <| by
  cases h; simp [pick, pick32, vun, VUn.enc, decVred]
theorem RoundTrip.vcmax (f : VUn) : Statement (.vcmax f) := fun _ w h => of_pick w h (by cases h; exact low32 _) <| by
  cases h; simp [pick, pick32, vun, VUn.enc, decVred]
theorem RoundTrip.vcmin (f : VUn) : Statement (.vcmin f) := fun _ w h => of_pick w h (by cases h; exact low32 _) <| by
  cases h; simp [pick, pick32, vun, VUn.enc, decVred]
theorem RoundTrip.vcvt (f : VUn) (src : BitVec 5) : Statement (.vcvt f src) := fun _ w h => of_pick w h (by cases h; exact low32 _) <| by
  simp only [Instr.wf, Bool.and_eq_true, decide_eq_true_eq] at w
  cases h; simp [pick, pick32, decVcvt, vun, VUn.enc, w.2]
theorem RoundTrip.vquant (f : VTri) : Statement (.vquant f) := fun _ w h => of_pick w h (by cases h; exact low32 _) <| by
  cases h; simp [pick, pick32, vtri, VTri.enc, decVcvt]
theorem RoundTrip.vdequant (f : VTri) : Statement (.vdequant f) := fun _ w h => of_pick w h (by cases h; exact low32 _) <| by
  cases h; simp [pick, pick32, vtri, VTri.enc, decVcvt]
theorem RoundTrip.vround (f : VTri) : Statement (.vround f) := fun _ w h => of_pick w h (by cases h; exact low32 _) <| by
  cases h; simp [pick, pick32, vtri, VTri.enc, decVcvt]
theorem RoundTrip.vmov (f : VUn) : Statement (.vmov f) := fun _ w h => of_pick w h (by cases h; exact low32 _) <| by
  cases h; simp [pick, pick32, vun, VUn.enc, decVmov]
theorem RoundTrip.vmovOp2 (f : VImm) : Statement (.vmovOp2 f) := fun _ w h => of_pick w h (by cases h; exact low32 _) <| by
  have hf : f.form ≠ 0#2 := by rintro e; simp [Instr.wf, VImm.wf, e] at w
  cases h; simp [pick, pick32, decVmov, vimm, VImm.enc, hf]
theorem RoundTrip.vperm (f : VTri) : Statement (.vperm f) := fun _ w h => of_pick w h (by cases h; exact low32 _) <| by
  cases h; simp [pick, pick32, vtri, VTri.enc, decVmov]
theorem RoundTrip.vslide (f : VBin) : Statement (.vslide f) := fun _ w h => of_pick w h (by cases h; exact low32 _) <| by
  cases h; simp [pick, pick32, vbin, VBin.enc, decVmov]
theorem RoundTrip.vext (f : VBin) : Statement (.vext f) := fun _ w h => of_pick w h (by cases h; exact low32 _) <| by
  cases h; simp [pick, pick32, vbin, VBin.enc, decVmov]
theorem RoundTrip.viota (f : VGen) : Statement (.viota f) := fun _ w h => of_pick w h (by cases h; exact low32 _) <| by
  cases h; simp [pick, pick32, vgen, VGen.enc, decVmov]
theorem RoundTrip.vcompress (f : VUn) : Statement (.vcompress f) := fun _ w h => of_pick w h (by cases h; exact low32 _) <| by
  cases h; simp [pick, pick32, vun, VUn.enc, decVmov]
theorem RoundTrip.vrowi (f : VGen) : Statement (.vrowi f) := fun _ w h => of_pick w h (by cases h; exact low32 _) <| by
  cases h; simp [pick, pick32, vgen, VGen.enc, decVmov]
theorem RoundTrip.vrcp (f : VUn) : Statement (.vrcp f) := fun _ w h => of_pick w h (by cases h; exact low32 _) <| by
  cases h; simp [pick, pick32, vun, VUn.enc, decVspec]
theorem RoundTrip.vsqrt (f : VUn) : Statement (.vsqrt f) := fun _ w h => of_pick w h (by cases h; exact low32 _) <| by
  cases h; simp [pick, pick32, vun, VUn.enc, decVspec]
theorem RoundTrip.vrsqrt (f : VUn) : Statement (.vrsqrt f) := fun _ w h => of_pick w h (by cases h; exact low32 _) <| by
  cases h; simp [pick, pick32, vun, VUn.enc, decVspec]
theorem RoundTrip.vexp2 (f : VUn) : Statement (.vexp2 f) := fun _ w h => of_pick w h (by cases h; exact low32 _) <| by
  cases h; simp [pick, pick32, vun, VUn.enc, decVspec]
theorem RoundTrip.vlog2 (f : VUn) : Statement (.vlog2 f) := fun _ w h => of_pick w h (by cases h; exact low32 _) <| by
  cases h; simp [pick, pick32, vun, VUn.enc, decVspec]
theorem RoundTrip.qld (c a b : Reg) : Statement (.qld c a b) := fun _ w h => of_pick w h (by cases h; exact low32 _) <| by
  cases h; simp [pick, pick32, decQld]
theorem RoundTrip.qldt (c a b : Reg) : Statement (.qldt c a b) := fun _ w h => of_pick w h (by cases h; exact low32 _) <| by
  cases h; simp [pick, pick32, decQld]
theorem RoundTrip.qldff (d c a b : Reg) : Statement (.qldff d c a b) := fun _ w h => of_pick w h (by cases h; exact low32 _) <| by
  cases h; simp [pick, pick32, decQld]
theorem RoundTrip.qldx (xi c a b : Reg) : Statement (.qldx xi c a b) := fun _ w h => of_pick w h (by cases h; exact low32 _) <| by
  cases h; simp [pick, pick32, decQld]
theorem RoundTrip.qldz (c a b : Reg) : Statement (.qldz c a b) := fun _ w h => of_pick w h (by cases h; exact low32 _) <| by
  cases h; simp [pick, pick32, decQld]
theorem RoundTrip.gld (f : GlsS) : Statement (.gld f) := fun _ w h => of_pick w h (by cases h; exact low32 _) <| by
  cases h; simp [pick, pick32, decGls, GlsS.enc]
theorem RoundTrip.gst (f : GlsS) : Statement (.gst f) := fun _ w h => of_pick w h (by cases h; exact low32 _) <| by
  cases h; simp [pick, pick32, decGls, GlsS.enc]
theorem RoundTrip.gldff (f : GlsS) : Statement (.gldff f) := fun _ w h => of_pick w h (by cases h; exact low32 _) <| by
  cases h; simp [pick, pick32, decGls, GlsS.enc]
theorem RoundTrip.gldx (f : GlsX) : Statement (.gldx f) := fun _ w h => of_pick w h (by cases h; exact low32 _) <| by
  cases h; simp [pick, pick32, decGls, GlsX.enc]
theorem RoundTrip.gstx (f : GlsX) : Statement (.gstx f) := fun _ w h => of_pick w h (by cases h; exact low32 _) <| by
  cases h; simp [pick, pick32, decGls, GlsX.enc]
theorem RoundTrip.gstxo (f : GlsX) : Statement (.gstxo f) := fun _ w h => of_pick w h (by cases h; exact low32 _) <| by
  cases h; simp [pick, pick32, decGls, GlsX.enc]
theorem RoundTrip.xfer (c x3 a b : Reg) : Statement (.xfer c x3 a b) := fun _ w h => of_pick w h (by cases h; exact low32 _) <| by
  cases h; simp [pick, pick32, decXfer]
theorem RoundTrip.xferb (c kd : Reg) (w : Win) (km : KField) : Statement (.xferb c kd w km) := fun _ w h => of_pick w h (by cases h; exact low32 _) <| by
  cases h; simp [pick, pick32, decXfer]
theorem RoundTrip.xdz (c x3 a b : Reg) : Statement (.xdz c x3 a b) := fun _ w h => of_pick w h (by cases h; exact low32 _) <| by
  cases h; simp [pick, pick32, decXfer]
theorem RoundTrip.dztab (c : Reg) (n : BitVec 5) (a : Reg) : Statement (.dztab c n a) := fun _ w h => of_pick w h (by cases h; exact low32 _) <| by
  cases h; simp [pick, pick32, decXfer]
theorem RoundTrip.sendRaw (c a : Reg) : Statement (.sendRaw c a) := fun _ w h => of_pick w h (by cases h; exact low32 _) <| by
  cases h; simp [pick, pick32, decXfer, show bits 0#5 0 3 = 0#3 from rfl]
theorem RoundTrip.sendQ8 (c a : Reg) (ef : BitVec 1) : Statement (.sendQ8 c a ef) := fun _ w h => of_pick w h (by cases h; exact low32 _) <| by
  cases h; simp [pick, pick32, decXfer]
theorem RoundTrip.sendQ8w (c a : Reg) (ef : BitVec 1) : Statement (.sendQ8w c a ef) := fun _ w h => of_pick w h (by cases h; exact low32 _) <| by
  cases h; simp [pick, pick32, decXfer]
theorem RoundTrip.sendQ4 (c a : Reg) (ef : BitVec 1) : Statement (.sendQ4 c a ef) := fun _ w h => of_pick w h (by cases h; exact low32 _) <| by
  cases h; simp [pick, pick32, decXfer]
theorem RoundTrip.recv (c a : Reg) : Statement (.recv c a) := fun _ w h => of_pick w h (by cases h; exact low32 _) <| by
  cases h; simp [pick, pick32, decXfer, show bits 0#5 0 1 = 0#1 from rfl]
theorem RoundTrip.recvAdd (c a : Reg) : Statement (.recvAdd c a) := fun _ w h => of_pick w h (by cases h; exact low32 _) <| by
  cases h; simp [pick, pick32, decXfer, show bits 1#5 0 1 = 1#1 from rfl]
theorem RoundTrip.cinc (c a : Reg) : Statement (.cinc c a) := fun _ w h => of_pick w h (by cases h; exact low32 _) <| by
  cases h; simp [pick, pick32, decCnt]
theorem RoundTrip.cwait (c a : Reg) : Statement (.cwait c a) := fun _ w h => of_pick w h (by cases h; exact low32 _) <| by
  cases h; simp [pick, pick32, decCnt]
theorem RoundTrip.cset (c a : Reg) : Statement (.cset c a) := fun _ w h => of_pick w h (by cases h; exact low32 _) <| by
  cases h; simp [pick, pick32, decCnt]
theorem RoundTrip.crd (d c : Reg) : Statement (.crd d c) := fun _ w h => of_pick w h (by cases h; exact low32 _) <| by
  cases h; simp [pick, pick32, decCnt]
theorem RoundTrip.ipost (c a : Reg) : Statement (.ipost c a) := fun _ w h => of_pick w h (by cases h; exact low32 _) <| by
  cases h; simp [pick, pick32, decSync]
theorem RoundTrip.iwait (c a : Reg) : Statement (.iwait c a) := fun _ w h => of_pick w h (by cases h; exact low32 _) <| by
  cases h; simp [pick, pick32, decSync]
theorem RoundTrip.barInit (a b : Reg) : Statement (.barInit a b) := fun _ w h => of_pick w h (by cases h; exact low32 _) <| by
  cases h; simp [pick, pick32, decSync]
theorem RoundTrip.barArrive (d a : Reg) : Statement (.barArrive d a) := fun _ w h => of_pick w h (by cases h; exact low32 _) <| by
  cases h; simp [pick, pick32, decSync]
theorem RoundTrip.barArriveRlx (d a : Reg) : Statement (.barArriveRlx d a) := fun _ w h => of_pick w h (by cases h; exact low32 _) <| by
  cases h; simp [pick, pick32, decSync]
theorem RoundTrip.barWait (a b : Reg) : Statement (.barWait a b) := fun _ w h => of_pick w h (by cases h; exact low32 _) <| by
  cases h; simp [pick, pick32, decSync]
theorem RoundTrip.awin (op : BitVec 2) (aw : BitVec 2) (a b : Reg) : Statement (.awin op aw a b) := fun _ w h => of_pick w h (by cases h; exact low32 _) <| by
  cases h; simp [pick, pick32, decAwin]
theorem RoundTrip.ascat (aw : BitVec 2) (wv wi : Win) (km : KField) : Statement (.ascat aw wv wi km) := fun _ w h => of_pick w h (by cases h; exact low32 _) <| by
  cases h; simp [pick, pick32, decAwin]
theorem RoundTrip.amerge (aw : BitVec 2) : Statement (.amerge aw) := fun _ w h => of_pick w h (by cases h; exact low32 _) <| by
  cases h; simp [pick, pick32, decAwin]
theorem RoundTrip.arel (aw : BitVec 2) : Statement (.arel aw) := fun _ w h => of_pick w h (by cases h; exact low32 _) <| by
  cases h; simp [pick, pick32, decAwin]
theorem RoundTrip.slook (d a : Reg) : Statement (.slook d a) := fun _ w h => of_pick w h (by cases h; exact low32 _) <| by
  cases h; simp [pick, pick32, decStag]
theorem RoundTrip.sins (d a b : Reg) : Statement (.sins d a b) := fun _ w h => of_pick w h (by cases h; exact low32 _) <| by
  cases h; simp [pick, pick32, decStag]
theorem RoundTrip.sinv (a : Reg) : Statement (.sinv a) := fun _ w h => of_pick w h (by cases h; exact low32 _) <| by
  cases h; simp [pick, pick32, decStag]
theorem RoundTrip.hAddi (d : Reg) (imm : BitVec 7) : Statement (.hAddi d imm) := fun _ w h => of_pick w h (by cases h; exact low16 _) <| by
  cases h; simp [pick, pick16]
theorem RoundTrip.hMv (d a : Reg) : Statement (.hMv d a) := fun _ w h => of_pick w h (by cases h; exact low16 _) <| by
  cases h; simp [pick, pick16, encH_low]
theorem RoundTrip.hLdd (d : Reg) (imm : BitVec 7) : Statement (.hLdd d imm) := fun _ w h => of_pick w h (by cases h; exact low16 _) <| by
  cases h; simp [pick, pick16]
theorem RoundTrip.hStd (b : Reg) (imm : BitVec 7) : Statement (.hStd b imm) := fun _ w h => of_pick w h (by cases h; exact low16 _) <| by
  cases h; simp [pick, pick16]
theorem RoundTrip.hBz (a : Reg) (imm : BitVec 7) : Statement (.hBz a imm) := fun _ w h => of_pick w h (by cases h; exact low16 _) <| by
  cases h; simp [pick, pick16]
theorem RoundTrip.hBnz (a : Reg) (imm : BitVec 7) : Statement (.hBnz a imm) := fun _ w h => of_pick w h (by cases h; exact low16 _) <| by
  cases h; simp [pick, pick16]
theorem RoundTrip.hJ (imm : BitVec 12) : Statement (.hJ imm) := fun _ w h => of_pick w h (by cases h; exact low16 _) <| by
  cases h; simp [pick, pick16]
theorem RoundTrip.hCwait (c : Reg) (t : BitVec 7) : Statement (.hCwait c t) := fun _ w h => of_pick w h (by cases h; exact low16 _) <| by
  cases h; simp [pick, pick16]
theorem RoundTrip.wset (f : WsetF) : Statement (.wset f) := fun _ w h => of_pick w h (by cases h; exact low64 _) <| by
  cases h; simp [pick, pick64]
theorem RoundTrip.wrd (w : Win) (d : Reg) : Statement (.wrd w d) := fun _ w h => of_pick w h (by cases h; exact low64 _) <| by
  cases h; simp [pick, pick64]
theorem RoundTrip.ofill (w : Win) (km : KField) (ty : BitVec 4) (v : BitVec 32) : Statement (.ofill w km ty v) := fun _ w h => of_pick w h (by cases h; exact low64 _) <| by
  cases h; simp [pick, pick64]
theorem RoundTrip.gcopy (f : CopyF) : Statement (.gcopy f) := fun _ w h => of_pick w h (by cases h; exact low64 _) <| by
  cases h; simp [pick, pick64]
theorem RoundTrip.gtrans (f : CopyF) : Statement (.gtrans f) := fun _ w h => of_pick w h (by cases h; exact low64 _) <| by
  cases h; simp [pick, pick64]
theorem RoundTrip.gsave (f : GimF) : Statement (.gsave f) := fun _ w h => of_pick w h (by cases h; exact low64 _) <| by
  cases h; simp [pick, pick64]
theorem RoundTrip.grest (f : GimF) : Statement (.grest f) := fun _ w h => of_pick w h (by cases h; exact low64 _) <| by
  cases h; simp [pick, pick64]
theorem RoundTrip.oacc (f : OaccF) : Statement (.oacc f) := fun _ w h => of_pick w h (by cases h; exact low64 _) <| by
  cases h; simp [pick, pick64]
theorem RoundTrip.giqDeparture : Statement .giqDeparture := of_event rfl
theorem RoundTrip.windowPipeVector (chk : Check) : Statement (.windowPipeVector chk) := of_event rfl
theorem RoundTrip.scalarLoadReturn : Statement .scalarLoadReturn := of_event rfl
theorem RoundTrip.oaccStep (chk : Check) : Statement (.oaccStep chk) := of_event rfl
theorem RoundTrip.streamStep (q : BitVec 3) (chk : Check) : Statement (.streamStep q chk) := of_event rfl
theorem RoundTrip.engineAccept (kind : EngKind) : Statement (.engineAccept kind) := of_event rfl
theorem RoundTrip.engineComplete (id : Nat) : Statement (.engineComplete id) := of_event rfl
theorem RoundTrip.engineRuntimeFault (id : Nat) (chk : Check) : Statement (.engineRuntimeFault id chk) := of_event rfl
theorem RoundTrip.cwaitSatisfied : Statement .cwaitSatisfied := of_event rfl
theorem RoundTrip.ipostApply : Statement .ipostApply := of_event rfl
theorem RoundTrip.iwaitSatisfied : Statement .iwaitSatisfied := of_event rfl
theorem RoundTrip.barWaitSatisfied : Statement .barWaitSatisfied := of_event rfl
theorem RoundTrip.barrierRemoteOp (op : BarOp) (vaddr : Word) (asker : BarFrom) : Statement (.barrierRemoteOp op vaddr asker) := of_event rfl
theorem RoundTrip.giqFaultTrap : Statement .giqFaultTrap := of_event rfl
theorem RoundTrip.asyncTrap : Statement .asyncTrap := of_event rfl
theorem RoundTrip.timerExpiry : Statement .timerExpiry := of_event rfl
theorem RoundTrip.absentRowFetch (half : BitVec 1) (row : BitVec 7) : Statement (.absentRowFetch half row) := of_event rfl
theorem RoundTrip.pageWalk (va : Word) : Statement (.pageWalk va) := of_event rfl
theorem RoundTrip.hostAnswer (part : Nat) (tag value : Word) : Statement (.hostAnswer part tag value) := of_event rfl
theorem RoundTrip.invalidation (part : Nat) (ctl : Word) : Statement (.invalidation part ctl) := of_event rfl
theorem RoundTrip.invalidationComplete (part : Nat) : Statement (.invalidationComplete part) := of_event rfl
theorem RoundTrip.queueEnable (part q : Nat) (ctl : Word) : Statement (.queueEnable part q ctl) := of_event rfl
theorem RoundTrip.queueDestroy (part q : Nat) (ctl : Word) : Statement (.queueDestroy part q ctl) := of_event rfl
theorem RoundTrip.tailWrite (part q : Nat) (v : Word) : Statement (.tailWrite part q v) := of_event rfl
theorem RoundTrip.recordFetch (part q : Nat) : Statement (.recordFetch part q) := of_event rfl
theorem RoundTrip.waitPoll (part q : Nat) : Statement (.waitPoll part q) := of_event rfl
theorem RoundTrip.reserveAttempt (die : Nat) : Statement (.reserveAttempt die) := of_event rfl
theorem RoundTrip.reserveAgeExpiry (part q : Nat) : Statement (.reserveAgeExpiry part q) := of_event rfl
theorem RoundTrip.taskDispatch (part q : Nat) : Statement (.taskDispatch part q) := of_event rfl
theorem RoundTrip.preemptDrain : Statement .preemptDrain := of_event rfl
theorem RoundTrip.preemptSave : Statement .preemptSave := of_event rfl
theorem RoundTrip.preemptGone : Statement .preemptGone := of_event rfl
theorem RoundTrip.taskResume (task : BitVec 32) : Statement (.taskResume task) := of_event rfl
theorem RoundTrip.kill (task : BitVec 32) : Statement (.kill task) := of_event rfl
theorem RoundTrip.sealAgentArrive (die : Nat) (n : Word) : Statement (.sealAgentArrive die n) := of_event rfl
theorem RoundTrip.arrive (dev : Nat) (n : Word) (sealed : Bool) : Statement (.arrive dev n sealed) := of_event rfl
theorem RoundTrip.commit (n : Word) : Statement (.commit n) := of_event rfl
theorem RoundTrip.logStallTimeout : Statement .logStallTimeout := of_event rfl
theorem RoundTrip.holdStallTimeout : Statement .holdStallTimeout := of_event rfl
theorem RoundTrip.domainFault (cause : Nat) (unit : Option FencedUnit) : Statement (.domainFault cause unit) := of_event rfl
theorem RoundTrip.rollback (d : Word) : Statement (.rollback d) := of_event rfl
theorem RoundTrip.rollbackRestore (die : Nat) : Statement (.rollbackRestore die) := of_event rfl
theorem RoundTrip.rollbackClean : Statement .rollbackClean := of_event rfl
theorem RoundTrip.rollbackReport : Statement .rollbackReport := of_event rfl
theorem RoundTrip.resume : Statement .resume := of_event rfl
theorem RoundTrip.laneSparing (lane : BitVec 7) : Statement (.laneSparing lane) := of_event rfl
theorem RoundTrip.poison (unit : Nat) : Statement (.poison unit) := of_event rfl
theorem RoundTrip.dieFence (die : Nat) : Statement (.dieFence die) := of_event rfl
theorem RoundTrip.domainFaultReport (dev cause : Nat) : Statement (.domainFaultReport dev cause) := of_event rfl
theorem RoundTrip.rollbackDone (dev : Nat) : Statement (.rollbackDone dev) := of_event rfl
theorem RoundTrip.flitTransmit (id : Nat) : Statement (.flitTransmit id) := of_event rfl
theorem RoundTrip.flitReceive (f : FlitIn) : Statement (.flitReceive f) := of_event rfl
theorem RoundTrip.replayRequest (link seq : Nat) : Statement (.replayRequest link seq) := of_event rfl
theorem RoundTrip.linkRetrain (link : Nat) : Statement (.linkRetrain link) := of_event rfl
theorem RoundTrip.linkLost (link : Nat) : Statement (.linkLost link) := of_event rfl
theorem RoundTrip.linkUp (link peer : Nat) : Statement (.linkUp link peer) := of_event rfl
theorem RoundTrip.credit (id : Nat) (peer : List Byte) : Statement (.credit id peer) := of_event rfl
theorem RoundTrip.cancelNotice (id : Nat) : Statement (.cancelNotice id) := of_event rfl
theorem RoundTrip.retrainStart (link : Nat) : Statement (.retrainStart link) := of_event rfl
theorem RoundTrip.msgbell (part : Nat) (v : Word) : Statement (.msgbell part v) := of_event rfl
theorem RoundTrip.msgack (v : Word) : Statement (.msgack v) := of_event rfl
theorem RoundTrip.outbell (v : Word) : Statement (.outbell v) := of_event rfl
theorem RoundTrip.mreset (part : Nat) (v : Word) : Statement (.mreset part v) := of_event rfl
theorem RoundTrip.partitionReset (part : Nat) : Statement (.partitionReset part) := of_event rfl
theorem RoundTrip.partitionTeardown (part : Nat) : Statement (.partitionTeardown part) := of_event rfl
theorem RoundTrip.resetDrain (part : Nat) : Statement (.resetDrain part) := of_event rfl
theorem RoundTrip.resetFlush (part : Nat) : Statement (.resetFlush part) := of_event rfl
theorem RoundTrip.resetScrub (part : Nat) : Statement (.resetScrub part) := of_event rfl
theorem RoundTrip.resetFree (part : Nat) : Statement (.resetFree part) := of_event rfl
theorem RoundTrip.energyApportion (die : Nat) (mj : Nat) : Statement (.energyApportion die mj) := of_event rfl
theorem RoundTrip.hostMemAccess (pa : Word) (acc : HostAcc) : Statement (.hostMemAccess pa acc) := of_event rfl
theorem RoundTrip.registerWrite (pa v : Word) : Statement (.registerWrite pa v) := of_event rfl
theorem RoundTrip.packageReset (image : List Byte) : Statement (.packageReset image) := of_event rfl
theorem RoundTrip.getVersion : Statement .getVersion := of_event rfl
theorem RoundTrip.getCapabilities : Statement .getCapabilities := of_event rfl
theorem RoundTrip.negotiateAlgorithms (offered : Bool) : Statement (.negotiateAlgorithms offered) := of_event rfl
theorem RoundTrip.getDigests : Statement .getDigests := of_event rfl
theorem RoundTrip.getCertificate (slot : Nat) : Statement (.getCertificate slot) := of_event rfl
theorem RoundTrip.challenge (nonce : List Byte) : Statement (.challenge nonce) := of_event rfl
theorem RoundTrip.getMeasurements (nonce : List Byte) : Statement (.getMeasurements nonce) := of_event rfl
theorem RoundTrip.keyExchange (nonce : List Byte) : Statement (.keyExchange nonce) := of_event rfl
theorem RoundTrip.finish (session : Nat) (mac : List Byte) : Statement (.finish session mac) := of_event rfl
theorem RoundTrip.heartbeat (session : Nat) : Statement (.heartbeat session) := of_event rfl
theorem RoundTrip.keyUpdate (session : Nat) : Statement (.keyUpdate session) := of_event rfl
theorem RoundTrip.endSession (session : Nat) : Statement (.endSession session) := of_event rfl

end Sys2Proof.Laws
end

