-- ==== Sys2Proof/Laws/Recovery.lean ====
section
/-! SUPPORT. Sys2Proof/Laws/Recovery.lean: the operations of recovery, of a partition's scrub and of pre-emption that change memory
keep its canonical form. -/

namespace Sys2Proof.Machine

open Sys2Proof.Safety

variable {s : State}

theorem memoryWf_restoreLine (r : UndoRec) (h : memoryWf s) : memoryWf (s.restoreLine r) := pokeBytes_wf r.old _ r.line h

/-- A fold over operations that each keep the form keeps it. -/
theorem memoryWf_foldl {α : Type} (f : State → α → State) (hf : ∀ s a, memoryWf s → memoryWf (f s a)) (l : List α) (s : State)
    (h : memoryWf s) : memoryWf (l.foldl f s) := by
  induction l generalizing s with
  | nil => exact h
  | cons a l ih => exact ih _ (hf s a h)

theorem memoryWf_restoreDie (die : Nat) (h : memoryWf s) : memoryWf (s.restoreDie die) :=
  memoryWf_foldl State.restoreLine (fun _ r h => memoryWf_restoreLine r h) _ s h

theorem memoryWf_zeroSpad (lo n : Nat) (h : memoryWf s) : memoryWf (s.zeroSpad lo n) := by
  simpa [memoryWf, State.zeroSpad] using Sp.wf_filter _ _ h

theorem memoryWf_releaseUnits (p : Nat) (h : memoryWf s) : memoryWf (s.releaseUnits p) := by
  simpa [memoryWf, State.releaseUnits] using Sp.wf_filter _ _ h

theorem memoryWf_putSpad (p : SavedSpad × List TagEnt) (h : memoryWf s) : memoryWf (s.putSpad p) := by
  have put (lo : Nat) (l : Sp Byte) (m : Sp Byte) (hm : Sp.wf 0 m = true) :
      Sp.wf 0 (l.foldl (fun m b => Sp.put 0 m (lo + b.1) b.2) m) = true := by
    induction l generalizing m with
    | nil => exact hm
    | cons b l ih => exact ih _ (Sp.wf_put 0 m _ _ hm)
  exact put _ _ _ (memoryWf_zeroSpad _ _ h)

end Sys2Proof.Machine
end

