-- ==== Sys2Proof/Laws/Slot.lean ====
section
/-! SUPPORT. Sys2Proof/Laws/Slot.lean: what the operations do that every instruction shares: issue in slot A and slot B, dispatch,
the moves of a paced grid side, traps and returns. -/

namespace Sys2Proof.Machine

open Sys2Proof.Safety

namespace State

variable (s : State)

/-! ### Slot A -/

theorem any_pending_of_clear {s : State} {rs : List Reg} (h : Clear s rs) : (rs.any fun r => s.core.pendingReg r.toNat) = false := by
  simpa [List.any_eq_false] using h

/-- A slot-A instruction whose registers are not pending issues. -/
theorem slotA_of_clear {rs : List Reg} (h : Clear s rs) (k : State → Out) : s.slotA rs k = k s := by
  simp [slotA, any_pending_of_clear h]

/-- With a pending register it stalls. -/
theorem slotA_of_pending {rs : List Reg} {r : Reg} (hr : r ∈ rs) (h : s.core.pendingReg r.toNat = true) (k : State → Out) :
    s.slotA rs k = .next s := by
  have : (rs.any fun r => s.core.pendingReg r.toNat) = true := List.any_eq_true.2 ⟨r, hr, h⟩
  simp [slotA, this]

/-- Whatever it does, a slot-A instruction either stalls or does its work. -/
theorem slotA_cases (rs : List Reg) (k : State → Out) : s.slotA rs k = .next s ∨ s.slotA rs k = k s := by
  unfold slotA
  split
  · exact .inl rfl
  · exact .inr rfl

theorem slotAWrite_of_clear {rs : List Reg} {d : Reg} (h : Clear s (d :: rs)) (v : Word) (len : Nat) :
    s.slotAWrite rs d v len = .next ((s.setReg d v).advance len) := by
  simp only [slotAWrite, slotA_of_clear s h]

/-- The next state of a slot-A write: the same state, or the register written and the pc moved on. -/
theorem slotAWrite_cases {rs : List Reg} {d : Reg} {v : Word} {len : Nat} {t : State} (h : s.slotAWrite rs d v len = .next t) :
    t = s ∨ t = (s.setReg d v).advance len := by
  unfold slotAWrite at h
  rcases s.slotA_cases (d :: rs) (fun s => .next ((s.setReg d v).advance len)) with e | e <;> rw [e] at h <;> cases h
  · exact .inl rfl
  · exact .inr rfl

/-! ### Slot B -/

/-- A slot-B instruction that may dispatch writes its entry, and then whatever moves at once goes on. -/
theorem slotB_of_mayDispatch {rs : List Reg} (h : MayDispatch s rs) (i : Instr) (len : Nat) (op : GOp) :
    s.slotB i rs len (some op) = (dispatched s op i len).andPump := by
  simp only [slotB, any_pending_of_clear h.1, h.2]
  rfl

/-- A full GIQ stalls it. -/
theorem slotB_of_full {rs : List Reg} (hc : Clear s rs) (h : s.core.giqFull = true) (i : Instr) (len : Nat) (op : GOp) :
    s.slotB i rs len (some op) = .next s := by
  simp [slotB, any_pending_of_clear hc, h]

/-- An illegal operand traps. -/
theorem slotB_illegal {rs : List Reg} (hc : Clear s rs) (i : Instr) (len : Nat) :
    s.slotB i rs len none = s.trapA 0x02 (rawBits i) := by
  simp [slotB, any_pending_of_clear hc]

/-! ### The paced grid side -/

/-- Where the grid side and the engines are paced, nothing moves at once. -/
theorem pumpAll_of_paced (h : Paced s) : s.pumpAll = (s, none) := by simp [pumpAll, h.1, h.2]

theorem andPump_of_paced (h : Paced s) : s.andPump = .next s := by simp [andPump, pumpAll_of_paced s h]

theorem dispatched_paced {s : State} (h : Paced s) (op : GOp) (i : Instr) (len : Nat) : Paced (dispatched s op i len) := h

/-- Dispatch on a paced core only writes the entry. -/
theorem slotB_of_paced {rs : List Reg} (h : MayDispatch s rs) (hp : Paced s) (i : Instr) (len : Nat) (op : GOp) :
    s.slotB i rs len (some op) = .next (dispatched s op i len) := by
  rw [slotB_of_mayDispatch s h, andPump_of_paced _ (dispatched_paced hp op i len)]

/-! ### Traps -/

theorem trapA_of_drained (h : s.core.drained = true) (code : Nat) (tval : Word) : s.trapA code tval = s.trap code tval := by
  simp [trapA, h]

/-- A synchronous trap at task level enters runtime level. -/
theorem trap_of_task (h : s.pl = 0) (code : Nat) (tval : Word) :
    s.trap code tval =
      .next (s.updCore fun c => { c.enterRuntime false code tval s.core.pc s.core.pc with blk := [], giq := [], flight := [] }) := by
  simp [trap, trapWith, h]

/-- At runtime level it ends the core's task. -/
theorem trap_of_runtime (h : s.pl = 1) (code : Nat) (tval : Word) :
    s.trap code tval = .next (s.runtimeFault code tval s.core.pc s.core.pc) := by
  simp [trap, trapWith, h]

/-- A load whose data moves with its core reads memory as it stands. -/
theorem loadData_at_once (h : s.lagLoads = false) (pa n : Nat) : s.loadData pa n = (s, s.scalarData pa n) := by simp [loadData, h]

/-- A load that meets no older byte reads memory as it stands. -/
theorem loadData_no_older (pa n : Nat) (o : s.olderOf pa n = []) : s.loadData pa n = (s, s.scalarData pa n) := by simp [loadData, o]

end State

/-! ### What entry into runtime level leaves (R109) -/

section

variable (c : Core) (a : Bool) (n : Nat) (v e p : Word)

@[simp] theorem enterRuntime_regs : (c.enterRuntime a n v e p).regs = c.regs := rfl
@[simp] theorem enterRuntime_flags : (c.enterRuntime a n v e p).flags = c.flags := rfl
@[simp] theorem enterRuntime_grid : (c.enterRuntime a n v e p).grid = c.grid := rfl
@[simp] theorem enterRuntime_masks : (c.enterRuntime a n v e p).masks = c.masks := rfl
@[simp] theorem enterRuntime_tval : (c.enterRuntime a n v e p).tval = v := rfl
@[simp] theorem enterRuntime_cause :
    (c.enterRuntime a n v e p).cause = BitVec.ofNat 64 ((if a then 2 ^ 63 else 0) + n) := rfl

end

end Sys2Proof.Machine
end

