-- ==== Sys2Proof/Tests/Slice0.lean ====
section
/-! SUPPORT. Sys2Proof/Tests/Slice0.lean: the model's own tests. Expected values come from the spec's tables, worked cases and
layouts, or are worked out by hand from its pseudocode. The `test_met_…` theorems show a state and operands that meet the
hypotheses of an obligation, clause by clause, and where it is cheap what the instruction then does. -/

namespace Sys2Proof.Tests

set_option maxRecDepth 8000
set_option Elab.async false

open Sys2Proof.Machine Sys2Proof.Safety

/-! ### Helpers -/

/-- Does an outcome give a next state with a property. -/
def ran (o : Out) (p : State → Bool) : Bool := match o with | .next t => p t | .fault _ => false | .refused _ => false

/-- The machine after reset with a changed core. -/
def cored (f : Core → Core) : State := { State.reset with core := f Core.init }

/-- The core runs at a level, with a pc and a trap vector. -/
def atLevel (l : Nat) (c : Core) : Core := { c with status := BitVec.ofNat 64 l, run := .running, pc := 0x1000, tvec := 0x8000 }

/-- x1 and x2 hold two values at task level. -/
def regs2 (x y : Word) : State := cored fun c => ((atLevel 0 c).setReg 1 x).setReg 2 y

/-- What x3 holds after an instruction on x1 and x2. -/
def gives (i : Instr) (x y v : Word) : Bool := ran (exec i (regs2 x y)) fun t => t.reg 3 == v && t.core.pc == 0x1004

/-- An entry that has left the GIQ. -/
def out (op : GOp) : Entry := { op := op, ord := 0, pc := 0x900, word := 0, st := {}, pl := 0 }

/-- A core at task level with one entry outside the GIQ and nothing else outstanding. -/
def alone (op : GOp) : State := cored fun c => { atLevel 0 c with flight := [out op] }

/-- A task of partition 0 with number 7 on some cores. -/
def gang (cores : List Nat) (st : TaskState) : Task :=
  { id := 7, part := 0, queue := 0, recAt := 0, recd := RecFields.zero, order := 0, entered := 0, aged := false, cls := 1, preempt := true,
    runahd := false, member := false, place := 0, cores := cores, entry := 0x4000, argp := 0, args := [5, 6], spad := 0, nb := 0,
    nw := 4, done := 0, resume := 0, waits := [], resv := [], copies := [], bars := [], chans := [], tables := [], halted := [],
    state := st, saved := [], spads := [], frames := [], cycles := 0, pend := [], ptrs := [], epoch := 0 }

/-- Core 0 runs the task 7. -/
def tasked (s : State) : State :=
  { s with core := { s.core with task := some 7 }, tasks := [gang [s.cur] .running] }

theorem noAbsent_of_empty (s : State) (h : s.core.grid = []) : NoAbsent s := by
  intro half r
  simp [h, Grid.row, Sp.get, GridRow.init]

/-! ### Well-formedness: an ill-formed term for each check -/

theorem test_wf_refuses :
    (Instr.fadd ⟨0, 6, 1, 2, 3⟩).wf = false ∧ (Instr.feq ⟨0, 1, 1, 2, 3⟩).wf = false ∧
    (Instr.fsqrt ⟨0, 0, 1, 2, 3⟩).wf = false ∧ (Instr.fneg ⟨0, 0, 1, 2, 3⟩).wf = false ∧
    (Instr.amoadd ⟨5, 0, 0, 1, 2, 3⟩).wf = false ∧ (Instr.lr ⟨0, 0, 0, 1, 2, 3⟩).wf = false ∧
    (Instr.lr ⟨0, 0, 2, 0, 2, 3⟩).wf = false ∧ (Instr.sc ⟨0, 0, 1, 1, 2, 3⟩).wf = false ∧
    (Instr.fenceAll 5).wf = false ∧ (Instr.trap 0x300).wf = false ∧ (Instr.csrr 1 0x00B).wf = false ∧
    (Instr.kbound 24 1 2).wf = false ∧ (Instr.kand 1 24 2).wf = false ∧ (Instr.knot 1 24).wf = false ∧
    (Instr.kpop 1 24).wf = false ∧ (Instr.vadd ⟨1, 2, 3, 24, 0, 0⟩).wf = false ∧ (Instr.vadd ⟨1, 2, 3, 0, 3, 0⟩).wf = false ∧
    (Instr.vadd ⟨1, 2, 3, 0, 0, 12⟩).wf = false ∧ (Instr.vsel ⟨1, 2, 3, 31, 0, 0⟩).wf = false ∧
    (Instr.vabs ⟨2, 3, 30, 0⟩).wf = false ∧ (Instr.vcmpEq ⟨1, 2, 24, 0, 0, 0⟩).wf = false ∧
    (Instr.vcvt ⟨2, 3, 0, 0⟩ 12).wf = false ∧ (Instr.vround ⟨6, 2, 3, 0, 0⟩).wf = false ∧
    (Instr.vmovOp2 ⟨1, 3, 0, 0, 0⟩).wf = false ∧ (Instr.vslide ⟨1, 2, 3, 0, 0, 0⟩).wf = false ∧
    (Instr.viota ⟨3, 0, 13⟩).wf = false ∧ (Instr.vquant ⟨0, 2, 3, 29, 0⟩).wf = false ∧
    (Instr.qld 8 1 2).wf = false ∧ (Instr.qld 0 1 3).wf = false ∧ (Instr.qld 0 1 0).wf = false ∧
    (Instr.gld ⟨3, 0, 1, 2, 0⟩).wf = false ∧ (Instr.gldx ⟨0, 0, 1, 2, 25⟩).wf = false ∧
    (Instr.xferb 0 24 1 0).wf = false ∧ (Instr.dztab 0 4 1).wf = false ∧ (Instr.ipost 8 1).wf = false ∧
    (Instr.ascat 0 1 2 27).wf = false ∧ (Instr.hAddi 0 1).wf = false ∧ (Instr.hMv 0 1).wf = false ∧
    (Instr.wset ⟨0, 0, 0, 0, 0, 0, 0⟩).wf = false ∧ (Instr.wset ⟨1, 0, 0, 3, 0, 0, 0⟩).wf = false ∧
    (Instr.ofill 0 0 12 0).wf = false ∧ (Instr.ofill 0 0 9 0x100).wf = false ∧
    (Instr.oacc ⟨0, 2, 0, 0, 0, 0, 0, 0, 0, 0, 0, 0, 0⟩).wf = false ∧ (Instr.oacc ⟨4, 0, 0, 0, 0, 0, 0, 0, 0, 0, 0, 0, 0⟩).wf = false ∧
    (Instr.oacc ⟨0, 0, 0, 28, 0, 0, 0, 0, 0, 0, 0, 0, 0⟩).wf = false := by decide +kernel

/-! ### Decoding: the word of every instruction, written out field by field from R34 to R51 -/

theorem test_decode_alu :
    decode (.w 0b0000000000_10101_00110_01100_00001_01) = some (.add 12 6 21) ∧
    decode (.w 0b0000000001_10101_00110_01100_00001_01) = some (.sub 12 6 21) ∧
    decode (.w 0b0000000010_10101_00110_01100_00001_01) = some (.and 12 6 21) ∧
    decode (.w 0b0000000011_10101_00110_01100_00001_01) = some (.or 12 6 21) ∧
    decode (.w 0b0000000100_10101_00110_01100_00001_01) = some (.xor 12 6 21) ∧
    decode (.w 0b0000000101_10101_00110_01100_00001_01) = some (.andn 12 6 21) ∧
    decode (.w 0b0000000110_10101_00110_01100_00001_01) = some (.orn 12 6 21) ∧
    decode (.w 0b0000000111_10101_00110_01100_00001_01) = some (.shl 12 6 21) ∧
    decode (.w 0b0000001000_10101_00110_01100_00001_01) = some (.shr 12 6 21) ∧
    decode (.w 0b0000001001_10101_00110_01100_00001_01) = some (.sra 12 6 21) ∧
    decode (.w 0b0000001010_10101_00110_01100_00001_01) = some (.rotl 12 6 21) ∧
    decode (.w 0b0000001011_10101_00110_01100_00001_01) = some (.rotr 12 6 21) ∧
    decode (.w 0b0000001100_10101_00110_01100_00001_01) = some (.slt 12 6 21) ∧
    decode (.w 0b0000001101_10101_00110_01100_00001_01) = some (.sltn 12 6 21) ∧
    decode (.w 0b0000001110_10101_00110_01100_00001_01) = some (.min 12 6 21) ∧
    decode (.w 0b0000001111_10101_00110_01100_00001_01) = some (.max 12 6 21) ∧
    decode (.w 0b0000010000_10101_00110_01100_00001_01) = some (.minn 12 6 21) ∧
    decode (.w 0b0000010001_10101_00110_01100_00001_01) = some (.maxn 12 6 21) ∧
    decode (.w 0b000001001000000_00110_01100_00001_01) = some (.clz 12 6) ∧
    decode (.w 0b000001001100000_00110_01100_00001_01) = some (.ctz 12 6) ∧
    decode (.w 0b000001010000000_00110_01100_00001_01) = some (.popc 12 6) ∧
    decode (.w 0b0000010101_10101_00110_01100_00001_01) = some (.clmul 12 6 21) ∧
    decode (.w 0b0000010110_10101_00110_01100_00001_01) = some (.clmulh 12 6 21) := by decide +kernel

theorem test_decode_muldiv :
    decode (.w 0b0000000000_10101_00110_01100_00010_01) = some (.mul 12 6 21) ∧
    decode (.w 0b0000000001_10101_00110_01100_00010_01) = some (.mulh 12 6 21) ∧
    decode (.w 0b0000000010_10101_00110_01100_00010_01) = some (.mulhn 12 6 21) ∧
    decode (.w 0b0000000011_10101_00110_01100_00010_01) = some (.mulhsn 12 6 21) ∧
    decode (.w 0b0000000100_10101_00110_01100_00010_01) = some (.div 12 6 21) ∧
    decode (.w 0b0000000101_10101_00110_01100_00010_01) = some (.divn 12 6 21) ∧
    decode (.w 0b0000000110_10101_00110_01100_00010_01) = some (.rem 12 6 21) ∧
    decode (.w 0b0000000111_10101_00110_01100_00010_01) = some (.remn 12 6 21) := by decide +kernel

theorem test_decode_fps :
    decode (.w 0b1_011_000000_10101_00110_01100_00011_01) = some (.fadd ⟨1, 3, 21, 6, 12⟩) ∧
    decode (.w 0b1_011_000001_10101_00110_01100_00011_01) = some (.fsub ⟨1, 3, 21, 6, 12⟩) ∧
    decode (.w 0b1_011_000010_10101_00110_01100_00011_01) = some (.fmul ⟨1, 3, 21, 6, 12⟩) ∧
    decode (.w 0b1_011_000011_10101_00110_01100_00011_01) = some (.fdiv ⟨1, 3, 21, 6, 12⟩) ∧
    decode (.w 0b1_011_00010000000_00110_01100_00011_01) = some (.fsqrt ⟨1, 3, 0, 6, 12⟩) ∧
    decode (.w 0b1_000000101_10101_00110_01100_00011_01) = some (.fmin ⟨1, 0, 21, 6, 12⟩) ∧
    decode (.w 0b1_000000110_10101_00110_01100_00011_01) = some (.fmax ⟨1, 0, 21, 6, 12⟩) ∧
    decode (.w 0b1_011_000111_10101_00110_01100_00011_01) = some (.fma ⟨1, 3, 21, 6, 12⟩) ∧
    decode (.w 0b1_00000100000000_00110_01100_00011_01) = some (.fneg ⟨1, 0, 0, 6, 12⟩) ∧
    decode (.w 0b1_00000100100000_00110_01100_00011_01) = some (.fabs ⟨1, 0, 0, 6, 12⟩) ∧
    decode (.w 0b1_000001010_10101_00110_01100_00011_01) = some (.feq ⟨1, 0, 21, 6, 12⟩) ∧
    decode (.w 0b1_000001011_10101_00110_01100_00011_01) = some (.flt ⟨1, 0, 21, 6, 12⟩) ∧
    decode (.w 0b1_000001100_10101_00110_01100_00011_01) = some (.fle ⟨1, 0, 21, 6, 12⟩) ∧
    decode (.w 0b1_00000110100000_00110_01100_00011_01) = some (.fclass ⟨1, 0, 0, 6, 12⟩) ∧
    decode (.w 0b1_011_00111000000_00110_01100_00011_01) = some (.fcvti ⟨1, 3, 0, 6, 12⟩) ∧
    decode (.w 0b1_011_00111100000_00110_01100_00011_01) = some (.fcvtn ⟨1, 3, 0, 6, 12⟩) ∧
    decode (.w 0b1_011_01000000000_00110_01100_00011_01) = some (.fcvtfi ⟨1, 3, 0, 6, 12⟩) ∧
    decode (.w 0b1_011_01000100000_00110_01100_00011_01) = some (.fcvtfn ⟨1, 3, 0, 6, 12⟩) ∧
    decode (.w 0b1_011_01001000000_00110_01100_00011_01) = some (.fcvtp ⟨1, 3, 0, 6, 12⟩) := by decide +kernel

theorem test_decode_imm :
    decode (.w 0b101111111111101_00110_01100_00100_01) = some (.addi 12 6 (-8195)) ∧
    decode (.w 0b000_101111111101_00110_01100_00101_01) = some (.andi 12 6 (-1027)) ∧
    decode (.w 0b001_101111111101_00110_01100_00101_01) = some (.ori 12 6 (-1027)) ∧
    decode (.w 0b010_101111111101_00110_01100_00101_01) = some (.xori 12 6 (-1027)) ∧
    decode (.w 0b011000000_100101_00110_01100_00101_01) = some (.shli 12 6 37) ∧
    decode (.w 0b100000000_100101_00110_01100_00101_01) = some (.shri 12 6 37) ∧
    decode (.w 0b101000000_100101_00110_01100_00101_01) = some (.srai 12 6 37) ∧
    decode (.w 0b110_101111111101_00110_01100_00101_01) = some (.slti 12 6 (-1027)) ∧
    decode (.w 0b111_101111111101_00110_01100_00101_01) = some (.sltni 12 6 (-1027)) ∧
    decode (.w 0b10111111111111111101_01100_00110_01) = some (.lhi 12 (-262147)) ∧
    decode (.w 0b10111111111111111101_01100_00111_01) = some (.pcrel 12 (-262147)) := by decide +kernel

theorem test_decode_jump :
    decode (.w 0b10111111111111111101_01100_01000_01) = some (.jal 12 (-262147)) ∧
    decode (.w 0b101111111111101_00110_01100_01001_01) = some (.jalr 12 6 (-8195)) := by decide +kernel

theorem test_decode_branch :
    decode (.w 0b101111111101_10101_00110_00001010_01) = some (.beq 6 21 (-1027)) ∧
    decode (.w 0b101111111101_10101_00110_00101010_01) = some (.bne 6 21 (-1027)) ∧
    decode (.w 0b101111111101_10101_00110_01001010_01) = some (.blt 6 21 (-1027)) ∧
    decode (.w 0b101111111101_10101_00110_01101010_01) = some (.bge 6 21 (-1027)) ∧
    decode (.w 0b101111111101_10101_00110_10001010_01) = some (.bltn 6 21 (-1027)) ∧
    decode (.w 0b101111111101_10101_00110_10101010_01) = some (.bgen 6 21 (-1027)) := by decide +kernel

theorem test_decode_load :
    decode (.w 0b000_101111111101_00110_01100_01011_01) = some (.ldb 12 6 (-1027)) ∧
    decode (.w 0b001_101111111101_00110_01100_01011_01) = some (.ldh 12 6 (-1027)) ∧
    decode (.w 0b010_101111111101_00110_01100_01011_01) = some (.ldw 12 6 (-1027)) ∧
    decode (.w 0b011_101111111101_00110_01100_01011_01) = some (.ldd 12 6 (-1027)) ∧
    decode (.w 0b100_101111111101_00110_01100_01011_01) = some (.ldbn 12 6 (-1027)) ∧
    decode (.w 0b101_101111111101_00110_01100_01011_01) = some (.ldhn 12 6 (-1027)) ∧
    decode (.w 0b110_101111111101_00110_01100_01011_01) = some (.ldwn 12 6 (-1027)) := by decide +kernel

theorem test_decode_store :
    decode (.w 0b000_101111111101_00110_01100_01100_01) = some (.stb 12 6 (-1027)) ∧
    decode (.w 0b001_101111111101_00110_01100_01100_01) = some (.sth 12 6 (-1027)) ∧
    decode (.w 0b010_101111111101_00110_01100_01100_01) = some (.stw 12 6 (-1027)) ∧
    decode (.w 0b011_101111111101_00110_01100_01100_01) = some (.std 12 6 (-1027)) := by decide +kernel

theorem test_decode_amo :
    decode (.w 0b100_1_11_0000_10101_00110_01100_01101_01) = some (.amoadd ⟨4, 1, 3, 21, 6, 12⟩) ∧
    decode (.w 0b100_1_11_0001_10101_00110_01100_01101_01) = some (.amoand ⟨4, 1, 3, 21, 6, 12⟩) ∧
    decode (.w 0b100_1_11_0010_10101_00110_01100_01101_01) = some (.amoor ⟨4, 1, 3, 21, 6, 12⟩) ∧
    decode (.w 0b100_1_11_0011_10101_00110_01100_01101_01) = some (.amoxor ⟨4, 1, 3, 21, 6, 12⟩) ∧
    decode (.w 0b100_1_11_0100_10101_00110_01100_01101_01) = some (.amomin ⟨4, 1, 3, 21, 6, 12⟩) ∧
    decode (.w 0b100_1_11_0101_10101_00110_01100_01101_01) = some (.amomax ⟨4, 1, 3, 21, 6, 12⟩) ∧
    decode (.w 0b100_1_11_0110_10101_00110_01100_01101_01) = some (.amominn ⟨4, 1, 3, 21, 6, 12⟩) ∧
    decode (.w 0b100_1_11_0111_10101_00110_01100_01101_01) = some (.amomaxn ⟨4, 1, 3, 21, 6, 12⟩) ∧
    decode (.w 0b100_1_11_1000_10101_00110_01100_01101_01) = some (.amoswap ⟨4, 1, 3, 21, 6, 12⟩) ∧
    decode (.w 0b100_1_11_1001_10101_00110_01100_01101_01) = some (.cas ⟨4, 1, 3, 21, 6, 12⟩) ∧
    decode (.w 0b100_1_01_101000000_00110_01100_01101_01) = some (.lr ⟨4, 1, 1, 0, 6, 12⟩) ∧
    decode (.w 0b100_1_10_1011_10101_00110_01100_01101_01) = some (.sc ⟨4, 1, 2, 21, 6, 12⟩) := by decide +kernel

theorem test_decode_fence :
    decode (.w 0b000_100_000000000000000000001110_01) = some (.fenceSv 4) ∧
    decode (.w 0b001_100_000000000000000000001110_01) = some (.fenceVs 4) ∧
    decode (.w 0b010_100_000000000000000000001110_01) = some (.fenceVv 4) ∧
    decode (.w 0b011_100_000000000000000000001110_01) = some (.fenceAll 4) := by decide +kernel

theorem test_decode_sys :
    decode (.w 0b00000_0101010101_000000000001111_01) = some (.trap 0x155) ∧
    decode (.w 0b000001100000000000000000001111_01) = some (.trapRollback) ∧
    decode (.w 0b000001100000001000000000001111_01) = some (.trapKill) ∧
    decode (.w 0b000010000000000000000000001111_01) = some (.eret) ∧
    decode (.w 0b000100000000000000000000001111_01) = some (.wfi) ∧
    decode (.w 0b00011_0000010011_00000_01100_01111_01) = some (.csrr 12 0x13) ∧
    decode (.w 0b00100_0000010011_00110_01100_01111_01) = some (.csrw 12 6 0x13) ∧
    decode (.w 0b00101_0000010011_00110_01100_01111_01) = some (.csrs 12 6 0x13) ∧
    decode (.w 0b00110_0000010011_00110_01100_01111_01) = some (.csrc 12 6 0x13) ∧
    decode (.w 0b001110000000000_00110_0000001111_01) = some (.seal 6) ∧
    decode (.w 0b01000000000000000000_01100_01111_01) = some (.sealq 12) ∧
    decode (.w 0b010010000000000000000000001111_01) = some (.irrev) ∧
    decode (.w 0b010100000000_101_00110_01100_01111_01) = some (.enq 12 6 5) ∧
    decode (.w 0b010110000000000000000000001111_01) = some (.halt) := by decide +kernel

theorem test_decode_mask :
    decode (.w 0b0000000000_10101_00110_01100_10000_01) = some (.kbound 12 6 21) ∧
    decode (.w 0b0000000001_10101_00110_01100_10000_01) = some (.kand 12 6 21) ∧
    decode (.w 0b0000000010_10101_00110_01100_10000_01) = some (.kor 12 6 21) ∧
    decode (.w 0b0000000011_10101_00110_01100_10000_01) = some (.kxor 12 6 21) ∧
    decode (.w 0b0000000100_10101_00110_01100_10000_01) = some (.kandn 12 6 21) ∧
    decode (.w 0b000000010100000_00110_01100_10000_01) = some (.knot 12 6) ∧
    decode (.w 0b000000011000000_00110_01100_10000_01) = some (.kmov 12 6) ∧
    decode (.w 0b000000011100000_00110_01100_10000_01) = some (.kpop 12 6) ∧
    decode (.w 0b000000100000000_00110_01100_10000_01) = some (.kfirst 12 6) ∧
    decode (.w 0b0000001001_10101_00110_01100_10000_01) = some (.kset 12 6 21) ∧
    decode (.w 0b000000101000000_00110_01100_10000_01) = some (.kgetl 12 6) ∧
    decode (.w 0b000000101100000_00110_01100_10000_01) = some (.kgeth 12 6) ∧
    decode (.w 0b00000011000000000000_01100_10000_01) = some (.kzero 12) ∧
    decode (.w 0b00000011010000000000_01100_10000_01) = some (.kone 12) := by decide +kernel

theorem test_decode_valu :
    decode (.w 0b101_011_110_10110_10_0111_0000010001_01) = some (.vadd ⟨5, 3, 6, 22, 2, 7⟩) ∧
    decode (.w 0b101_011_110_10110_10_0111_0000110001_01) = some (.vsub ⟨5, 3, 6, 22, 2, 7⟩) ∧
    decode (.w 0b101_011_110_10110_10_0111_0001010001_01) = some (.vmul ⟨5, 3, 6, 22, 2, 7⟩) ∧
    decode (.w 0b101_011_110_10110_10_0111_0001110001_01) = some (.vfma ⟨5, 3, 6, 22, 2, 7⟩) ∧
    decode (.w 0b101_011_110_10110_10_0111_0010010001_01) = some (.vfms ⟨5, 3, 6, 22, 2, 7⟩) ∧
    decode (.w 0b101_011_110_10110_10_0111_0010110001_01) = some (.vmin ⟨5, 3, 6, 22, 2, 7⟩) ∧
    decode (.w 0b101_011_110_10110_10_0111_0011010001_01) = some (.vmax ⟨5, 3, 6, 22, 2, 7⟩) ∧
    decode (.w 0b000_011_110_10110_00_0111_0011110001_01) = some (.vabs ⟨3, 6, 22, 7⟩) ∧
    decode (.w 0b000_011_110_10110_00_0111_0100010001_01) = some (.vneg ⟨3, 6, 22, 7⟩) ∧
    decode (.w 0b101_011_110_10110_10_0111_0100110001_01) = some (.vand ⟨5, 3, 6, 22, 2, 7⟩) ∧
    decode (.w 0b101_011_110_10110_10_0111_0101010001_01) = some (.vor ⟨5, 3, 6, 22, 2, 7⟩) ∧
    decode (.w 0b101_011_110_10110_10_0111_0101110001_01) = some (.vxor ⟨5, 3, 6, 22, 2, 7⟩) ∧
    decode (.w 0b101_011_110_10110_10_0111_0110010001_01) = some (.vshl ⟨5, 3, 6, 22, 2, 7⟩) ∧
    decode (.w 0b101_011_110_10110_10_0111_0110110001_01) = some (.vshr ⟨5, 3, 6, 22, 2, 7⟩) ∧
    decode (.w 0b101_011_110_10110_10_0111_0111010001_01) = some (.vsra ⟨5, 3, 6, 22, 2, 7⟩) ∧
    decode (.w 0b101_011_110_10110_10_0111_0111110001_01) = some (.vsel ⟨5, 3, 6, 22, 2, 7⟩) ∧
    decode (.w 0b101_011_110_10110_10_0111_1000010001_01) = some (.vclamp ⟨5, 3, 6, 22, 2, 7⟩) ∧
    decode (.w 0b101_011_110_10110_10_0111_1000110001_01) = some (.vscale2 ⟨5, 3, 6, 22, 2, 7⟩) ∧
    decode (.w 0b101_011_110_10110_10_0111_1001010001_01) = some (.vclmul ⟨5, 3, 6, 22, 2, 7⟩) ∧
    decode (.w 0b101_011_110_10110_10_0111_1001110001_01) = some (.vclmulh ⟨5, 3, 6, 22, 2, 7⟩) ∧
    decode (.w 0b101_011_110_10110_10_0111_1010010001_01) = some (.vcpsgn ⟨5, 3, 6, 22, 2, 7⟩) := by decide +kernel

theorem test_decode_vcmp :
    decode (.w 0b101_011_000_10110_10_0111_01101_10010_01) = some (.vcmpEq ⟨5, 3, 13, 22, 2, 7⟩) ∧
    decode (.w 0b101_011_001_10110_10_0111_01101_10010_01) = some (.vcmpNe ⟨5, 3, 13, 22, 2, 7⟩) ∧
    decode (.w 0b101_011_010_10110_10_0111_01101_10010_01) = some (.vcmpLt ⟨5, 3, 13, 22, 2, 7⟩) ∧
    decode (.w 0b101_011_011_10110_10_0111_01101_10010_01) = some (.vcmpLe ⟨5, 3, 13, 22, 2, 7⟩) ∧
    decode (.w 0b101_011_100_10110_10_0111_01101_10010_01) = some (.vcmpGt ⟨5, 3, 13, 22, 2, 7⟩) ∧
    decode (.w 0b101_011_101_10110_10_0111_01101_10010_01) = some (.vcmpGe ⟨5, 3, 13, 22, 2, 7⟩) ∧
    decode (.w 0b101_011_110_10110_10_0111_01101_10010_01) = some (.vcmpUnord ⟨5, 3, 13, 22, 2, 7⟩) ∧
    decode (.w 0b101_011_111_10110_10_0111_01101_10010_01) = some (.vcmpOrd ⟨5, 3, 13, 22, 2, 7⟩) := by decide +kernel

theorem test_decode_vred :
    decode (.w 0b000_011_110_10110_00_0111_0000010011_01) = some (.vrsum ⟨3, 6, 22, 7⟩) ∧
    decode (.w 0b000_011_110_10110_00_0111_0000110011_01) = some (.vrmax ⟨3, 6, 22, 7⟩) ∧
    decode (.w 0b000_011_110_10110_00_0111_0001010011_01) = some (.vrmin ⟨3, 6, 22, 7⟩) ∧
    decode (.w 0b000_011_110_10110_00_0111_0001110011_01) = some (.vrsumsq ⟨3, 6, 22, 7⟩) ∧
    decode (.w 0b000_011_110_10110_00_0111_0010010011_01) = some (.vcsum ⟨3, 6, 22, 7⟩) ∧
    decode (.w 0b000_011_110_10110_00_0111_0010110011_01) = some (.vcmax ⟨3, 6, 22, 7⟩) ∧
    decode (.w 0b000_011_110_10110_00_0111_0011010011_01) = some (.vcmin ⟨3, 6, 22, 7⟩) := by decide +kernel

theorem test_decode_vcvt :
    decode (.w 0b000_011_110_10110_00_0111_01010_10100_01) = some (.vcvt ⟨3, 6, 22, 7⟩ 10) ∧
    decode (.w 0b101_011_110_10110_00_0111_1000010100_01) = some (.vquant ⟨5, 3, 6, 22, 7⟩) ∧
    decode (.w 0b101_011_110_10110_00_0111_1000110100_01) = some (.vdequant ⟨5, 3, 6, 22, 7⟩) ∧
    decode (.w 0b101_011_110_10110_00_0111_1001010100_01) = some (.vround ⟨5, 3, 6, 22, 7⟩) := by decide +kernel

theorem test_decode_vmov :
    decode (.w 0b000_011_110_10110_00_0111_0000010101_01) = some (.vmov ⟨3, 6, 22, 7⟩) ∧
    decode (.w 0b101_000_110_10110_10_0111_0000010101_01) = some (.vmovOp2 ⟨5, 6, 22, 2, 7⟩) ∧
    decode (.w 0b101_011_110_10110_00_0111_0000110101_01) = some (.vperm ⟨5, 3, 6, 22, 7⟩) ∧
    decode (.w 0b101_011_110_10110_10_0111_0001010101_01) = some (.vslide ⟨5, 3, 6, 22, 2, 7⟩) ∧
    decode (.w 0b101_011_110_10110_10_0111_0001110101_01) = some (.vext ⟨5, 3, 6, 22, 2, 7⟩) ∧
    decode (.w 0b000000_110_10110_00_0111_0010010101_01) = some (.viota ⟨6, 22, 7⟩) ∧
    decode (.w 0b000_011_110_10110_00_0111_0010110101_01) = some (.vcompress ⟨3, 6, 22, 7⟩) ∧
    decode (.w 0b000000_110_10110_00_0111_0011010101_01) = some (.vrowi ⟨6, 22, 7⟩) := by decide +kernel

theorem test_decode_vspec :
    decode (.w 0b000_011_110_10110_00_0111_0000010110_01) = some (.vrcp ⟨3, 6, 22, 7⟩) ∧
    decode (.w 0b000_011_110_10110_00_0111_0000110110_01) = some (.vsqrt ⟨3, 6, 22, 7⟩) ∧
    decode (.w 0b000_011_110_10110_00_0111_0001010110_01) = some (.vrsqrt ⟨3, 6, 22, 7⟩) ∧
    decode (.w 0b000_011_110_10110_00_0111_0001110110_01) = some (.vexp2 ⟨3, 6, 22, 7⟩) ∧
    decode (.w 0b000_011_110_10110_00_0111_0010010110_01) = some (.vlog2 ⟨3, 6, 22, 7⟩) := by decide +kernel

theorem test_decode_qld :
    decode (.w 0b00000_00101_10110_00110_0000010111_01) = some (.qld 5 6 22) ∧
    decode (.w 0b00001_00101_10110_00110_0000010111_01) = some (.qldt 5 6 22) ∧
    decode (.w 0b00010_00101_10110_00110_01100_10111_01) = some (.qldff 12 5 6 22) ∧
    decode (.w 0b00011_00101_10110_00110_01100_10111_01) = some (.qldx 12 5 6 22) ∧
    decode (.w 0b00100_00101_10110_00110_0000010111_01) = some (.qldz 5 6 22) := by decide +kernel

theorem test_decode_gls :
    decode (.w 0b00000_10_101_10101_00110_10011_11000_01) = some (.gld ⟨2, 5, 21, 6, 19⟩) ∧
    decode (.w 0b00001_10_101_10101_00110_10011_11000_01) = some (.gst ⟨2, 5, 21, 6, 19⟩) ∧
    decode (.w 0b00010_10_101_10101_00110_10011_11000_01) = some (.gldff ⟨2, 5, 21, 6, 19⟩) ∧
    decode (.w 0b00011_10_101_00_011_00110_10011_11000_01) = some (.gldx ⟨2, 5, 3, 6, 19⟩) ∧
    decode (.w 0b00100_10_101_00_011_00110_10011_11000_01) = some (.gstx ⟨2, 5, 3, 6, 19⟩) ∧
    decode (.w 0b00101_10_101_00_011_00110_10011_11000_01) = some (.gstxo ⟨2, 5, 3, 6, 19⟩) := by decide +kernel

theorem test_decode_xfer :
    decode (.w 0b00000_11011_10101_00110_01100_11001_01) = some (.xfer 27 12 6 21) ∧
    decode (.w 0b00001_11011_10110_00_101_01101_11001_01) = some (.xferb 27 13 5 22) ∧
    decode (.w 0b00010_11011_10101_00110_01100_11001_01) = some (.xdz 27 12 6 21) ∧
    decode (.w 0b00011_11011_00000_00110_00010_11001_01) = some (.dztab 27 2 6) ∧
    decode (.w 0b00100_11011_00000_00110_0000011001_01) = some (.sendRaw 27 6) ∧
    decode (.w 0b00100_11011_0_1_001_00110_0000011001_01) = some (.sendQ8 27 6 1) ∧
    decode (.w 0b00100_11011_0_1_010_00110_0000011001_01) = some (.sendQ8w 27 6 1) ∧
    decode (.w 0b00100_11011_0_1_011_00110_0000011001_01) = some (.sendQ4 27 6 1) ∧
    decode (.w 0b00101_11011_00000_00110_0000011001_01) = some (.recv 27 6) ∧
    decode (.w 0b00101_11011_00001_00110_0000011001_01) = some (.recvAdd 27 6) := by decide +kernel

theorem test_decode_cnt :
    decode (.w 0b00000_11011_00000_00110_0000011010_01) = some (.cinc 27 6) ∧
    decode (.w 0b00001_11011_00000_00110_0000011010_01) = some (.cwait 27 6) ∧
    decode (.w 0b00010_11011_00000_00110_0000011010_01) = some (.cset 27 6) ∧
    decode (.w 0b00011_11011_0000000000_01100_11010_01) = some (.crd 12 27) := by decide +kernel

theorem test_decode_sync :
    decode (.w 0b00000_00101_00000_00110_0000011011_01) = some (.ipost 5 6) ∧
    decode (.w 0b00001_00101_00000_00110_0000011011_01) = some (.iwait 5 6) ∧
    decode (.w 0b0001000000_10101_00110_0000011011_01) = some (.barInit 6 21) ∧
    decode (.w 0b000110000000000_00110_01100_11011_01) = some (.barArrive 12 6) ∧
    decode (.w 0b001000000000000_00110_01100_11011_01) = some (.barArriveRlx 12 6) ∧
    decode (.w 0b0010100000_10101_00110_0000011011_01) = some (.barWait 6 21) := by decide +kernel

theorem test_decode_awin :
    decode (.w 0b000000_01_10_10101_00110_0000011100_01) = some (.awin 1 2 6 21) ∧
    decode (.w 0b00001000_10_00_101_00_011_10011_11100_01) = some (.ascat 2 5 3 19) ∧
    decode (.w 0b00010000_10_00000000000000011100_01) = some (.amerge 2) ∧
    decode (.w 0b00011000_10_00000000000000011100_01) = some (.arel 2) := by decide +kernel

theorem test_decode_stag :
    decode (.w 0b000000000000000_00110_01100_11101_01) = some (.slook 12 6) ∧
    decode (.w 0b0000100000_10101_00110_01100_11101_01) = some (.sins 12 6 21) ∧
    decode (.w 0b000100000000000_00110_0000011101_01) = some (.sinv 6) := by decide +kernel

theorem test_decode_half :
    decode (.h 0b1000001_01001_000_0) = some (.hAddi 9 (-63)) ∧
    decode (.h 0b00_10101_01001_001_0) = some (.hMv 9 21) ∧
    decode (.h 0b1001101_01001_010_0) = some (.hLdd 9 77) ∧
    decode (.h 0b1001101_01001_011_0) = some (.hStd 9 77) ∧
    decode (.h 0b1000001_01001_100_0) = some (.hBz 9 (-63)) ∧
    decode (.h 0b1000001_01001_101_0) = some (.hBnz 9 (-63)) ∧
    decode (.h 0b101111111111_110_0) = some (.hJ (-1025)) ∧
    decode (.h 0b1100101_10011_111_0) = some (.hCwait 19 101) := by decide +kernel


theorem test_decode_tile :
    decode (.t 0b000000000000000000000000000_00110_1101_1100011_1001101_10_1_101_0_00011_11) =
      some (.wset ⟨13, 99, 77, 2, 1, 5, 6⟩) ∧
    decode (.t 0b000000000000000000000000000_01100_0000_0000000_0000000_00_0_101_1_00011_11) = some (.wrd 5 12) ∧
    decode (.t 0b00000000000000001010101111001101_000000000000_0111_10110_101_0_00010_11) =
      some (.ofill 5 22 7 0xABCD) ∧
    decode (.t 0b00000000_1100_1011_1010_1001_0110_0101_0000000000000000000000_0_1_0_00100_11) =
      some (.gtrans ⟨1, 0, 12, 11, 10, 9, 6, 5⟩) ∧
    decode (.t 0b00000000_1100_1011_1010_1001_0110_0101_0000000000000000000000_1_0_1_00100_11) =
      some (.gcopy ⟨0, 1, 12, 11, 10, 9, 6, 5⟩) ∧
    decode (.t 0b00000000000000000000000000000000_000_00110_0_0010011_1010101_1_0_00101_11) = some (.gsave ⟨6, 19, 85, 1⟩) ∧
    decode (.t 0b00000000000000000000000000000000_000_00110_0_0010011_1010101_1_1_00101_11) = some (.grest ⟨6, 19, 85, 1⟩) ∧
    decode (.t 0b1_1010101_1001_0110_1100_0011_10110001_0000011_000_01_00_01011_10101_1_00001_11) =
      some (.oacc ⟨3, 1, 0, 11, 21, 1, 1, 85, 9, 6, 12, 3, 177⟩) := by decide +kernel

theorem test_decode_refuses :
    decode (.h 0b0000000_00000_000_0) = none ∧
    decode (.h 0b00_00101_00000_001_0) = none ∧
    decode (.h 0b0000001_00000_010_0) = none ∧
    decode (.w 0b0000000000_00011_00010_00001_00000_01) = none ∧
    decode (.w 0b0000000000_00011_00010_00001_11110_01) = none ∧
    decode (.w 0b0000010111_00011_00010_00001_00001_01) = none ∧
    decode (.w 0b0000010010_00001_00010_00001_00001_01) = none ∧
    decode (.w 0b000000000011_00010_00001_110_01010_01) = none ∧
    decode (.w 0b111_000000000100_01000_00111_01011_01) = none ∧
    decode (.w 0b00011_0000001011_00000_00001_01111_01) = none ∧
    decode (.w 0b001_000_000_11111_01_0000_00111_10001_01) = none ∧
    decode (.w 0b00000_01000_01100_01010_00000_10111_01) = none ∧
    decode (.t 0b00000000000000000000000000000000_0000_0000000_0000000_00_0_000_0_00011_11) = none ∧
    decode (.t 0b00000000000000000000000000000000_00000000000000000000000000_00110_11) = none := by decide +kernel

/-- Words that the spec itself gives: R174, R360, R262 to R275, R46, R49, R127, R367 and the programs of R399 to R427. -/
theorem test_decode_words_of_the_spec :
    decode (.w 0x012CB05D) = some (.qld 4 11 22) ∧ decode (.w 0x5004B53D) = some (.enq 10 11 2) ∧
    decode (.w 0x08C81165) = some (.xferb 3 2 1 4) ∧ decode (.w 0x1880C0E5) = some (.dztab 2 1 12) ∧
    decode (.w 0x10DCD7E5) = some (.xdz 3 15 13 14) ∧ decode (.w 0x45000249) = some (.vcmpLt ⟨2, 1, 4, 0, 0, 0⟩) ∧
    decode (.w 0x48FE41D5) = some (.vext ⟨2, 2, 1, 31, 2, 4⟩) ∧ decode (.w 0x080C2FE1) = some (.gst ⟨0, 0, 6, 2, 31⟩) ∧
    decode (.w 0x0602003D) = some .trapKill ∧ decode (.t 0x80F0F07F00044087) = some (.oacc ⟨0, 0, 1, 2, 0, 1, 1, 0, 15, 0, 15, 0, 127⟩) ∧
    decode (.t 0x001F020000000213) = some (.gtrans ⟨0, 1, 1, 15, 0, 2, 0, 0⟩) ∧ decode (.w 0x446001C5) = none := by decide +kernel

/-! ### The scalar side -/

theorem test_alu :
    gives (.add 3 1 2) (-1) 2 1 ∧ gives (.sub 3 1 2) 0 1 (-1) ∧ gives (.andn 3 1 2) 0xFF 0x0F 0xF0 ∧
    gives (.orn 3 1 2) 0 (-2) 1 ∧ gives (.shl 3 1 2) 3 65 6 ∧ gives (.shr 3 1 2) (-1) 63 1 ∧ gives (.sra 3 1 2) (-4) 1 (-2) ∧
    gives (.rotl 3 1 2) 0x8000000000000001 1 3 ∧ gives (.rotr 3 1 2) 3 1 0x8000000000000001 ∧
    gives (.slt 3 1 2) (-1) 0 1 ∧ gives (.sltn 3 1 2) (-1) 0 0 ∧ gives (.min 3 1 2) (-1) 0 (-1) ∧ gives (.minn 3 1 2) (-1) 0 0 ∧
    gives (.max 3 1 2) (-1) 0 0 ∧ gives (.maxn 3 1 2) (-1) 0 (-1) ∧ gives (.clz 3 1) 1 0 63 ∧ gives (.clz 3 1) 0 0 64 ∧
    gives (.ctz 3 1) 8 0 3 ∧ gives (.popc 3 1) 0xF0F 0 8 ∧ gives (.clmul 3 1 2) 3 3 5 ∧
    gives (.clmulh 3 1 2) 0x8000000000000000 2 1 := by decide +kernel

theorem test_muldiv :
    gives (.mul 3 1 2) (-1) (-1) 1 ∧ gives (.mulh 3 1 2) (-1) (-1) 0 ∧ gives (.mulhn 3 1 2) (-1) (-1) (-2) ∧
    gives (.mulhsn 3 1 2) (-1) (-1) (-1) ∧ gives (.div 3 1 2) (-7) 2 (-3) ∧ gives (.rem 3 1 2) (-7) 2 (-1) ∧
    gives (.div 3 1 2) 5 0 (-1) ∧ gives (.rem 3 1 2) 5 0 5 ∧ gives (.div 3 1 2) (1 <<< 63) (-1) (1 <<< 63) ∧
    gives (.rem 3 1 2) (1 <<< 63) (-1) 0 ∧ gives (.divn 3 1 2) (-1) 2 0x7FFFFFFFFFFFFFFF ∧ gives (.remn 3 1 2) 7 0 7 := by decide +kernel

theorem test_immediates :
    gives (.addi 3 1 (-1)) 0 0 (-1) ∧ gives (.andi 3 1 (-16)) 0xFF 0 0xF0 ∧ gives (.xori 3 1 (-1)) 5 0 (-6) ∧
    gives (.ori 3 1 0x7FF) 0 0 0x7FF ∧ gives (.shli 3 1 63) 1 0 0x8000000000000000 ∧ gives (.shri 3 1 1) 3 0 1 ∧ gives (.srai 3 1 60) (1 <<< 63) 0 (-8) ∧
    gives (.slti 3 1 (-1)) 0 0 0 ∧ gives (.sltni 3 1 (-1)) 0 0 1 ∧ gives (.lhi 3 0x80000) 0 0 0xFFFFFFFF80000000 ∧
    gives (.pcrel 3 1) 0 0 0x2000 := by decide +kernel

theorem test_control :
    ran (exec (.beq 1 2 (-4)) (regs2 7 7)) (fun t => t.core.pc == 0xFF8) ∧
    ran (exec (.bltn 1 2 8) (regs2 (-1) 0)) (fun t => t.core.pc == 0x1004) ∧
    ran (exec (.blt 1 2 8) (regs2 (-1) 0)) (fun t => t.core.pc == 0x1010) ∧
    ran (exec (.jal 3 8) (regs2 0 0)) (fun t => t.core.pc == 0x1010 && t.reg 3 == 0x1004) ∧
    ran (exec (.jalr 1 1 3) (regs2 0x2000 0)) (fun t => t.core.pc == 0x2002 && t.reg 1 == 0x1004) ∧
    ran (exec (.hAddi 1 (-3)) (regs2 1 0)) (fun t => t.core.pc == 0x1002 && t.reg 1 == -2) ∧
    ran (exec (.hMv 3 2) (regs2 0 9)) (fun t => t.reg 3 == 9) ∧
    ran (exec (.hBz 1 5) (regs2 0 9)) (fun t => t.core.pc == 0x100A) ∧
    ran (exec (.hBnz 1 5) (regs2 0 9)) (fun t => t.core.pc == 0x1002) ∧
    ran (exec (.hJ (-1)) (regs2 0 9)) (fun t => t.core.pc == 0xFFE && t.reg 1 == 0) := by decide +kernel

theorem test_floats :
    gives (.fadd ⟨1, 0, 2, 1, 3⟩) 0x3FF0000000000000 0x4000000000000000 0x4008000000000000 ∧
    gives (.fsub ⟨0, 0, 2, 1, 3⟩) 0x3F800000 0x3F800000 0 ∧ gives (.fsub ⟨0, 2, 2, 1, 3⟩) 0x3F800000 0x3F800000 0x80000000 ∧
    gives (.fmul ⟨0, 0, 2, 1, 3⟩) 0x40400000 0x40400000 0x41100000 ∧ gives (.fdiv ⟨0, 0, 2, 1, 3⟩) 0x3F800000 0x40000000 0x3F000000 ∧
    gives (.fsqrt ⟨0, 0, 0, 1, 3⟩) 0x40800000 0 0x40000000 ∧ gives (.fneg ⟨0, 0, 0, 1, 3⟩) 0x3F800000 0 0xBF800000 ∧
    gives (.feq ⟨0, 0, 2, 1, 3⟩) 0 0x80000000 1 ∧ gives (.flt ⟨0, 0, 2, 1, 3⟩) 0xBF800000 0 1 ∧
    gives (.fcvti ⟨1, 1, 0, 1, 3⟩) 0xC004000000000000 0 (-2) ∧ gives (.fcvti ⟨1, 0, 0, 1, 3⟩) 0xC004000000000000 0 (-2) ∧
    gives (.fcvtfi ⟨0, 0, 0, 1, 3⟩) (-1) 0 0xBF800000 ∧ gives (.fcvtp ⟨1, 0, 0, 1, 3⟩) 0x3F800000 0 0x3FF0000000000000 := by decide +kernel

/-! Obligations about the scalar side: hypotheses met. -/

theorem test_met_registers : Clear (regs2 1 2) [3, 1, 2] ∧ Clear (regs2 1 2) [3, 1] := by decide +kernel

theorem test_met_RoundingFloatOperationsAct :
    Clear (regs2 1 2) [1, 2, 3] ∧ fpsMode ⟨0, 5, 2, 1, 3⟩ (regs2 1 2).core.status = some .rne ∧
    fpsMode ⟨1, 4, 2, 1, 3⟩ (regs2 1 2).core.status = some .rmm := by decide +kernel

theorem test_met_ExactFloatOperationsAct :
    Clear (regs2 1 2) [1, 2, 3] ∧
    (FpsF.val ⟨1, 0, 0, 1, 3⟩ 0x7FF8000000000000).isNaN = true ∧ (FpsF.val ⟨1, 0, 0, 1, 3⟩ 0x7FF0000000000000).isNaN = false ∧
    (FpsF.val ⟨0, 0, 0, 1, 3⟩ 0x7F800000).isNaN = false := by decide +kernel

/-! ### Traps, memory, atomics and control registers -/

/-- The first core at firmware level, whose addresses are physical, with two registers. -/
def fw2 (x y : Word) : State := cored fun c => ((atLevel 2 c).setReg 1 x).setReg 2 y

/-- Eight bytes 0x80 to 0x87 at 0x2000. -/
def bytesAt2000 (s : State) : State := s.rawWrite 0x2000 [0x80, 0x81, 0x82, 0x83, 0x84, 0x85, 0x86, 0x87]

theorem test_met_SynchronousTrapsAreTaken :
    (let s := regs2 1 2
     let t := s.csrWrite 0 0x5000
     Clear t [1, 2, 3] ∧ 5 ≤ fieldNat t.core.status 12 3 ∧ t.pl = 0 ∧ t.core.drained = true ∧
       ran (exec (.fadd ⟨0, 5, 2, 1, 3⟩) t) fun u => u.core.cause == 1 && u.core.epc == 0x1000) ∧
    (let s := regs2 1 2
     Clear s [3, 2] ∧ Unheld s ∧ s.pl = 0 ∧ s.core.drained = true ∧ (s.reg 2 + (1 : BitVec 12).signExtend 64).toNat % 2 ≠ 0 ∧
       ran (exec (.ldh 3 2 1) s) fun u => u.core.cause == 3 && u.core.tval == 3 && u.core.pc == 0x8000) ∧
    (let s := regs2 1 2
     s.core.runAhead = false ∧ ran (exec (.csrr 3 0x010) s) (fun u => u.core.cause == 1) ∧
       ran (exec (.csrr 3 0x053) s) (fun u => u.core.cause == 1) ∧ ran (exec (.csrw 3 1 0x008) s) fun u => u.core.cause == 1) ∧
    (let s := regs2 1 2
     fieldNat s.core.status 8 3 < 5 ∧ s.win 1 = none ∧
       ran (exec (.vadd ⟨3, 2, 1, 31, 0, 0⟩) s) fun u => u.core.cause == 2 && u.core.tval == 0x68FC0045) ∧
    (let s := (regs2 1 2).updCore fun c => { c with wins := Vector.replicate 8 (some ⟨0, .row, 0, 4, 1⟩) }
     let u := s.updCore fun c => { c with wins := c.wins.setIfInBounds 2 (some ⟨0, .row, 0, 2, 1⟩) }
     u.win 1 = some ⟨0, .row, 0, 4, 1⟩ ∧ u.win 2 = some ⟨0, .row, 0, 2, 1⟩ ∧
       ran (exec (.vshl ⟨3, 2, 1, 31, 0, 6⟩) u) fun u => u.core.cause == 2) := by decide +kernel

theorem test_met_LoadWritesTheExtendedBytes :
    (let s := bytesAt2000 (fw2 0 0x2000)
     Clear s [3, 2, 2] ∧ Unheld s ∧ s.lagLoads = false ∧ (s.translate (s.scalarWho false) .load 0x2002).2 = .ok 0x2002 ∧
       (s.translate (s.scalarWho false) .load 0x2002).1.poisonedRange 0x2002 2 = false ∧ s.behindStore 0x2002 2 = false ∧
       (s.translate (s.scalarWho false) .load 0x2002).1.region 0x2002 = .hbm ∧
       ran (exec (.ldh 3 2 2) s) (fun t => t.reg 3 == 0xFFFFFFFFFFFF8382) ∧
       ran (exec (.ldhn 3 2 2) s) (fun t => t.reg 3 == 0x8382) ∧ ran (exec (.ldb 3 2 7) s) (fun t => t.reg 3 == -0x79) ∧
       ran (exec (.ldbn 3 2 7) s) (fun t => t.reg 3 == 0x87) ∧ ran (exec (.ldw 3 2 4) s) (fun t => t.reg 3 == 0xFFFFFFFF87868584) ∧
       ran (exec (.ldwn 3 2 4) s) (fun t => t.reg 3 == 0x87868584) ∧
       ran (exec (.ldd 3 2 0) s) (fun t => t.reg 3 == 0x8786858483828180) ∧
       ran (exec (.hLdd 3 0) s) (fun t => t.reg 3 == 0x8786858483828180 && t.core.pc == 0x1002)) := by decide +kernel

theorem test_met_StoreWritesTheLowBytes :
    (let s := (fw2 0x1122334455667788 0x2000).modPart 0 fun x => { x with logmib := 1 }
     Clear s [1, 2, 2] ∧ Unheld s ∧ (s.translate (s.scalarWho false) .store 0x2004).2 = .ok 0x2004 ∧ s.lost 0x2004 = false ∧
       s.region 0x2004 = .hbm ∧ s.writeStalls s.writer 0x2004 4 = false ∧ s.lagStores = false ∧
       ran (exec (.sth 1 2 2) { s with lagStores := true }) (fun t => t.readNat 0x2000 8 == 0 &&
         t.core.sbuf.map (fun b => (b.pa, b.bytes)) == [(0x2002, [0x88, 0x77])] && t.core.pc == 0x1004) ∧
       ran (exec (.stw 1 2 4) s) (fun t => t.readNat 0x2000 8 == 0x5566778800000000) ∧
       ran (exec (.stb 1 2 1) s) (fun t => t.readNat 0x2000 8 == 0x8800) ∧
       ran (exec (.sth 1 2 2) s) (fun t => t.readNat 0x2000 8 == 0x77880000) ∧
       ran (exec (.std 1 2 0) s) (fun t => t.readNat 0x2000 8 == 0x1122334455667788) ∧
       ran (exec (.hStd 1 1) s) (fun t => t.readNat 0x2008 8 == 0x1122334455667788)) := by decide +kernel

theorem test_met_WritesReadBackAndAreLogged :
    (let s := bytesAt2000 State.reset
     let t := s.write ⟨0, 1, false, 0, none⟩ 0x20FF [1, 2]
     s.lost 0x20FF = false ∧ s.region 0x20FF = .hbm ∧ s.held = [] ∧ byte t 0x20FF = 1 ∧ byte t 0x2100 = 2 ∧ byte t 0x2007 = 0x87 ∧
       byte t 0x2101 = 0 ∧ t.undo.map (·.line) = [0x2100, 0x2000] ∧ s.undo.find? (fun r => r.line == 0x2000) = none ∧
       State.reset.region (spadBase + 5) = .spad ∧ ({ State.reset with devctl := 1 <<< 60 } : State).region tierBase = .tier2) ∧
    (let r : UndoRec := ⟨0, 0x2000, false, 3, 0, [], false⟩
     let s := { State.reset with undo := [r], dom := { State.reset.dom with datum := 2 } }
     s.undo.find? (fun r => r.line == 0x2000) = some r ∧ later 4 r.rin = true ∧ later 3 r.rin = false ∧
       later r.rin s.dom.datum = true ∧ (s.logLine ⟨0, 4, false, 0, none⟩ 0x2000).undo.length = 2 ∧
       (s.logLine ⟨0, 3, false, 0, none⟩ 0x2000).undo.length = 1) := by decide +kernel

theorem test_met_AtomicsReadModifyWrite :
    (let s := (bytesAt2000 (fw2 5 0x2000)).modPart 0 fun x => { x with logmib := 1 }
     let q := fun (i : Instr) (v : Nat) (r : Word) => ran (exec i s) fun t => t.readNat 0x2000 8 == v && t.reg 3 == r
     Clear s [2, 1, 3] ∧ Unheld s ∧ (s.translate (s.scalarWho false) .amo 0x2000).2 = .ok 0x2000 ∧
       Landed s ∧ s.poisonedRange 0x2000 8 = false ∧ s.writeStalls s.writer 0x2000 8 = false ∧
       q (.amoadd ⟨0, 0, 0, 1, 2, 3⟩) 0x8786858483828185 0xFFFFFFFF83828180 ∧
       q (.amoswap ⟨0, 1, 0, 1, 2, 3⟩) 5 0x8786858483828180 ∧ q (.amoand ⟨0, 1, 0, 1, 2, 3⟩) 0 0x8786858483828180 ∧
       q (.amoor ⟨0, 1, 0, 1, 2, 3⟩) 0x8786858483828185 0x8786858483828180 ∧
       q (.amoxor ⟨0, 1, 0, 1, 2, 3⟩) 0x8786858483828185 0x8786858483828180 ∧
       q (.amomin ⟨0, 0, 0, 1, 2, 3⟩) 0x8786858483828180 0xFFFFFFFF83828180 ∧
       q (.amomax ⟨0, 0, 0, 1, 2, 3⟩) 0x8786858400000005 0xFFFFFFFF83828180 ∧
       q (.amominn ⟨0, 0, 0, 1, 2, 3⟩) 0x8786858400000005 0xFFFFFFFF83828180 ∧
       q (.amomaxn ⟨0, 0, 0, 1, 2, 3⟩) 0x8786858483828180 0xFFFFFFFF83828180 ∧
       q (.cas ⟨0, 1, 0, 1, 2, 3⟩) 0x8786858483828180 0x8786858483828180 ∧ q (.lr ⟨0, 1, 0, 0, 2, 3⟩) 0x8786858483828180 0x8786858483828180 ∧
       q (.sc ⟨0, 1, 0, 1, 2, 3⟩) 0x8786858483828180 1 ∧
       ran (exec (.sc ⟨0, 1, 0, 1, 2, 3⟩) (s.updCore fun c => { c with resv := some (0x2000, 8) }))
         fun t => t.readNat 0x2000 8 == 5 && t.reg 3 == 0 && t.core.resv == none) := by decide +kernel

theorem test_met_CsrInstructionsReadAndWrite :
    (let s := cored fun c => { (atLevel 1 c).setReg 1 0x105 with tscr := 0xF0 }
     Clear s [3, 1] ∧ s.core.runAhead = false ∧ s.core.drained = true ∧ s.pl = 1 ∧
       ran (exec (.csrr 3 0x015) s) (fun t => t.reg 3 == 0xF0 && t.core.tscr == 0xF0) ∧
       ran (exec (.csrw 3 1 0x015) s) (fun t => t.reg 3 == 0xF0 && t.core.tscr == 0x105) ∧
       ran (exec (.csrs 3 1 0x015) s) (fun t => t.reg 3 == 0xF0 && t.core.tscr == 0x1F5) ∧
       ran (exec (.csrc 3 1 0x015) s) (fun t => t.reg 3 == 0xF0 && t.core.tscr == 0xF0)) ∧
    (let s := regs2 0x105 0
     ran (exec (.csrw 3 1 0x001) s) fun t => t.reg 3 == 0 && t.core.flags == 0x105) := by decide +kernel

theorem test_status_write :
    ((cored (atLevel 0)).csrWrite 0 (-1)).core.status = 0x37700 ∧ ((cored (atLevel 1)).csrWrite 0 (-1)).core.status = 0x37731 ∧
    ((cored (atLevel 2)).csrWrite 0 0x7).core.status = 0x6 := by decide +kernel

theorem test_met_TrapInstructionEntersTheNextLevel :
    (let s := cored (atLevel 0)
     s.pl = 0 ∧ s.core.drained = true ∧
       ran (exec (.trap 9) s) (fun t => t.pl == 1 && t.core.cause == 0xF && t.core.tval == 9 && t.core.epc == 0x1000 &&
         t.core.spc == 0x1004 && t.core.pc == 0x8000) ∧
       ran (exec .trapRollback s) (fun t => t.core.tval == 0x300) ∧ ran (exec .trapKill s) fun t => t.core.tval == 0x301) ∧
    (let s := tasked (cored (atLevel 1))
     s.pl = 1 ∧ s.core.drained = true ∧ s.cur < 96 ∧ ran (exec (.trap 9) s) (fun t => t.pl == 2 && t.core.fw.pl == 1) ∧
       ran (exec .trapRollback s) (fun t => t.dom.state == .fault && t.core.run == .halted) ∧
       ran (exec .trapKill s) fun t => t.tasks.isEmpty && t.core.run == .idle) := by decide +kernel

theorem test_met_EretAndWfiAct :
    (let s := { cored (fun c => { atLevel 1 c with spc := 0x2000, status := 0x21 }) with lagGrid := true, lagEng := true }
     s.pl = 1 ∧ s.core.drained = true ∧ Paced s ∧ s.curTask = none ∧
       ran (exec .eret s) fun t => t.pl == 0 && t.core.pc == 0x2000 && t.core.status == 0x30) ∧
    (let s := { cored (fun c => { atLevel 2 c with fw := ⟨1, true, 0x3000, [], 0⟩ }) with lagGrid := true, lagEng := true }
     s.pl = 2 ∧ s.core.drained = true ∧ Paced s ∧ s.curTask = none ∧
       ran (exec .eret s) fun t => t.pl == 1 && t.core.pc == 0x3000 && t.core.status == 0x11) ∧
    ran (exec .eret (cored (atLevel 0))) (fun t => t.core.cause == 1) ∧
    ran (exec .wfi (cored (fun c => { atLevel 1 c with sealReq := true }))) (fun t => t.core.pc == 0x1004) ∧
    ran (exec .wfi (cored (atLevel 1))) (fun t => t.core.pc == 0x1000) ∧
    ran (exec .wfi (cored (atLevel 0))) (fun t => t.core.cause == 1) := by decide +kernel

/-! ### Dispatch -/

/-- A paced core at task level: what it dispatches stays in the GIQ. x1 = 0x40, x2 = 12; w0 to w7 are rows of the first half. -/
def paced : State :=
  { (regs2 0x40 12).updCore fun c => { c with wins := Vector.replicate 8 (some ⟨0, .row, 0, 4, 1⟩) } with lagGrid := true, lagEng := true }

/-- Does an instruction only write this entry. -/
def sent (i : Instr) (s : State) (op : GOp) (len : Nat) : Bool := ran (exec i s) fun t => decide (t = dispatched s op i len)

theorem test_met_MayDispatch : MayDispatch paced [1, 2, 0] ∧ Paced paced ∧ fieldNat paced.core.status 8 3 < 5 := by decide +kernel

theorem test_met_MarkersAreDispatched :
    (let s := paced
     s.core.runAhead = false ∧ s.core.giqFull = false ∧ Clear s [1] ∧ s.pl ≠ 2 ∧
       sent (.fenceSv 4) s (.fence 0 4) 4 ∧ sent (.fenceVs 0) s (.fence 1 0) 4 ∧ sent (.fenceVv 1) s (.fence 2 1) 4 ∧
       sent (.fenceAll 2) s (.fence 3 2) 4 ∧ sent (.seal 0) s (.fence 3 4) 4 ∧ sent .irrev s (.fence 3 4) 4 ∧
       ran (exec .halt s) fun t => t.core.run == .halting && t.core.giq.length == 1) ∧
    (let s := tasked paced
     let m := { s with tasks := s.tasks.map fun t => { t with member := true } }
     m.memberCore m.cur = true ∧ sent (.seal 0) m (.seal 0) 4 ∧ sent .irrev m (.irrev 0) 4) := by decide +kernel

/-- The first 128 KiB map to 0x40000 by a held translation that lets task level write; x1 points there. -/
def pointed : State :=
  let s := ({ State.reset.placeBytes [] with lagGrid := true, lagEng := true } : State).tlbInstall (probeBank 0 0) 0 0 0x4003F 17
  { s with core := s.core.setReg 1 0x40 }

theorem test_met_seal_with_a_record :
    (let s := pointed
     s.pl = 0 ∧ s.reg 1 = 0x40 ∧ (s.reg 1).toNat % 64 = 0 ∧
       s.translate (s.scalarWho false) .store (s.reg 1) = (s, .ok 0x40040) ∧ s.logged 0x40040 = true ∧
       ran (exec (.seal 1) s) fun t => t.core.giq.map (·.op) == [.fence 3 4]) := by decide +kernel

theorem test_met_SealqAndEnqAct :
    (let s := { (regs2 16 0).modQueue 0 3 fun x => { x with state := 1, log2sz := 12, head := 0x20, tail := 0x1010 } with
                dom := { State.reset.dom with datum := 9 } }
     Clear s [3, 1] ∧ s.pl ≠ 2 ∧ s.core.runAhead = false ∧ s.reg 1 ≠ 0 ∧ (s.reg 1).toNat % 16 = 0 ∧
       (s.getQueue s.part 3).state = 1 ∧ (s.getQueue s.part 2).state ≠ 1 ∧
       ran (exec (.sealq 3) s) (fun t => t.reg 3 == 9) ∧
       ran (exec (.enq 3 1 3) s) (fun t => t.reg 3 == 0x1010 && (t.getQueue 0 3).tail == 0x1020) ∧
       Landed s ∧ s.pl = 0 ∧ s.core.drained = true ∧
       ran (exec (.enq 3 1 3) (s.setReg 1 8)) (fun t => t.core.cause == 2 && (t.getQueue 0 3).tail == 0x1010) ∧
       ran (exec (.enq 3 1 3) (s.setReg 1 0)) (fun t => t.core.cause == 2 && (t.getQueue 0 3).tail == 0x1010) ∧
       ran (exec (.enq 3 1 3) (s.setReg 1 0x20)) (fun t => t.reg 3 == -1) ∧ ran (exec (.enq 3 1 2) s) fun t => t.reg 3 == -2) := by decide +kernel

theorem test_met_DispatchWritesOneEntryOrStalls :
    (let s := paced.updCore fun c => { c with giq := List.replicate 256 (out (.cinc 0 0)) }
     s.core.giqFull = true ∧ ran (exec (.cinc 1 1) s) fun t => t.core.giq.length == 256) ∧
    (let s := paced.updCore fun c => { c with giq := [out (.crd 0 1)] }
     s.core.pendingReg 1 = true ∧ ran (exec (.cwait 1 1) s) fun t => t.core.giq.length == 1 && t.core.pc == 0x1000) := by decide +kernel

theorem test_masks_are_dispatched :
    sent (.kbound 3 1 2) paced (.kop .bound 3 0 0 0x40 12) 4 ∧ sent (.kand 3 1 2) paced (.kop .and 3 1 2 0 0) 4 ∧
    sent (.kpop 4 1) paced (.kop .pop 4 1 0 0 0) 4 ∧ sent (.kone 4) paced (.kop .one 4 0 0 0 0) 4 := by decide +kernel

theorem test_met_MaskInstructionsWriteTheirMasks :
    (let s := regs2 96 200
     Idle s ∧ s.lagGrid = false ∧ Clear s [1, 2] ∧
       ran (exec (.kbound 3 1 2) s) (fun t => t.core.masks.read 3 == 2 ^ 104 - 1) ∧
       ran (exec (.kbound 3 2 1) s) (fun t => t.core.masks.read 3 == 0) ∧
       ran (exec (.kset 3 1 2) s) (fun t => t.core.masks.read 3 == 200 <<< 64 + 96) ∧
       ran (exec (.kone 3) s) fun t => t.core.masks.read 3 == BitVec.allOnes 128) ∧
    (let s := regs2 0x7FFFFFFFFFFFFFFF 0x7FFFFFFFFFFFFFFF
     ran (exec (.kbound 3 1 2) s) fun t => t.core.masks.read 3 == 0) := by decide +kernel

theorem test_met_WindowInstructionsDispatch :
    (let s := paced
     let w : Window := ⟨0, .row, 0, 4, 1⟩
     State.formRegs 1 5 = [13] ∧ MayDispatch s [13] ∧ ETy.ofCode 0 = some .f32 ∧ s.win 1 = some w ∧ s.win 2 = some w ∧
       s.operand2 0 2 = some (.window, some w) ∧ typeOk (.elem .add) .f32 = true ∧
       countsOk (.elem .add) { ty := .f32, km := 31, op2 := .window, wd := some w, w1 := some w, w2 := some w } = true ∧
       sent (.vadd ⟨2, 1, 1, 31, 0, 0⟩) s
         (.win (.elem .add) { ty := .f32, km := 31, op2 := .window, wd := some w, w1 := some w, w2 := some w }) 4 ∧
       sent (.vrsum ⟨1, 1, 31, 0⟩) s (.win (.rowRed .sum) { ty := .f32, km := 31, wd := some w, w1 := some w }) 4 ∧
       State.formRegs 2 2 = [] ∧ s.operand2 2 2 = some (.const 2, none) ∧
       (let one : Window := ⟨0, .row, 0, 1, 1⟩
        let u := s.updCore fun c => { c with wins := Vector.replicate 8 (some one) }
        sent (.vext ⟨2, 1, 1, 31, 2, 0⟩) u (.win .ext { ty := .f32, km := 31, op2 := .const 2, w1 := some one, xd := 9 }) 4) ∧
       sent (.vmovOp2 ⟨2, 1, 31, 2, 0⟩) s (.win (.elem .mov) { ty := .f32, km := 31, op2 := .const 2, wd := some w }) 4 ∧
       sent (.viota ⟨1, 31, 0⟩) s (.win .iota { ty := .f32, km := 31, wd := some w }) 4 ∧
       sent (.vquant ⟨2, 1, 1, 31, 0⟩) s (.win (.quant 2) { ty := .f32, km := 31, wd := some w, w1 := some w }) 4 ∧
       sent (.vcmpLt ⟨2, 1, 5, 31, 0, 0⟩) s
         (.win (.cmp .lt) { ty := .f32, km := 31, op2 := .window, w1 := some w, w2 := some w, kd := 5 }) 4) := by decide +kernel

theorem test_met_MasksAndTileFormsDispatch :
    (let s := paced
     let w : Window := ⟨0, .row, 0, 4, 1⟩
     s.win 3 = some w ∧ sent (.wrd 3 9) s (.wrd 9 (w.descriptor 3)) 8 ∧ sent (.ofill 3 31 0 7) s (.ofill w 31 7) 8 ∧
       copyOk false ⟨0, 1, 0, 0, 0, 0, 0, 0⟩ = true ∧ copyOk true ⟨0, 1, 15, 15, 0, 0, 0, 0⟩ = true ∧
       sent (.gcopy ⟨0, 1, 0, 0, 0, 0, 0, 0⟩) s (.copy false ⟨0, 1, 0, 0, 0, 0, 0, 0⟩) 8 ∧
       sent (.gsave ⟨1, 127, 0, 1⟩) s (.gimage false 1 0 128 0x40) 8 ∧ oaccOk ⟨0, 0, 0, 0, 0, 0, 0, 0, 0, 0, 0, 0, 0⟩ = true ∧
       sent (.oacc ⟨0, 0, 0, 0, 0, 0, 0, 0, 0, 0, 0, 0, 0⟩) s (.oacc ⟨0, 0, 0, 0, 0, 0, 0, 0, 0, 0, 0, 0, 0⟩) 8 ∧
       ran (exec (.wset ⟨15, 3, 100, 0, 1, 5, 1⟩) s) fun t => t.win 5 == some ⟨1, .row, 36, 4, -1⟩) := by decide +kernel

theorem test_met_GridMemoryAndStreamInstructionsDispatch :
    (let s := paced
     let w : Window := ⟨0, .row, 0, 4, 1⟩
     s.win 3 = some w ∧ s.win 4 = some w ∧ sent (.gld ⟨0, 3, 2, 1, 31⟩) s (.gls .ld 4 w 31 0x40 12 none) 4 ∧
       sent (.gstx ⟨2, 3, 4, 1, 31⟩) s (.gls .stx 1 w 31 0x40 0 (some w)) 4) ∧
    (let s := paced.updCore fun c => (c.setReg 2 0x100000100).setReg 3 0x400000040
     let p : SSpec := ⟨.f32, false, false, false, 0, 16, 2, 0, 4, 64⟩
     MayDispatch s [1, 2, 3] ∧ parseSpec .qld 5 0x40 0x100000100 0x400000040 = some p ∧
       parseSpec .qldt 5 0x40 0x100000100 0x400000040 = some p ∧
       parseSpec .qldff 5 0x40 0x100000100 0x400000040 = some p ∧
       parseSpec .qldx 5 0x40 0x100000100 0x400000040 = some p ∧
       parseSpec .qldz 5 0x40 0x100001100 0x400000040 = some { p with ratio := 1 } ∧
       sent (.qld 5 1 2) s (.stream .qld 5 0x40 p 0 0) 4 ∧ sent (.qldff 9 5 1 2) s (.stream .qldff 5 0x40 p 0 9) 4 ∧
       sent (.qldx 1 5 1 2) s (.stream .qldx 5 0x40 p 0x40 0) 4) := by decide +kernel

theorem test_met_EngineCommandsDispatch :
    (let s := paced
     let w : Window := ⟨0, .row, 0, 4, 1⟩
     s.win 3 = some w ∧ w.mode = .row ∧ w.count ≤ 8 ∧ sent (.xfer 4 0 1 2) s (.xfer 4 0x40 12 0) 4 ∧
       sent (.xferb 4 2 3 31) s (.xferb 2 w 4 31) 4 ∧ sent (.dztab 4 3 1) s (.dztab 4 3 0x40) 4 ∧
       sent (.sendQ8 4 1 1) s (.send 4 0x40 1 true) 4 ∧ sent (.recvAdd 4 1) s (.recv 4 0x40 true) 4) ∧
    (let s := paced.updCore fun c => { (c.setReg 5 0x10000000000).setReg 2 0x20 with giq := [] }
     (s.reg 2).toNat % 32 = 0 ∧ fieldNat (s.reg 5) 40 4 ≠ 0 ∧ fieldNat (s.reg 5) 35 5 < 28 ∧ fieldNat (s.reg 5) 44 3 < 5 ∧
       fieldNat (s.reg 5) 32 3 = 0 ∧ sent (.xdz 4 5 1 2) s (.xdz 4 0x40 0x20 0x10000000000) 4) := by decide +kernel

theorem test_met_SynchronisationInstructionsDispatch :
    (let s := paced.updCore fun c => c.setReg 6 0x4000
     barAddrOk 0x4000 = true ∧ (s.reg 2).toNat ≤ 65535 ∧ 0 ≤ (s.reg 1).toInt ∧ (s.reg 2) ≠ 0 ∧
       (s.reg 2).toNat < 2 ^ 31 ∧ sent (.barArrive 9 6) s (.barArrive false 0x4000 9) 4 ∧ sent (.barWait 6 2) s (.barWait 0x4000 12) 4 ∧
       sent (.barInit 6 2) s (.barInit 0x4000 12) 4 ∧ sent (.cwait 3 2) s (.cwait 3 12) 4 ∧
       sent (.crd 9 3) s (.crd 3 9) 4 ∧ sent (.hCwait 3 100) s (.cwait 3 100) 2 ∧ sent (.ipost 7 1) s (.ipost 7 0x40) 4 ∧
       sent (.slook 9 1) s (.slook 0x40 9) 4 ∧ sent (.sins 9 1 2) s (.sins 0x40 12 9) 4 ∧ sent (.sinv 1) s (.sinv 0x40) 4) := by decide +kernel

theorem test_met_AccumulationWindowsDispatch :
    (let s := tasked paced
     let w : Window := ⟨0, .row, 0, 4, 1⟩
     let d := s.updCore fun c => { c with awdecl := [3] }
     (s.curTask.map (·.nw)) = some 4 ∧ (s.reg 1).toNat % 4 = 0 ∧ (s.reg 2) ≠ 0 ∧ (s.reg 2).toNat ≤ 16384 ∧
       ran (exec (.awin 1 3 1 2) s) (fun t => t.core.awdecl == [3] && t.core.giq.map (·.op) == [.awin .addI32 3 0x40 12]) ∧
       d.core.awdecl = [3] ∧ sent (.ascat 3 1 2 31) d (.ascat 3 w w 31) 4 ∧ sent (.amerge 3) d (.amerge 3) 4 ∧
       ran (exec (.arel 3) d) fun t => t.core.awdecl == [] && t.core.giq.length == 1) := by decide +kernel

/-! ### The grid side at work -/

/-- One f32 or i32 vector as a row window. -/
def rowW (half origin : Nat) : Window := ⟨half, .row, origin, 1, 1⟩

/-- The second row of the first half holds its column numbers. -/
def ramp : Grid := Sp.put GridRow.init [] (Grid.key 0 1) ⟨true, true, false, Vector.ofFn fun i : Fin 128 => BitVec.ofNat 32 i.val⟩

theorem test_window_elements_are_the_cells_of_R117 :
    (⟨0, .diag, 3, 2, -1⟩ : Window).read ramp 1 127 = 0 ∧ (⟨0, .row, 2, 2, -1⟩ : Window).read ramp 1 127 = 127 ∧
    (⟨0, .col, 126, 4, 2⟩ : Window).read ramp 2 1 = 2 ∧ (⟨0, .diag, 3, 1, 1⟩ : Window).read ramp 5 1 = 4 := by decide +kernel

theorem test_met_IntegerVectorWritesItsRow :
    (let r := vecStep (.elem .add) { ty := .i32, km := 31, wd := some (rowW 0 2), w1 := some (rowW 0 1), w2 := some (rowW 0 1) } {}
       3 ramp {} {} 0
     r.grid.cell 0 2 1 = 2 ∧ r.grid.cell 0 2 2 = 0 ∧ r.grid.cell 0 1 127 = 127) ∧
    (let r := vecStep (.elem .mul) { ty := .i32, km := 31, wd := some (rowW 1 127), w1 := some (rowW 0 1), w2 := some (rowW 0 1) } {}
       (BitVec.allOnes 128) ramp {} {} 0
     r.grid.cell 1 127 127 = 16129) := by decide +kernel

theorem test_met_WindowPipeDoesOneVector :
    (let a : WinArgs := { ty := .i32, km := 31, op2 := .const 1, wd := some ⟨0, .row, 0, 2, 1⟩, w1 := some ⟨0, .row, 0, 2, 1⟩ }
     let s := { alone (.win (.elem .add) a) with lagGrid := true }
     Alone s (out (.win (.elem .add) a)) ∧ s.core.grid = [] ∧ winCount (.elem .add) a = 2 ∧
       ran (exec (.windowPipeVector .pass) s) (fun t => t.core.grid.cell 0 0 9 == 1 && t.core.grid.cell 0 1 9 == 0 &&
         t.core.flight.map (·.prog) == [1]) ∧
       ran (exec (.windowPipeVector .pass) (s.updCore fun c => { c with flight := [{ out (.win (.elem .add) a) with prog := 1 }] }))
         fun t => t.core.grid.cell 0 1 9 == 1 && t.core.flight == []) := by decide +kernel

theorem test_met_WindowPipeDoesMasksAndTiles :
    (let s := fun op => (alone op).updCore fun c => { c with masks := c.masks.setIfInBounds 2 (BitVec.ofNat 128 (5 <<< 64)) }
     KOp.bound.toReg = false ∧ Alone (s (.kop .pop 9 2 0 0 0)) (out (.kop .pop 9 2 0 0 0)) ∧
       ran (exec (.windowPipeVector .pass) (s (.kop .pop 9 2 0 0 0))) (fun t => t.core.getReg 9 == 2) ∧
       ran (exec (.windowPipeVector .pass) (s (.kop .first 9 2 0 0 0))) (fun t => t.core.getReg 9 == 64) ∧
       ran (exec (.windowPipeVector .pass) (s (.kop .first 9 3 0 0 0))) (fun t => t.core.getReg 9 == 128) ∧
       ran (exec (.windowPipeVector .pass) (s (.kop .geth 9 2 0 0 0))) (fun t => t.core.getReg 9 == 5) ∧
       ran (exec (.windowPipeVector .pass) (s (.kop .getl 9 2 0 0 0))) (fun t => t.core.getReg 9 == 0) ∧
       ran (exec (.windowPipeVector .pass) (s (.wrd 9 77))) (fun t => t.core.getReg 9 == 77) ∧
       ran (exec (.windowPipeVector .pass) (s (.ofill (rowW 1 3) 31 8))) (fun t => t.core.grid.cell 1 3 127 == 8) ∧
       ran (exec (.windowPipeVector .pass) (s (.copy false ⟨1, 0, 0, 0, 0, 0, 0, 0⟩))) fun t => t.core.flight == []) := by decide +kernel

/-- An i8 queue entry of rank 2 with one value in each place. -/
def entry2 (v : Int) : QEntry := ⟨0, .i8, 2, 1, 0, none, List.replicate 8 (List.replicate 2 (some (.i v)))⟩

theorem test_met_OaccStepPopsAndAccumulates :
    (let f : OaccF := ⟨0, 0, 0, 15, 15, 0, 0, 0, 0, 0, 0, 0, 0⟩
     let e := { out (.oacc f) with ord := 1 }
     let s := (alone (.oacc f)).updCore fun c =>
       { c with flight := [e], queues := (c.queues.setIfInBounds 0 [entry2 2]).setIfInBounds 4 [entry2 3] }
     oaccFmts f = (.i8, .i8) ∧ OFmt.i8.rank = 2 ∧ Alone s e ∧ (entry2 2).ord < e.ord ∧ s.core.grid = [] ∧
       (s.core.queues.getD 0 []).head? = some (entry2 2) ∧ (s.core.queues.getD 4 []).head? = some (entry2 3) ∧
       ran (exec (.oaccStep .pass) s) fun t => t.core.grid.cell 0 7 7 == 12 && t.core.grid.cell 0 8 7 == 0 && t.core.flight == [] &&
         t.core.queues == Vector.replicate 8 []) := by decide +kernel

theorem test_met_StarvedStepTraps :
    (let f : OaccF := ⟨2, 0, 0, 15, 15, 0, 0, 0, 0, 0, 0, 0, 0⟩
     let s := alone (.oacc f)
     Alone s (out (.oacc f)) ∧ s.core.queues.getD 2 [] = [] ∧ s.cmds = [] ∧ s.pl = 0 ∧ s.core.prev = none ∧
       ran (exec (.oaccStep .pass) s) (fun t => t == s) ∧
       ran (exec .giqFaultTrap s) fun t => t.core.cause == 0xE && t.core.tval == 2 && t.core.epc == 0x900 && t.core.spc == 0x1000) := by
  decide +kernel

theorem test_met_StreamStepPlacesOneEntry :
    (let st : Stream := { kind := .qld, ord := 0, seq := 0, q := 4, addr := 0x2000, spec := ⟨.i8, false, false, false, 0, 8, 2, 0, 4, 32⟩,
                          idx := 0, pc := 0, word := 0, pl := 2, dzNext := 0 }
     let s := { bytesAt2000 (fw2 0 0) with lagGrid := true }.updCore fun c => { c with streams := [st] }
     st.q = (4 : BitVec 3).toNat ∧ State.queueUsed s.core 4 + entrySlots .i8 4 false ≤ 32 ∧ (s.formStep st 0).1.core = s.core ∧
       (s.formStep st 0).2.1 = st ∧ s.readIndices = s ∧ s.storeAhead st = false ∧
       ran (exec (.streamStep 4 .pass) s) fun t => (t.core.queues.getD 4 []).length == 1 && t.core.streams.map (·.next) == [1] &&
         ((((t.core.queues.getD 4 []).headD (entry2 0)).vals.headD []) == [some (.i (-128)), some (.i 0)])) := by decide +kernel

theorem test_met_PortTakesHeadsAndCounts :
    (let s := fun op => (alone op).updCore fun c => c.setCtr 3 ⟨4, false, 0, 0⟩
     Alone (s (.cinc 3 2)) (out (.cinc 3 2)) ∧ (s (.cinc 3 2)).core.giq = [] ∧ (s (.cinc 3 2)).cmds = [] ∧
       ((s (.cinc 3 2)).core.ctr 3).count = 4 ∧
       ran (exec .giqDeparture (s (.cinc 3 2))) (fun t => (t.core.ctr 3).count == 6) ∧
       ran (exec .giqDeparture (s (.cinc 3 65531))) (fun t => (t.core.ctr 3).count == 65535) ∧
       ran (exec .giqDeparture (s (.cset 3 9))) (fun t => (t.core.ctr 3).count == 9) ∧
       ran (exec .giqDeparture (s (.crd 3 9))) (fun t => t.core.getReg 9 == 4) ∧
       ran (exec .cwaitSatisfied (s (.cwait 3 4))) (fun t => t.core.flight == []) ∧
       ran (exec .cwaitSatisfied (s (.cwait 3 3))) (fun t => t.core.flight.length == 1)) ∧
    (let s := { State.reset.updCore (fun c => { c with giq := [out (.cinc 1 1), out (.cinc 2 1)] }) with lagGrid := true }
     ran (exec .giqDeparture s) fun t => t.core.giq.length == 1 && t.core.flight.length == 1) := by decide +kernel

theorem test_met_RingsBarriersAndTagsAct :
    (let s := fun op => tasked (alone op)
     Alone (s (.ipost 3 0)) (out (.ipost 3 0)) ∧ ((s (.ipost 3 0)).channel 3).h = -1 ∧ ((s (.ipost 3 0)).channel 3).posted = [] ∧
       ran (exec .ipostApply (s (.ipost 3 0))) (fun t => t.channel 3 == ⟨0, []⟩ && t.core.flight == []) ∧
       ran (exec .ipostApply (s (.ipost 3 63))) (fun t => t.channel 3 == ⟨-1, [63]⟩) ∧
       ran (exec .ipostApply (s (.ipost 3 64))) (fun t => t.core.flight.length == 1) ∧
       ran (exec .iwaitSatisfied (s (.iwait 3 0))) (fun t => t.core.flight.length == 1)) ∧
    (let o : BarObj := ⟨true, 1, 0, 4, 0⟩
     let s := fun op => (tasked (alone op)).modTask 7 fun t => { t with nb := 1, bars := [(0, o)] }
     (s (.barInit 0 2)).barSite 0 = .here 7 0 ∧ (s (.barInit 0 2)).barObj 7 0 = o ∧ (barAddr 0).scope = 0 ∧
       ran (exec .giqDeparture (s (.barInit 0 2))) (fun t => t.barObj 7 0 == ⟨true, 2, 0, 0, 0⟩) ∧
       ran (exec .giqDeparture (s (.barArrive false 0 9))) (fun t => t.barObj 7 0 == ⟨true, 1, 0, 5, 0⟩ && t.core.getReg 9 == 4) ∧
       ran (exec .barWaitSatisfied (s (.barWait 0 3))) (fun t => t.core.flight == []) ∧
       ran (exec .barWaitSatisfied (s (.barWait 0 4))) fun t => t.core.flight.length == 1) ∧
    (let s := fun op => tasked (alone op)
     ran (exec .giqDeparture (s (.slook 5 9))) (fun t => t.core.getReg 9 == -1) ∧
       ran (exec .giqDeparture (s (.sins 5 77 9))) (fun t => t.tagtab == [⟨0, 7, 5, 77⟩] && t.core.getReg 9 == -1) ∧
       ran (exec .giqDeparture { s (.slook 5 9) with tagtab := [⟨0, 7, 5, 77⟩] }) (fun t => t.core.getReg 9 == 77) ∧
       ran (exec .giqDeparture { s (.sinv 5) with tagtab := [⟨0, 7, 5, 77⟩] }) fun t => t.tagtab == []) := by decide +kernel

/-- Two tensor maps of one f32 element, from 0x3000 to 0x4000, and the element. -/
def mapped2 (s : State) : State :=
  ((s.rawWrite 0x1000 (leBytes 8 0x3000)).rawWrite 0x1040 (leBytes 8 0x4000)).rawWrite 0x3000 [1, 2, 3, 4]

/-- Command 5 of core 0 with counter 3, accepted at firmware level. -/
def cmdOf (op : CmdOp) : Cmd :=
  { id := 5, core := 0, ctr := 3, op := op, pc := 0x900, word := 0, pl := 2, part := 0, task := 0, rin := 1, hold := false,
    state := .running, next := 0, dz := 0 }

/-- The transfer of those maps as an accepted command of core 0 with counter 3. -/
def oneCmd (s : State) : Option Cmd :=
  match s.prepXfer { out (.xfer 3 0x1040 0x1000 0) with pl := 2 } 0x1040 0x1000 0 with
  | (_, .ok (d, r, sm, dm)) => some (cmdOf (.xfer d r 0 sm dm))
  | _ => none

theorem test_met_EnginesAcceptCompleteAndPark :
    (let e := { out (.xfer 3 0x1040 0x1000 0) with pl := 2 }
     let s := mapped2 (({ fw2 0 0 with lagGrid := true, lagEng := true } : State).updCore fun c => { c with flight := [e] })
     let p := s.prepXfer e 0x1040 0x1000 0
     Alone s e ∧ (match p.2 with | .ok _ => true | .error _ => false) = true ∧ s.cmds = [] ∧ p.1.cmds = [] ∧ p.1.core = s.core ∧
       p.1.ctrFull 3 = false ∧ p.1.portGrant true e .transfer = true ∧
       ran (exec (.engineAccept .transfer) s) fun t => t.cmds.length == 1 && (t.core.ctr 3).count == 1 && t.core.flight == []) ∧
    (let s := (mapped2 ({ fw2 0 0 with lagGrid := true, lagEng := true } : State)).modPart 0 fun x => { x with logmib := 1 }
     let s := { s with cmds := (oneCmd s).toList }.updCore fun c => c.setCtr 3 ⟨1, false, 0, 0⟩
     s.cmds.length = 1 ∧
       ran (exec (.engineComplete 5) s) (fun t => t.readNat 0x4000 4 == 0x04030201 && t.cmds == [] && (t.core.ctr 3).count == 0) ∧
       ran (exec (.engineRuntimeFault 5 (.fail false 0 0)) s) fun t => t.cmds.map (·.state) == [.parked 0x0D 0] && (t.core.ctr 3).f) := by decide +kernel

theorem test_met_FencesAndSealsRetire :
    (let s := fun op => (tasked (alone op)).updCore fun c => { c with rin := 5, sealReq := true }
     (s (.seal 0)).gridTask = some (gang [0] .running) ∧ Alone (s (.seal 0)) (out (.seal 0)) ∧ (s (.seal 0)).core.openN ≠ 2 ∧
       ran (exec .fenceRetire (s (.fence 3 4))) (fun t => t.core.flight == []) ∧
       ran (exec .sealRetire (s (.seal 0))) (fun t => t.core.rin == 6 && t.core.openN == 1 && !t.core.sealReq && t.core.flight == []) ∧
       ran (exec .irrevRetire (s (.irrev 0))) (fun t => t.core.rin == 6 && t.core.flight.map (·.prog) == [6])) ∧
    (let e := { out (.irrev 0) with prog := 6 }
     let s := (tasked (alone (.irrev 0))).updCore fun c => { c with rin := 9, flight := [e] }
     later 5 s.dom.datum = true ∧ ran (exec .irrevRetire s) (fun t => t == Safety.waiting s e) ∧
       (let d := { s with dom := { s.dom with datum := 5 } }
        later 5 d.dom.datum = false ∧
          ran (exec .irrevRetire d) fun t => t.core.now && t.net == [.irrev 5] && t.core.flight == [])) := by decide +kernel

theorem test_met_HaltAndGridResetRetire :
    (let s := tasked (alone .halt)
     s.gridTask = some (gang [0] .running) ∧ s.core.prev = none ∧ s.core.task = some 7 ∧ Alone s (out .halt) ∧
       (∀ c < 32, (s.core.ctr c).f = false ∧ (s.core.ctr c).count = 0) ∧
       ran (exec .haltRetire s) fun t => t.core.run == .idle && t.tasks.isEmpty && t.core.task == none) ∧
    (let s := { tasked (alone .halt) with tasks := [gang [0, 5] .running] }
     ran (exec .haltRetire s) fun t => t.core.run == .idle && t.tasks.map (·.halted) == [[0]]) ∧
    (let s := (tasked (alone .gridReset)).updCore fun c => { c with flags := 9, grid := ramp }
     ran (exec .gridResetEntry s) fun t => t.core.grid == [] && t.core.flags == 0) := by decide +kernel

theorem test_met_RemoteBarrierOperationsAct :
    (let o : BarObj := ⟨true, 1, 0, 4, 1⟩
     let s := ((tasked (cored (atLevel 0))).modTask 7 fun t => { t with nb := 1, bars := [(2048, o)] }).modPart 0 fun x =>
       { x with tenant := 9 }
     let a : Word := 0x74000
     (barAddr a).task = 7 ∧ (barAddr a).scope = 1 ∧ s.memSide 0 7 (barAddr a) = .here 7 2048 ∧ s.barObj 7 2048 = o ∧
       ran (exec (.barrierRemoteOp (.init 3) a ⟨0, 9, 4⟩) s) (fun t => t.barObj 7 2048 == ⟨true, 3, 0, 0, 1⟩ && t.net == [.barAns 4 0 0]) ∧
       ran (exec (.barrierRemoteOp .arrive a ⟨0, 9, 4⟩) s) (fun t => (t.barObj 7 2048).e == 5 && t.net == [.barAns 4 0 4]) ∧
       ran (exec (.barrierRemoteOp (.wait 0) a ⟨0, 9, 4⟩) (s.modTask 7 fun t => { t with bars := [] })) (fun t => t.net == [.barAns 4 8 0]) ∧
       (s.getPart 0).tenant ≠ 8 ∧ ran (exec (.barrierRemoteOp .arrive a ⟨0, 8, 4⟩) s) (fun t => t.net == [.barAns 4 7 0]) ∧
       ran (exec (.barrierRemoteOp (.wait 0) a ⟨0, 0, 4⟩) s) fun t => t.net == [.barAns 4 7 0]) ∧
    (let e := { out (.barArrive false 0x74000 9) with prog := 1, since := 0 }
     let s := cored fun c => { atLevel 0 c with flight := [e] }
     Alone s e ∧ ran (exec (.barrierRemoteOp (.answer 0 0 6) 0x74000 ⟨0, 0, 0⟩) s) fun t => t.core.getReg 9 == 6 && t.core.flight == []) := by
  decide +kernel

theorem test_met_AsynchronousTrapIsTaken :
    (let s := cored fun c => { atLevel 0 c with preReq := true, msgReq := true }
     s.core.run = .running ∧ s.pl = 0 ∧
       ran (exec .asyncTrap s) fun t => t.core.cause == 0x8000000000000020 && t.core.pc == 0x8080 && t.core.spc == 0x1000 && t.pl == 1) ∧
    (let s := cored fun c => { atLevel 1 c with status := 0x11, msgReq := true }
     s.pl = 1 ∧ s.core.status.getLsbD 4 = true ∧ s.core.timecmp = 0 ∧
       ran (exec .asyncTrap s) fun t => t.core.cause == 0x8000000000000023 && fieldNat t.core.status 2 2 == 1) := by decide +kernel

theorem test_met_CoreEventsAct :
    (let s := (cored fun c => { atLevel 0 c with frame := some 0x5000,
                                                 grid := Sp.put GridRow.init [] 0 { GridRow.init with absent := true } }).rawWrite
       (frameRow 0x5000 0 0) [1, 2, 3, 4]
     (s.core.grid.row 0 0).absent = true ∧ s.core.frame = some 0x5000 ∧ s.core.fetchesRow 0 = true ∧
       (unitsOf 256 (frameRow 0x5000 0 0) 512).find? s.poisoned = none ∧
       ran (exec (.absentRowFetch 0 0) s) fun t => t.core.grid.cell 0 0 0 == 0x04030201 && !(t.core.grid.row 0 0).absent) ∧
    (let s := { bytesAt2000 (fw2 0 0) with lagLoads := true }.updCore fun c => { c with load := some ⟨3, 0x2000, 0x2000, 2, true, 4⟩ }
     s.poisonedRange 0x2000 2 = false ∧ s.region 0x2000 ≠ .dev ∧
       ran (exec .scalarLoadReturn s) fun t => t.reg 3 == 0xFFFFFFFFFFFF8180 && t.core.load == none && t.core.pc == 0x1004) ∧
    ran (exec (.timecmpWrite 9) State.reset) (fun t => t.core.timecmp == 9) := by decide +kernel

/-! ### Translation and launch -/

/-- Does a result hold this value. -/
def okIs {α ε : Type} [DecidableEq α] (r : Except ε α) (a : α) : Bool := match r with | .ok b => decide (b = a) | .error _ => false

/-- The page table of a placed program, physical, for partition 0. -/
def tabled : State := { State.reset.placeBytes [] with tlb := [] }

theorem test_met_TranslationEventsAct :
    (tabled.getPart tabled.part).ha = false ∧ okIs (tabled.walk tabled.part 0x1234) (0x40037, 17) ∧ (0x1234 : Nat) < apertureBase ∧
    ran (exec (.pageWalk 0x1234) tabled) (fun t => t.tlbHit (probeBank 0 0x1234) 0 0x1234 == some ⟨probeBank 0 0x1234, 0, 0, 17, 0x40037⟩ &&
      t.tlbHit (clusterTlb 0) 0 0x1234 == some ⟨clusterTlb 0, 0, 0, 17, 0x40037⟩) ∧
    probeBank 2 0x2A0000 = 40 + 4 + (5 ^^^ 1) ∧
    (match State.reset.walk 0 0 with | .ok _ => false | .error _ => true) = true := by decide +kernel

/-- A host-assisted walk of partition 3 for the fifth cluster, asked for by core 17 as an engine of task 7. -/
def walking : WalkReq := ⟨4, 3, 0x20000, 1, 4, 7, [(17, 7, 4)], some 9, false⟩

theorem test_met_host_assisted_walks :
    (let s := { (State.reset.modPart 3 fun x => { x with duties := [⟨9, 1, 0x20000, 1, 0⟩], grantbase := 0x100000 }) with walks := [walking] }
     let g := s.rawWrite 0x100000 (leBytes 8 0xFFFFFFFFFFFFFFFF)
     (s.getPart 3).duties = [⟨9, 1, 0x20000, 1, 0⟩] ∧ fieldNat (9 : Word) 0 32 = 9 ∧ walking.part = 3 ∧ walking.stale = false ∧
       g.goodLeaf 3 0x4000000040037 = true ∧ s.goodLeaf 3 0x8004000000040037 = false ∧
       ran (exec (.hostAnswer 3 9 0x4000000040037) g) (fun t => (t.getPart 3).duties == [] && t.walks == [] &&
         t.tlbHit (clusterTlb 4) 3 0x20000 == some ⟨clusterTlb 4, 3, 0x20000, 17, 0x40037⟩) ∧
       ran (exec (.hostAnswer 3 9 0) s) (fun t => t.tlb == [] && (t.getPart 3).answers == [⟨4, 1, [(17, 7, 4)]⟩]) ∧
       ran (exec (.hostAnswer 3 9 0x4000000040037) { g with walks := [{ walking with stale := true }] }) fun t =>
         t.tlb == [] && (t.getPart 3).answers == [] && t.walks == []) := by decide +kernel

theorem test_met_invalidations :
    (let s := { State.reset with tlb := [⟨4, 3, 0, 17, 0x37⟩, ⟨4, 4, 0, 17, 0x37⟩], walks := [walking] }
     fieldNat (0x8000000000000000 : Word) 0 32 = 0 ∧ (s.getPart 3).invbusy = false ∧
       ran (exec (.invalidation 3 0x8000000000000000) s) fun t => t.tlb == [⟨4, 4, 0, 17, 0x37⟩] && (t.getPart 3).invbusy &&
         t.walks.all (·.stale) && !t.mapsHeld 3 && (t.getPart 3).invwait == [] &&
         ran (exec (.invalidationComplete 3) t) fun u => !(u.getPart 3).invbusy && (u.getPart 3).invseq == 1) ∧
    (let x : TMap := ⟨0, [], [], [], 0, false, false, 0, false, 0, 0, 0, 0, []⟩
     let s := { (State.reset.modPart 0 fun y => { y with invbusy := true }) with cmds := [cmdOf (.xfer x x 0 [(0, 0)] [])] }
     (s.getPart 0).invbusy = true ∧ s.mapsHeld 0 = true ∧ ran (exec (.invalidationComplete 0) s) fun t => t == s) := by decide +kernel

theorem test_met_QueueDescriptorEventsAct :
    (let s := State.reset
     (s.getQueue 1 2).state = 0 ∧ (s.getQueue 1 2).en = false ∧ s.dom.state = .run ∧ s.queuesOpen 1 = true ∧ s.boot.status = 0 ∧
       (let c := s.modPart 1 fun x => { x with stage := .drain }
        c.queuesOpen 1 = false ∧ ran (exec (.queueEnable 1 2 12) c) fun t => (t.getQueue 1 2).log2sz == 12 && (t.getQueue 1 2).state == 0) ∧
       ran (exec (.tailWrite 1 2 8) s) (fun u => (u.getQueue 1 2).state == 2 && (u.getQueue 1 2).fcause == 5) ∧
       ran (exec (.queueEnable 1 2 12) s) fun t => (t.getQueue 1 2).state == 1 && (t.getQueue 1 2).log2sz == 12 &&
         ran (exec (.tailWrite 1 2 0x1000) t) (fun u => (u.getQueue 1 2).tail == 0x1000 && (u.getQueue 1 2).state == 1 &&
           (u.getQueue 1 2).pubs == [(0x1000, 0)]) &&
         ran (exec (.tailWrite 1 2 0x1010) t) (fun u => (u.getQueue 1 2).state == 2 && (u.getQueue 1 2).fcause == 5) &&
         ran (exec (.queueDestroy 1 2 0) t) (fun u => (u.getQueue 1 2).state == 0)) ∧
    (let s := State.reset.modQueue 1 2 fun x => { x with state := 1, en := true, hs := .reserve 3 false }
     ran (exec (.reserveAgeExpiry 1 2) s) fun t => (t.getQueue 1 2).hs == .reserve 3 true) := by decide +kernel

/-- A record: entry 0x4000 on core 0, class 1, no done counter. -/
def recordBytes : List Byte :=
  leBytes 2 48 ++ leBytes 2 0 ++ leBytes 4 0x21003 ++ leBytes 8 0x4000 ++ leBytes 16 1 ++ leBytes 8 1 ++ leBytes 8 0

/-- Queue 2 of partition 0 holds that record at its head, in memory that a held translation maps. -/
def ringed : State :=
  (((State.reset.placeBytes []).tlbInstall (probeBank 0 0x1000) 0 0 0x4003F 17).rawWrite 0x41000 recordBytes |>.modPart 0 fun x =>
    { x with clusters := 1, logmib := 1 }).modQueue 0 2 fun x => { x with state := 1, en := true, first := true, log2sz := 12, qbase := 0x1000, tail := 48 }

theorem test_met_RecordsAreFetchedAndWait :
    (let s := ringed
     let s1 := (s.ringRead 0 2 0x1000 8).1
     s.launches 0 = true ∧ (s.getQueue 0 2).hs = .fetch ∧ (s.getQueue 0 2).head ≠ (s.getQueue 0 2).tail ∧
       okIs (s.ringRead 0 2 0x1000 8).2 (recordBytes.take 8) ∧ okIs (s1.ringRead 0 2 0x1000 48).2 recordBytes ∧
       ((s1.ringRead 0 2 0x1000 48).1.getQueue 0 2).state = 1 ∧ ((s1.ringRead 0 2 0x1000 48).1.getPart 0).clusters = 1 ∧
       badHeader 48 0x21003 0 = false ∧
       recFault 1 true recordBytes 0x21003 (takeFields 0x21003 (List.range 20) (recordBytes.drop 8) RecFields.zero) = none ∧
       ran (exec (.recordFetch 0 2) s) fun t => (t.getQueue 0 2).head == 48 && (t.getQueue 0 2).held.entry == 0x4000 &&
         (t.getQueue 0 2).hs == .wait [1, 1, 1, 1] && ran (exec (.waitPoll 0 2) t) fun u => (u.getQueue 0 2).hs == .reserve 0 false) ∧
    (let s := ringed.rawWrite 0x41002 [1]
     badHeader 48 0x21003 1 = true ∧ okIs (s.ringRead 0 2 0x1000 8).2 [48, 0, 1, 0, 3, 16, 2, 0] ∧
       ran (exec (.recordFetch 0 2) s) fun t => (t.getQueue 0 2).state == 2 && (t.getQueue 0 2).fcause == 1) := by decide +kernel

/-- The record waits at RESERVE. -/
def reserving : State :=
  let s := { ringed with core := Core.init, tasks := [] }
  s.modQueue 0 2 fun x => { x with hs := .reserve 0 false, held := { RecFields.zero with entry := 0x4000, place := 1, cls := 1 } }

theorem test_met_ReservedTasksStart :
    (let s := reserving
     let s0 := s.candidates.foldl State.askPlace ([0, 1, 2, 3].foldl State.capIdle s)
     s.liveDies.head? = some 0 ∧ s.dom.state = .run ∧
       (match s0.pick (s0.tasks.filter s0.mayResume) (s0.candidates.filter fun c => (s0.grantable c).isSome) with
        | (s1, some (.inr c)) => c.p == 0 && c.q == 2 && c.r.level == 1 && (s1.grantable c).isSome
        | (_, some (.inl _)) | (_, none) => false) = true) ∧
    (let s := { cored (fun c => c) with tasks := [gang [0] .granted] }
     ran (exec (.taskDispatch 0 0) s) fun t => t.core.pc == 0x4000 && t.core.getReg 10 == 5 && t.core.getReg 12 == 0 && t.core.getReg 4 == 1) := by
  decide +kernel

/-- A gang of one core with a frame at 0x50000. -/
def framed (r : RunState) (st : TaskState) : State :=
  let s := cored fun c => { atLevel 0 c with run := r, task := some 7, pc := 0x1234 }
  { s with tasks := [{ gang [0] st with frames := [(0, 0x50000)] }] }

theorem test_met_PreemptionSavesAndResumes :
    ran (exec .preemptDrain (framed .stop (.preempting []))) (fun t => t.core.run == .drain && t.core.spc == 0x1234) ∧
    (framed .drain (.preempting [])).core.flight = [] ∧ ((framed .drain (.preempting [])).curTask.map (·.frames)) = some [(0, 0x50000)] ∧
    ran (exec .preemptGone (framed .save (.preempting []))) (fun t => t.core.run == .idle && t.tasks.map (·.state) == [.preempted]) ∧
    (let v : SavedCore := { (framed .drain (.preempting [])).savedCore with core := 0 }
     let s0 := { State.reset with tasks := [{ gang [0] .preempted with frames := [(0, 0x50000)], saved := [v] }] }
     let s := (s0.rawWrite 0x50FF8 (leBytes 8 0x1234)).rawWrite 0x50008 (leBytes 8 99)
     s.launches 0 = true ∧ s.coreHeld [] s.cur = false ∧ s.core.run ≠ .fenced ∧ s.candidates = [] ∧ v.block = [] ∧
       ran (exec (.taskResume 7) s) fun t => t.core.pc == 0x1234 && t.core.getReg 1 == 99 && t.pl == 0 && t.core.run == .running) := by decide +kernel

theorem test_met_KillEndsTheTask :
    (let s := { tasked (cored (atLevel 0)) with tagtab := [⟨0, 7, 5, 1⟩] }
     s.findTask (7 : BitVec 32).toNat = some (gang [0] .running) ∧ s.core.task = some 7 ∧ s.core.prev = none ∧
       ran (exec (.kill 7) s) fun t => t.core.run == .idle && t.tasks.isEmpty && t.tagtab == [] &&
         t.host == [.killed 0 7, .vector 0]) := by decide +kernel

/-! ### Recovery -/

theorem test_met_IntervalsCommitAndFaultsStop :
    (let s := { cored (atLevel 0) with dom := { State.reset.dom with datum := 4 } }
     bits (5 : Word) 0 32 = s.dom.datum + 1 ∧ s.deadDies = [] ∧ s.openInterval 5 = true ∧ s.dieArrived 0 5 = true ∧ s.dom.dieArr = [] ∧
       s.held = [] ∧ s.dom.arrived = [] ∧ s.dom.members = [s.devid] ∧
       ran (exec (.sealAgentArrive 0 5) s) (fun t => t.dom.dieArr == [(0, 5)]) ∧
       ran (exec (.commit 5) s) (fun t => t.dom.datum == 5) ∧
       ran (exec .logStallTimeout s) (fun t => t == s) ∧
       ran (exec .holdStallTimeout (s.setLstall 3)) (fun t => t.dom.state == .fault && t.core.run == .halted) ∧
       ran (exec (.domainFault 9 none) s) fun t => t.dom.state == .fault && t.net == [.domainFault 9]) ∧
    (let s := { State.reset with dom := { State.reset.dom with datum := 4, bcast := 4 } }
     s.dom.members = [s.devid] ∧ s.isMeridian = true ∧ (0 : Nat) ∈ s.dom.members ∧
       ran (exec (.arrive 0 5 true) s) (fun t => t.dom.bcast == 5 && t.net == [.commit 5]) ∧
       ran (exec (.domainFaultReport 0 9) s) fun t => t.net == [.rollback 4]) := by decide +kernel

theorem test_met_RollbackRestoresAndResumes :
    (let r : UndoRec := ⟨0, 0x2000, true, 6, 0, [1, 2, 3], false⟩
     let s := { cored (atLevel 0) with undo := [r], dom := { State.reset.dom with datum := 4, state := .stop, target := 4 } }
     ran (exec (.rollback 4) s) (fun t => t.dom.state == .stop && t.dom.target == 4 && t.core.run == .halted) ∧
       s.dieOf r.line = 0 ∧ later r.rin s.dom.target = true ∧ s.dom.restored = [] ∧ s.deadDies = [] ∧
       ran (exec (.rollbackRestore 0) s) (fun t => t.dom.restored == [0] && t.dom.state == .restore &&
         t.readNat 0x2000 4 == 0x030201 && t.poisoned 0x2000) ∧
       (let c := { s with dom := { s.dom with state := .restore, restored := [0, 1, 2, 3] } }
        (∀ d ∈ c.liveDies, d ∈ c.dom.restored) ∧
          ran (exec .rollbackClean c) fun t => t.dom.state == .clean && t.undo.isEmpty) ∧
       (let c := { s with dom := { s.dom with state := .clean } }.updCore fun k => { k with run := .halted }
        ran (exec .rollbackReport c) fun t => t.dom.state == .reported && t.core.rin == 5 && t.core.run == .idle)) ∧
    (let s := { State.reset with dom := { State.reset.dom with members := [0, 1], dones := [0] } }
     s.isMeridian = true ∧ s.dom.members = [s.devid, 1] ∧ ran (exec (.rollbackDone 1) s) fun t => t.net == [.resume]) ∧
    ran (exec .resume { State.reset with dom := { State.reset.dom with state := .reported } }) (fun t => t.dom.state == .run) := by decide +kernel

theorem test_met_LanesPoisonAndDies :
    ran (exec (.laneSparing 90) State.reset) (fun t => t.core.spares == [90]) ∧
    (let s := cored (atLevel 0)
     s.core.flight = [] ∧ s.pl ≠ 2 ∧ s.core.run = .running ∧
       ran (exec (.laneSparing 90) s) fun t => t.core.spares == [90] && t.pl == 2 && t.core.fw == ⟨0, false, 0x1000, [], 0⟩) ∧
    ran (exec (.laneSparing 90) (cored fun c => { c with spares := [1, 2] })) (fun t => t.core.spares == [1, 2]) ∧
    ran (exec (.poison (hbmBytes - 1)) State.reset) (fun t => t.poisoned (hbmBytes - 256)) ∧
    ran (exec (.dieFence 0) (tasked (cored (atLevel 0)))) (fun t => t.deadDies == [0] && t.tasks.isEmpty && t.core.run == .fenced) := by
  decide +kernel

/-! ### Links, partitions, the host and attestation -/

/-- A raw send of 4 words over link 2, paired, with pages that map 0x2000 to itself. -/
def sending : SendC :=
  { desc := 0x40, src := 0x2000, res := 0, peer := 1, chan := 0, scope := 3, stype := 0, n := 2, quant := 0, ef := false, link := 2,
    credit := true, placed := 0, acked := 0, sat := 0, nan := 0, resid := false, radd := false, smap := [(0, 0)], rmap := [] }

def sendCmd (x : SendC) : Cmd := cmdOf (.send x)

/-- Link 2 is up towards device 1 and command 5 sends on it. -/
def linked (x : SendC) (k : Link) : State :=
  { bytesAt2000 State.reset with cmds := [sendCmd x], links := State.reset.links.setIfInBounds 2 k }

/-- A flit with 240 payload bytes and the CRC of its 248 bytes. -/
def flitOf (seq : Nat) (k : FlitKind) (bs : List Byte) : FlitIn :=
  let body := bs ++ List.replicate (240 - bs.length) 0
  ⟨2, seq, k, 0, body, BitVec.ofNat 32 (crc32c (leBytes 8 0 ++ body))⟩

theorem test_flit_crc :
    flitSound (flitOf 0 .idle [1, 2]) = true ∧ flitSound { flitOf 0 .idle [] with crc := 1 } = false ∧
    crc32c [0x31, 0x32, 0x33, 0x34, 0x35, 0x36, 0x37, 0x38, 0x39] = 0xE3069283 := by decide +kernel

theorem test_met_links_send_and_receive :
    (let up : Link := ⟨2, 1, 0, 0, 0, 0, [], 0, 0⟩
     let s := linked sending up
     (2 : Nat) < 12 ∧ sending.total = 1 ∧ s.blockFault sending sending.placed = none ∧ s.reachesSaved (sendCmd sending) = false ∧
       ran (exec (.flitTransmit 5) s) (fun t => t.net.length == 1 && (t.links.getD 2 Link.init).txSeq == 1 &&
         ((t.links.getD 2 Link.init).buf.map fun f => f.bytes.take 4) == [[0x80, 0x81, 0x82, 0x83]]) ∧
       ran (exec (.flitReceive ⟨2, 0, .idle, 0, [], 0⟩) s) (fun t => t.net == [.replay 2 0]) ∧
       ran (exec (.flitReceive (flitOf 0 (.payload 9 0 0 1) [])) s) (fun t => t.net == [.ack 2 0] &&
         (t.links.getD 2 Link.init).rxSeq == 1) ∧
       (let g : Flit := ⟨7, 5, 0, 0, 1, []⟩
        ran (exec (.flitReceive (flitOf 0 (.ack 7) [])) (linked sending { up with txSeq := 8, buf := [g] })) fun t =>
          (t.links.getD 2 Link.init).buf == []) ∧
       ran (exec (.cancelNotice 5) s) fun t => t.cmds.map (·.state) == [.parked 8 0x40]) := by decide +kernel

theorem test_met_LinkEventsAct :
    (let g : Flit := ⟨7, 5, 0, 0, 1, []⟩
     ran (exec (.replayRequest 2 7) (linked sending ⟨2, 1, 0, 0, 8, 0, [g], 0, 0⟩)) (fun t => t.net == [.flit 2 g] &&
       (t.links.getD 2 Link.init).replays == 1) ∧
       ran (exec (.linkRetrain 2) (linked sending ⟨2, 1, 0, 0, 8, 0, [g], 16, 7⟩)) fun t => (t.links.getD 2 Link.init).state == 1) ∧
    (let s := linked sending ⟨1, 1, 0, 0, 0, 0, [], 0, 0⟩
     s.dom.members = [s.devid] ∧ s.others = [] ∧ s.core.flight = [] ∧ s.core.blk = [] ∧
       ran (exec (.linkLost 2) s) (fun t => (t.links.getD 2 Link.init).state == 3) ∧
       ran (exec (.linkUp 2 70000) s) (fun t => (t.links.getD 2 Link.init).peer == 4464) ∧
       ran (exec (.linkUp 2 70000) { s with devctl := 2 }) (fun t => (t.links.getD 2 Link.init).state == 1) ∧
       ran (exec (.linkUp 2 70000) { s with devctl := 0x40002 }) (fun t => (t.links.getD 2 Link.init).state == 2)) ∧
    (let s := (linked { sending with credit := false } ⟨2, 1, 0, 0, 0, 0, [], 0, 0⟩).modPart 0 fun p => { p with tenant := 1 }
     let bs : List Byte := [0, 2, 0, 0, 0, 0, 1, 0, 0, 0, 0]
     s.keyOk (sendCmd sending) 0 bs = true ∧ s.keyOk (sendCmd sending) 1 bs = false ∧ leField bs 0 1 < 2 ∧ leField bs 1 4 = 2 ∧
       ran (exec (.credit 5 bs) s) fun t => t.cmds == [sendCmd sending] && t.net == [.offer 5 0 1 0 0 2]) ∧
    ran (exec (.retrainStart 2) { linked sending ⟨1, 1, 0, 0, 0, 0, [], 0, 0⟩ with devctl := 2 }) (fun t => t.devctl == 0x40002) ∧
    ran (exec (.retrainStart 2) { State.reset with devctl := 2 }) (fun t => t.devctl == 2) := by decide +kernel

theorem test_met_PartitionEventsAct :
    (let s := tasked (cored (atLevel 0))
     s.curTask.isSome ∧ fieldNat (0 : Word) 0 7 = s.cur ∧ ran (exec (.msgbell 0 0) s) (fun t => t.core.msgReq)) ∧
    ran (exec (.msgack 0) (cored fun c => { c with msgReq := true })) (fun t => !t.core.msgReq) ∧
    ran (exec (.outbell 0) State.reset) (fun t => t.host == [.vector 2]) ∧
    ran (exec (.mreset 3 1) (State.reset.meter 3 1 9)) (fun t => (t.getPart 3).meters == Vector.replicate 10 0) ∧
    (let s := { State.reset with cmds := [sendCmd sending] }.modPart 0 fun x => { x with pstate := 1 }
     (s.getPart 0).stage = .none ∧
       ran (exec (.partitionTeardown 0) s) fun t => (t.getPart 0).stage == .quiesce && (t.getPart 0).release &&
         ran (exec (.resetDrain 0) t) fun u => (u.getPart 0).stage == .drain && u.cmds == [] &&
           ran (exec (.resetFlush 0) u) fun v => (v.getPart 0).stage == .flush) ∧
    (let s := State.reset.modPart 2 fun x => { x with stage := .flush, clusters := 0 }
     (s.getPart 2).release = false ∧ ran (exec (.resetScrub 2) s) fun t => (t.getPart 2).stage == .scrub &&
       ran (exec (.resetFree 2) t) fun u => (u.getPart 2).stage == .none && (u.getPart 2).pstate == 0) := by decide +kernel

theorem test_met_HostEventsAct :
    (let s := { State.reset with coreTime := [(3 * 4 + 1, 5)] }
     s.coreTime = [(3 * 4 + 1, 5)] ∧ (0 : Nat) < 5 ∧ s.energy = []) ∧
    (let s := (bytesAt2000 State.reset).modPart 0 fun x => { x with logmib := 1 }
     s.dom.state = .run ∧ s.hdmBase ≤ 0x2000 ∧ s.lost 0x2000 = false ∧
       s.writeStalls ⟨0, s.entryInterval, false, s.dieOf 0x2000, none⟩ 0x2000 1 = false ∧
       ran (exec (.hostMemAccess 0x2000 (.read 2)) s) (fun t => t.host == [.memRead [0x80, 0x81]]) ∧
       ran (exec (.hostMemAccess 0x2001 (.write [9])) s) fun t => t.readNat 0x2000 3 == 0x820980) ∧
    (State.reset.boot.status = 0 ∧
      ran (exec (.registerWrite (BitVec.ofNat 64 devBase) 0x12345678) State.reset) (fun t => (t.getPart 0).ptroot == 0x12344000) ∧
      ran (exec (.registerWrite (BitVec.ofNat 64 (2 ^ 63 + 1)) 0x12345) State.reset) fun t => t.devid == 0x2345) := by decide +kernel

theorem test_met_BootAndAttestation :
    (let s := { State.reset with boot := { State.reset.boot with booted := true, meas := [[1], [2]] }, spdm := ⟨3, [(4, false)], 5⟩ }
     s.boot.meas ≠ [] ∧ s.spdm.phase = 3 ∧ s.boot.status = 0 ∧ s.spdm.sessions.length < 4 ∧ s.spdm.sessions = [(4, false)] ∧
       ran (exec (.keyExchange []) s) fun t => t.spdm == ⟨3, [(4, false), (5, false)], 6⟩) ∧
    ran (exec .getVersion { State.reset with boot := { State.reset.boot with booted := true, meas := [[1]] } }) (fun t => t.spdm.phase == 1) := by decide +kernel

/-! ### The whole machine -/

/-- The word 0x05 of add x0, x0, x0 changed to addi x1, x0, 5, placed at the pc. -/
theorem test_met_StepRunsTheDecodedInstruction :
    (let s := State.reset.withFetchWord 32 0b000000000000101_00000_00001_00100_01
     s.agenda = [] ∧ s.core.run = .running ∧ Landed s ∧ s.core.drn = none ∧ s.core.load = none ∧ s.core.wfi = false ∧
       s.core.issueHeld = false ∧ s.core.asyncEnabled = true ∧ s.upsets = [] ∧ checkKind (.jal 1 0) = none ∧
       (match s.tick.pumpAll with | (s1, r) => r.isNone && s1.core == s.core) = true ∧
       s.core.preReq = false ∧ s.core.sealReq = false ∧ s.core.msgReq = false ∧ s.core.timecmp = 0 ∧
       s.fetch.2 = .ok [0x91, 0x00, 0x0A, 0x00] none ∧ decodeBytes [0x91, 0x00, 0x0A, 0x00] = .instr (.addi 1 0 5) (.w 0x000A0091) ∧
       decodeBytes [0, 0] = .illegal (.h 0)) ∧
    (let s := { State.reset with agenda := [(5, some .getVersion)] }
     Instr.getVersion.isEvent = true ∧ (5 : Nat) < 96 ∧ s.agenda = (5, some .getVersion) :: []) := by decide +kernel

theorem test_step_runs_a_placed_word :
    ran (step (State.reset.withFetchWord 32 0b000000000000101_00000_00001_00100_01)) (fun t => t.reg 1 == 5 && t.core.pc == 4) := by
  decide +kernel

theorem test_met_ScalarFrame :
    writesOnly (.add 3 1 2) = some 3 ∧ onlyBranches (.beq 1 2 4) = true ∧ ran (exec (.add 3 1 2) State.reset) (fun _ => true) ∧
    ran (exec (.beq 1 2 4) State.reset) (fun _ => true) := by decide +kernel

theorem test_met_DecodeEncodeRoundTrip : (Instr.add 1 2 3).wf = true ∧ (Instr.add 1 2 3).encode = some (.w 0x00062085) := by decide +kernel

theorem test_met_StepKeepsMemoryWf : memoryWf (bytesAt2000 State.reset) := by decide +kernel

/-! ### More clauses and boundary values -/

theorem test_met_memory_traps :
    (let s := regs2 1 0x2000
     Clear s [3, 2] ∧ Unheld s ∧ s.pl = 0 ∧ s.core.drained = true ∧ (s.getPart s.part).ha = false ∧
       s.tlbHit (probeBank s.cur 0x2000) s.part 0x2000 = none ∧ s.tlbHit (clusterTlb 0) s.part 0x2000 = none ∧
       (match s.walk s.part 0x2000 with | .ok _ => false | .error _ => true) = true ∧
       ran (exec (.ldh 3 2 0) s) (fun t => t.core.cause == 5 && t.core.tval == 0x2000 && t.core.pc == 0x8000 && t.pl == 1) ∧
       ran (exec (.stb 3 2 1) s) (fun t => t.core.cause == 6 && t.core.tval == 0x2001)) ∧
    (let s := (regs2 1 0x2000).tlbInstall (probeBank 0 0x2000) 0 0 0x40037 17
     s.tlbHit (probeBank 0 0x2000) 0 0x2000 = some ⟨probeBank 0 0x2000, 0, 0, 17, 0x40037⟩ ∧
       ran (exec (.stw 3 2 0) s) (fun t => t.core.cause == 7 && t.core.tval == 0x2000)) ∧
    (let s := { pointed with poison := [(0x40000, true)] }
     (s.translate (s.scalarWho false) .load 0x42).2 = .ok 0x40042 ∧ (s.translate (s.scalarWho false) .load 0x42).1.lagLoads = false ∧
       (s.translate (s.scalarWho false) .load 0x42).1.poisonedRange 0x40042 2 = true ∧ Landed (s.translate (s.scalarWho false) .load 0x42).1 ∧
       ran (exec (.ldh 3 1 2) s) (fun t => t.core.cause == 0xC && t.core.tval == 0 && t.core.restidx == 0)) := by decide +kernel

theorem test_met_refused_types :
    (let s := paced
     let no := fun (i : Instr) => ran (exec i s) fun t => t.core.cause == 2 && t.core.giq == [] && t.core.tval == State.rawBits i
     ETy.ofCode 0 = some .f32 ∧ ETy.f32.isInt = false ∧ ETy.f32.isUnsigned = false ∧ no (.vshl ⟨1, 2, 3, 31, 0, 0⟩) ∧
       no (.vclmul ⟨1, 2, 3, 31, 0, 0⟩) ∧ ETy.ofCode 4 = some .i32 ∧ no (.vcpsgn ⟨1, 2, 3, 31, 0, 4⟩) ∧ no (.vcmpUnord ⟨1, 2, 3, 31, 0, 4⟩) ∧
       ETy.ofCode 5 = some .n32 ∧ no (.vabs ⟨2, 3, 31, 5⟩) ∧ no (.vrcp ⟨2, 3, 31, 5⟩) ∧ ETy.ofCode 10 = some .e4m3 ∧ ETy.e4m3.isWide = false ∧
       no (.vquant ⟨0, 2, 3, 31, 10⟩) ∧ no (.viota ⟨3, 31, 10⟩)) ∧
    (let s := (regs2 1 2).csrWrite 0 0x5000
     ran (exec (.fcvti ⟨1, 5, 0, 1, 3⟩) s) fun t => t.core.cause == 1) := by decide +kernel

theorem getCore_reset (n : Nat) : State.reset.getCore n = Core.init := by
  unfold State.getCore
  split <;> rfl

theorem test_met_StepKeepsRunStatesAndLevels :
    RunsInDomain State.reset ∧ LevelsLegal State.reset ∧ RunsInDomain (regs2 1 2) ∧ (regs2 1 2).core.run.active = true ∧
    RunsInDomain (tasked (cored (atLevel 1))) := by
  refine ⟨by unfold RunsInDomain; decide +kernel, ⟨fun n => ?_, fun t h => absurd h (List.not_mem_nil)⟩,
    by unfold RunsInDomain; decide +kernel, by decide +kernel, by unfold RunsInDomain; decide +kernel⟩
  rw [getCore_reset]
  unfold CoreLevels
  decide +kernel

theorem noStores_of_alone (s : State) (h : s.core.sbuf = []) (o : s.others = []) : NoStores s := by
  intro n
  unfold State.getCore
  split
  · exact h
  · rw [o]; rfl

/-- A full window entry of the first vector on core 0. -/
def winAlone (op : WOp) (a : WinArgs) (prog : Nat) : State :=
  (alone (.win op a)).updCore fun c => { c with grid := ramp, flight := [{ out (.win op a) with prog := prog }] }

theorem test_met_last_vectors :
    (let w : Window := ⟨0, .row, 1, 1, 1⟩
     let a : WinArgs := { ty := .i32, km := 31, op2 := .const 5, wd := some (rowW 1 3), w1 := some w, kd := 2, xd := 9 }
     (let s := winAlone .ext a 0
      Alone s { out (.win .ext a) with prog := 0 } ∧ ran (exec (.windowPipeVector .pass) s) fun t => t.core.getReg 9 == 8 && t.core.flight == []) ∧
     (let s := winAlone (.cmp .lt) a 0
      winCount (.cmp .lt) a = 1 ∧ ran (exec (.windowPipeVector .pass) s) fun t => (t.core.masks.read 2).toNat == 255 && t.core.flight == []) ∧
     (let s := winAlone (.colRed .sum) a 0
      winCount (.colRed .sum) a = 1 ∧ ran (exec (.windowPipeVector .pass) s) fun t => t.core.grid.cell 1 3 9 == 9 && t.core.flight == []) ∧
     (let s := winAlone (.rowRed .sum) a 0
      ran (exec (.windowPipeVector .pass) s) fun t => t.core.grid.cell 1 3 0 == 8128) ∧
     (let s := winAlone (.elem .add) a 1
      winCount (.elem .add) a ≤ 1 ∧ ran (exec (.windowPipeVector .pass) s) fun t => t.core.grid == s.core.grid && t.core.flight == [])) := by
  decide +kernel

/-- A grid entry at firmware level, whose addresses are physical. -/
def fwOut (op : GOp) : Entry := { out op with pl := 2 }

def fwAlone (op : GOp) : State :=
  (bytesAt2000 (fw2 0 0)).updCore fun c => { c with flight := [fwOut op], grid := ramp, masks := c.masks.setIfInBounds 2 (BitVec.ofNat 128 3) }

theorem test_met_grid_memory :
    (let op : GOp := .gls .ld 2 (rowW 1 4) 2 0x2000 2 none
     let s := fwAlone op
     let items := glsItems s.core.grid 2 (rowW 1 4) (s.core.masks.governing 2) 0x2000 2 none 0
     let p := s.glsProbe (fwOut op) .ld 2 items
     Alone s (fwOut op) ∧ items = [(0, 0x2000), (1, 0x2002)] ∧ sharedIdx .ld (rowW 1 4) none = none ∧
       (s.probeItems (s.entryWho (fwOut op) 2) 2 .load [] items).2 = ([(0, 0)], some none) ∧
       okIs (p.2.map fun e => (e.prog, e.maps, e.stopItem, e.probed)) (0, [(0, 0)], none, true) ∧
       p.1.core = s.core ∧ p.1.poisonedRange 0x2000 2 = false ∧
       ran (exec (.windowPipeVector .pass) s) fun t => t.core.grid.cell 1 4 1 == 0x8382 && t.core.grid.cell 1 4 2 == 0 && t.core.flight == []) ∧
    (let op : GOp := .gls .st 2 (rowW 0 1) 2 0x2000 2 none
     let s := (fwAlone op).modPart 0 fun x => { x with logmib := 1 }
     s.lost 0x2002 = false ∧ s.writeStalls s.gridWriter 0x2002 2 = false ∧
       ran (exec (.windowPipeVector .pass) s) fun t => t.readNat 0x2000 4 == 0x00010000 && t.readNat 0x2004 1 == 0x84) ∧
    (let op : GOp := .gls .ldff 2 (rowW 1 4) 2 0x2000 0xFFFF800000000000 none
     ran (exec (.windowPipeVector .pass) (fwAlone op)) fun t => t.core.ffi == 0x8000 || t.core.ffi == 1) := by decide +kernel

theorem test_met_images :
    (let t7 := { gang [0] .running with resv := [(0, 0, 262144)] }
     let st := fun (rest : Bool) =>
       let op : GOp := .gimage rest 0 1 1 (BitVec.ofNat 64 (apertureBase + 64))
       { (alone op).updCore (fun c => { c with task := some 7, grid := ramp }) with tasks := [t7] }
     (st false).reservation (st false).core.gridTaskId 0 = some (0, 262144) ∧
       ran (exec (.windowPipeVector .pass) (st false)) (fun t => t.readNat (spadBase + 64) 4 == 1 && t.readNat (spadBase + 64 + 17) 1 == 1 &&
         t.readNat (spadBase + 128 + 4 * 127) 4 == 127 && t.core.flight == []) ∧
       ran (exec (.windowPipeVector .pass) (((st true).rawWrite (spadBase + 64) [1]).rawWrite (spadBase + 128) [7])) (fun t =>
         t.core.grid.cell 0 1 0 == 7 && t.core.grid.cell 0 1 1 == 0 && (t.core.grid.row 0 1).valid && t.core.flight == [])) := by decide +kernel

theorem test_met_accumulation_windows :
    (let s := alone (.awin .addI32 2 0x2000 512)
     ran (exec .giqDeparture s) (fun t => t.awinOf 2 == some ⟨.addI32, 0x2000, 512, [], []⟩) ∧
       ran (exec .giqDeparture (((alone (.arel 2)).setAwin 2 (some ⟨.addI32, 0, 512, [], []⟩)))) fun t => t.awinOf 2 == none) ∧
    (let w : AWin := ⟨.addI32, 0x2000, 512, [], []⟩
     let op : GOp := .ascat 2 (rowW 0 1) (rowW 0 1) 2
     let s := ((alone op).setAwin 2 (some w)).updCore fun c => { c with grid := ramp, masks := c.masks.setIfInBounds 2 (BitVec.ofNat 128 6) }
     (0 : Nat) < 512 / 4 ∧ s.awinOf 2 = some w ∧
       ran (exec (.windowPipeVector .pass) s) fun t => (match t.awinOf 2 with | some u => u.touched == [1, 2] && u.copy 2 2 == 2 && u.copy 1 2 == 0 | none => false)
         && t.core.flight == []) ∧
    (let op : GOp := .amerge 2
     let w : AWin := ⟨.addI32, 0x2000, 512, [1], [(3 * 4096 + 1, 5)]⟩
     let s := ((fwAlone op).setAwin 2 (some w)).modPart 0 fun x => { x with logmib := 1 }
     (s.probeMerge (s.entryWho (fwOut op) 2) 0x2000 [1]).1.core = s.core ∧
       ran (exec .giqDeparture s) fun t => t.core.flight.map (·.maps) == [[(0, 0)]] &&
         ran (exec .giqDeparture t) fun u => u.core.flight.map (·.pend) == [[(1, 0x2004, [0x84, 0x85, 0x86, 0x87])]] &&
           ran (exec .giqDeparture u) fun v => v.core.flight.map (·.prog) == [2] && ran (exec .giqDeparture v) fun x => x.core.flight == []) := by
  decide +kernel

theorem test_met_stream_views :
    (let spec : SSpec := ⟨.i8, false, false, false, 0, 2, 2, 0, 1, 4⟩
     let st : Stream := { kind := .qld, ord := 0, seq := 0, q := 4, addr := 0x2000, spec := spec, idx := 0x2004, pc := 0, word := 0, pl := 2,
                          dzNext := 0x3000 }
     let s := bytesAt2000 (fw2 0 0)
     (1 : Nat) < spec.len ∧ (1 : Nat) < spec.r ∧ tView st.kind st.spec = false ∧ 0 < elemBytes spec.fmt ∧
       (((stepVals st 1 [] fun a => s.byteAt a).getD 1 []).getD 0 none = some (.i (-123))) ∧
       (let x := { st with kind := SKind.qldx }
        let t := s.rawWrite 0x2004 (leBytes 4 3 ++ leBytes 4 0 ++ leBytes 4 1 ++ leBytes 4 2)
        (match (t.qldxLines x 0).2 with | .ok l => l == [0x200C, 0x2000] | .error _ => false) = true ∧
          ((stepVals x 0 [0x200C, 0x2000] fun a => t.byteAt a).getD 1 []).getD 1 none = some (.i (-127)) ∧
          x.indexed = false ∧ (match (t.formStep { x with lines := [(none, [0x200C, 0x2000])] } 0).2.2 with
           | .ok vals => (vals.getD 1 []) == [some (.i 0), some (.i (-127))]
           | .error _ => false) = true ∧
          (t.updCore fun c => { c with streams := [x] }).readIndices.core.streams.map (·.lines) =
            [[(none, [0x200C, 0x2000]), (none, [0x2004, 0x2008])]]) ∧
       (let f := { st with kind := SKind.qldff }
        let g := s.grantedSteps f 2 0 []
        g.2 = ([(0, 0)], some (2, none)) ∧
          (match (s.grantedSteps { f with spec := { spec with fmt := .f32 }, addr := 0x2001 } 2 0 []).2.2 with
           | some (n, some y) => n == 0 && y.code == 3 && y.tval == 0x2001
           | _ => false) = true)) ∧
    (let op : GOp := .stream .qldff 4 0x2000 ⟨.i8, false, false, false, 0, 2, 2, 0, 1, 4⟩ 0 9
     let s := { fwAlone op with lagGrid := true }
     s.core.giq = [] ∧ Alone s (fwOut op) ∧ ran (exec .giqDeparture s) fun t =>
       t.core.getReg 9 == 2 && t.core.streams.map (·.spec.steps) == [2] && t.core.flight == []) ∧
    (let op : GOp := .stream .qldz 4 0x3000 ⟨.i8, false, false, false, 8, 5, 1, 0, 1, 0⟩ 0 0
     let s := { fwAlone op with lagGrid := true, lagEng := true }
     s.cmds = [] ∧ s.portGrant true (fwOut op) .decomp = true ∧
       ran (exec (.engineAccept .decomp) s) fun t => t.core.streams.map (·.dzNext) == [0x3000] && t.nextCmd == s.nextCmd + 1) := by decide +kernel

/-- The code table of the worked case of 11_engines.md: 0x41 and the run of two zeros, each of one bit. -/
def twoCodes : List Nat := ((List.replicate 271 0).set 65 1).set 256 1

/-- Its block: one coded byte 0x06 of five decoded bytes, the last block of its chain. -/
def blockOf5 : List Byte :=
  leBytes 4 0x315A4457 ++ [1, 2, 8, 1] ++ leBytes 4 5 ++ leBytes 4 1 ++ leBytes 4 (crc32c [0x41, 0, 0, 0, 0]) ++ List.replicate 12 0 ++ [6]

/-- Its table image. -/
def tableOf2 : List Byte :=
  let body := leBytes 4 0x31544457 ++ [1] ++ List.replicate 11 0 ++ twoCodes.map (BitVec.ofNat 8) ++ List.replicate 29 0
  body ++ leBytes 4 (crc32c body)

/-- A command of task 7 that runs on its own. -/
def runsOne (op : CmdOp) (t : Task) : State :=
  ({ bytesAt2000 (fw2 0 0) with cmds := [{ cmdOf op with task := 7 }], tasks := [t] }.updCore fun c =>
    { c with task := some 7 }).modPart 0 fun x => { x with logmib := 1 }

theorem test_met_decompressing_commands :
    (let p := BitVec.ofNat 64 (5 + 31 * 2 ^ 35 + 8 * 2 ^ 40)
     let s := (runsOne (.xdz 0x4000 0x3000 p) { gang [0] .running with tables := Sp.put [] [] 2 twoCodes }).rawWrite 0x3000 blockOf5
     let k := { cmdOf (.xdz 0x4000 0x3000 p) with task := 7, dz := 0x3000 }
     s.reachesSaved k = false ∧
       k.scouted k.dz = [] ∧ (s.scoutXdz k 0x3000 17).2.snap = [(0x3000, blockOf5)] ∧
       (match s.blockAt (s.scoutXdz k 0x3000 17).2 none 8 with
        | .ok (h, img) => h.last && h.dlen == 5 && img == [0x41, 0, 0, 0, 0]
        | .error _ => false) = true ∧
       ran (exec (.engineComplete 5) { s with cmds := [k] }) fun t => t.readNat 0x4000 5 == 0x41 && t.cmds == []) ∧
    (let s := (runsOne (.dztab 2 0x3000) (gang [0] .running)).rawWrite 0x3000 tableOf2
     let k := { cmdOf (.dztab 2 0x3000) with task := 7 }
     parseTable tableOf2 = some twoCodes ∧ s.cmds = [k] ∧ s.dztabWaits k = false ∧ okIs (s.readRun (State.cmdWho k) 0x3000 320).2 tableOf2 ∧
       ran (exec (.engineComplete 5) s) (fun t => t.tasks.map (·.tables) == [[(2, twoCodes)]] && t.cmds == []) ∧
       ran (exec (.engineComplete 5) (s.rawWrite 0x3000 [0])) fun t => t.cmds.map (·.state) == [.parked 0x0B 0x3000]) := by decide +kernel

/-- A copy of two elements of four bytes that lie 8 apart, both maps at level 2. -/
def pairMap (base : Word) : TMap := ⟨base, [1], [8], [1], 0, false, false, 0, false, 0, 1, 0, 0, [0]⟩

/-- A paired recv of two f32 elements at 0x3000 that holds the one flit of them. -/
def receiving (add : Bool) (got : Nat) (pend : List (Nat × Nat × List Byte)) : RecvC :=
  { desc := 0x40, dst := 0x3000, peer := 1, chan := 0, scope := 3, tagen := false, dtype := 0, n := 2, tag := 0, add := add, paired := true,
    quant := 0, stype := 0, nan := 0, got := got, dmap := [(0, 0)], pend := pend }

theorem test_met_engine_results :
    (let d := pairMap 0x4000
     let r := pairMap 0x2000
     let s := runsOne (.xfer d r 0 [(0, 0)] [(0, 0)]) (gang [0] .running)
     xferOrder d r 0 = [0, 1] ∧ xferElem d r 0 1 = (some 0x2008, some 0x4008) ∧ (overlap d r 0).shared = false ∧
       s.unpopulated 0x2008 = false ∧ s.poisonedRange 0x2008 4 = false ∧ s.lost 0x4008 = false ∧
       ran (exec (.engineComplete 5) (s.rawWrite 0x2008 [1, 2, 3, 4])) fun t =>
         t.readNat 0x4000 4 == 0x83828180 && t.readNat 0x4004 4 == 0 && t.readNat 0x4008 4 == 0x04030201 && t.cmds == []) ∧
    (let one := leBytes 4 0x3F800000 ++ leBytes 4 0x40000000
     let s := fun add got pend => (runsOne (.recv (receiving add got pend)) (gang [0] .running)).rawWrite 0x3000 (leBytes 4 0x40400000)
     let k := { cmdOf (.recv (receiving true 0 [(0, 1, one)])) with task := 7 }
     (s true 0 [(0, 1, one)]).writeStalls ((s true 0 [(0, 1, one)]).cmdWriter k) 0x3000 4 = false ∧
       (s true 0 []).readFault [(0, 0)] (State.span 0x3000 4) = none ∧ (s true 0 []).writeFault [(0, 0)] (State.span 0x3004 4) = none ∧
       ran (exec (.engineComplete 5) (s false 0 [(0, 1, one)])) (fun t =>
         t.readNat 0x3000 4 == 0x3F800000 && t.readNat 0x3004 4 == 0x40000000) ∧
       ran (exec (.engineComplete 5) (s true 0 [(0, 1, one)])) (fun t =>
         t.readNat 0x3000 4 == 0x40800000 && t.readNat 0x3004 4 == 0x40000000) ∧
       ran (exec (.engineComplete 5) (s false 2 [])) fun t => t.readNat 0x58 8 == 0 && t.cmds == []) := by decide +kernel

theorem test_met_late_iterations_and_waits :
    (let s := (tasked (alone (.ipost 3 4))).setChannel 3 ⟨6, []⟩
     ((4 : Word).toInt ≤ (s.channel 3).h) ∧ ran (exec .ipostApply s) (fun t => t.channel 3 == ⟨6, []⟩ && t.core.flight == []) ∧
       ran (exec .iwaitSatisfied ((tasked (alone (.iwait 3 6))).setChannel 3 ⟨6, []⟩)) (fun t => t.core.flight == []) ∧
       ran (exec .ipostApply ((tasked (alone (.ipost 3 70))).setChannel 3 ⟨6, []⟩)) (fun t => t.channel 3 == ⟨6, [70]⟩)) ∧
    (let e := { out (.barWait 0 4) with prog := 2 }
     let s := fun (n : Nat) => ((tasked (alone (.barWait 0 4))).modTask 7 fun t => { t with nb := 1, bars := [(0, ⟨true, 1, 0, n, 1⟩)] }).updCore
       fun c => { c with flight := [e] }
     Alone (s 4) e ∧ (s 4).barSite 0 = .here 7 0 ∧ ran (exec .barWaitSatisfied (s 4)) (fun t => t.core.flight.length == 1) ∧
       ran (exec .barWaitSatisfied (s 5)) fun t => t.core.flight == []) := by decide +kernel

theorem test_met_preempt_save :
    (let s := framed .drain (.preempting [])
     s.cur < 96 ∧ ran (exec .preemptSave s) fun t => t.core.run == .save && t.core.giq == [] && t.tasks.map (·.saved.length) == [1]) := by decide +kernel

theorem test_met_more_events :
    (let s := { State.reset with coreTime := [(3 * 4 + 1, 5)] }
     ran (exec (.energyApportion 1 700) s) fun t => (t.getPart 3).meters.getD 9 0 == 700 && t.coreTime == []) ∧
    (let r : UndoRec := ⟨0, 0x2000, true, 6, 0, [1, 2, 3], false⟩
     let s := { cored (atLevel 0) with undo := [{ r with rin := 7, old := [9, 9, 9, 9] }, r],
                                       dom := { State.reset.dom with datum := 4, state := .stop, target := 4 } }
     ran (exec (.rollbackRestore 0) s) fun t => t.readNat 0x2000 4 == 0x09030201 && t.poisoned 0x2000) ∧
    (let s := (atLevel 1 Core.init)
     let g := { tasked (cored fun _ => s) with dom := State.reset.dom }
     RunsInDomain g ∧ g.pl = 1 ∧ g.core.drained = true ∧ g.cur < 96 ∧ g.core.run = .running ∧ g.core.sbuf = [] ∧ g.others = [] ∧
       ran (exec .trapRollback g) (fun t => t.dom.state == .fault && t.net == [.domainFault 3] && t.core.run == .halted) ∧
       ran (exec .trapKill g) fun t => t.tasks == [] && t.core.run == .idle) ∧
    (let s := State.reset
     (match s.walk s.part 0 with | .ok _ => false | .error _ => true) = true ∧ s.dom.state.commits = true ∧
       ran (exec (.pageWalk 0) s) (fun t => t.tlb == [] && t == s.meterWalk s.part 0)) ∧
    (let s := (State.reset.modPart 2 fun x => { x with pstate := 1 }).modQueue 2 5 fun x => { x with state := 3, head := 16, tail := 64 }
     ran (exec (.partitionReset 2) s) fun t => (t.getPart 2).pstate == 2 && (t.getQueue 2 5).state == 3 && !(t.getPart 2).release) := by
  unfold RunsInDomain; decide +kernel

/-! ### Clauses that later rules add -/

theorem test_met_older_bytes :
    (let s := { bytesAt2000 (fw2 0 0) with lagLoads := true }.modPart 0 fun x => { x with logmib := 1 }
     let w : Wr := s.gridWriter
     let t := s.write w 0x2002 [9]
     let v := t.write w 0x2002 [10]
     w.behind = some s.cur ∧ s.writer.behind = none ∧ t.core.older = [[(0x2002, 0x82)]] ∧ byte t 0x2002 = 9 ∧
       v.core.older = [[(0x2002, 0x82)], [(0x2002, 9)]] ∧ (t.write s.writer 0x2003 [10]).core.older = [] ∧ (t.write s.writer 0x2040 [10]).core.older = [[(0x2002, 0x82)]] ∧
       (let u := t.updCore fun c => { c with load := some ⟨3, 0x2000, 0x2000, 4, false, 4⟩ }
        u.core.run = .running ∧ u.poisonedRange 0x2000 4 = false ∧ u.region 0x2000 ≠ .dev ∧ t.olderOf 0x2003 4 = [] ∧
          v.olderOf 0x2000 4 = [[(0x2002, 0x82)], [(0x2002, 9)]] ∧
          [0, 1, 2].map (fun k => v.olderData 0x2000 4 ((v.olderOf 0x2000 4).drop k)) = [0x83828180, 0x83098180, 0x830A8180] ∧
          State.readPast 0x2000 4 1 [[(0x2002, 0x82), (0x3000, 1)], [(0x2002, 9)]] = [[(0x3000, 1)], [(0x2002, 9)]]) ∧
       (let f := tasked (t.updCore fun c => { c with flight := [out (.fence 1 0)] })
        Alone f (out (.fence 1 0)) ∧ ran (exec .fenceRetire f) (fun u => u.core.older == [] && u.core.flight == []) ∧
          ran (exec .fenceRetire (f.updCore fun c => { c with flight := [out (.fence 0 0)] })) fun u => u.core.older == [[(0x2002, 0x82)]]) ∧
       (let a := (t.updCore fun c => (c.setReg 2 0x2000).setReg 1 5)
        Clear a [2, 1, 3] ∧ Unheld a ∧ Landed a ∧ (a.translate (a.scalarWho false) .amo 0x2000).2 = .ok 0x2000 ∧
          ran (exec (.amoadd ⟨0, 1, 0, 1, 2, 3⟩) a) fun u => u.core.older == [] && u.reg 3 == 0x8786858483098180)) := by decide +kernel

theorem test_met_wfi_waits_for_the_timer :
    (let s := cored fun c => { atLevel 1 c with timecmp := 5 }
     s.timeNow.toNat < s.core.timecmp.toNat ∧ s.core.preReq = false ∧ ran (exec .wfi s) fun t => t.core.pc == 0x1000 && t.core.wfi) := by
  decide +kernel

theorem test_met_traps_of_every_access :
    (let s := regs2 0x2001 0x2001
     Clear s [1, 2] ∧ Clear s [1, 2, 3] ∧ Unheld s ∧ s.core.drained = true ∧
       ran (exec (.hLdd 3 1) s) (fun t => t.core.cause == 3 && t.core.tval == 0x2009 && t.core.spc == 0x1000) ∧
       ran (exec (.hStd 1 1) s) (fun t => t.core.cause == 3 && t.core.tval == 0x2009) ∧
       ran (exec (.amoadd ⟨0, 0, 0, 2, 1, 3⟩) s) fun t => t.core.cause == 3 && t.core.tval == 0x2001 && t.core.pc == 0x8000) ∧
    (let s := regs2 0x2000 0x2000
     ran (exec (.lr ⟨0, 1, 0, 0, 1, 3⟩) s) (fun t => t.core.cause == 6 && t.core.tval == 0x2000) ∧
       ran (exec (.hStd 1 0) s) (fun t => t.core.cause == 6 && t.core.tval == 0x2000) ∧
       ran (exec (.amoswap ⟨0, 1, 0, 2, 1, 3⟩) (s.tlbInstall (probeBank 0 0x2000) 0 0 0x40037 17)) fun t => t.core.cause == 7) ∧
    (let s := { pointed with poison := [(0x40000, true)] }
     let r := s.translate (s.scalarWho false) .amo 0x40
     r.2 = .ok 0x40040 ∧ Landed r.1 ∧ r.1.poisonedRange 0x40040 8 = true ∧
       ran (exec (.amoadd ⟨0, 1, 0, 2, 1, 3⟩) s) fun t => t.core.cause == 0xC && t.core.tval == 0 && t.core.restidx == 0) := by decide +kernel

theorem test_met_element_values :
    RMode.ofCode 2 = some .rdn ∧ patFV .f32 (elemF (.round 2) .f32 {} 0 0xBFC00000 0).1 = .fin true 8388608 (-22) ∧
    (elemF (.round 2) .f32 {} 0 0xBFC00000 0).2 = { nx := true } ∧ (readF .f32 false 0x7FC00000).isNaN = true ∧
    elemF .clmul .i8 {} 0 0xFF 0x81 = (0x7F, {}) ∧ elemF .clmulh .i8 {} 0 0xFF 0x81 = (0x7F, {}) := by decide +kernel

theorem test_met_vectors_of_grid_memory :
    (let w : Window := ⟨1, .row, 4, 2, 1⟩
     let op : GOp := .gls .ldff 2 w 2 0x2000 2 none
     let e := { fwOut op with maps := [(0, 0)], probed := true, pend := [(0, 0, []), (129, 0, [])] }
     let s := (fwAlone op).updCore fun c => { c with flight := [e] }
     Alone s e ∧ e.stopItem = some 129 ∧ (vecItems s.core.grid 2 (s.core.masks.governing 2) 0x2000 2 none 0 0) = [(0, 0x2000), (1, 0x2002)] ∧
       ran (exec (.windowPipeVector .pass) s) (fun t => t.core.grid.cell 1 4 1 == 0x8382 && t.core.flight.map (·.prog) == [128] &&
         ran (exec (.windowPipeVector .pass) t) fun u => u.core.flight == [] && u.core.ffi == 0x101)) ∧
    (let op : GOp := .gls .stx 1 (rowW 0 1) 2 0x2000 0 (some (rowW 0 1))
     let s := (fwAlone op).modPart 0 fun x => { x with logmib := 1 }
     sharedIdx .stx (rowW 0 1) (some (rowW 0 1)) = none ∧
       ran (exec (.windowPipeVector .pass) s) fun t => t.readNat 0x2000 2 == 0x0100 && t.core.flight == []) ∧
    (let op : GOp := .gls .ldff 2 (rowW 1 4) 3 0x2000 2 none
     glsItems ramp 2 (rowW 1 4) ((fwAlone op).core.masks.governing 3) 0x2000 2 none 0 = [] ∧
       ran (exec (.windowPipeVector .pass) (fwAlone op)) fun t => t.core.flight == [] && t.core.ffi == 0x8000) := by decide +kernel

theorem test_met_rows_of_an_image :
    (let t7 := { gang [0] .running with resv := [(0, 0, 262144)] }
     let op (rest : Bool) : GOp := .gimage rest 0 1 2 (BitVec.ofNat 64 (apertureBase + 64))
     let s (rest : Bool) : State := { (alone (op rest)).updCore (fun c => { c with task := some 7, grid := ramp }) with tasks := [t7] }
     ran (exec (.windowPipeVector .pass) (s false)) (fun t => t.core.flight.map (·.prog) == [1] && t.core.flight.all (fun e => e.pend != []) &&
       t.readNat (spadBase + 64) 4 == 1 &&
       ran (exec (.windowPipeVector .pass) t) fun u => u.core.flight == [] && u.readNat (spadBase + 64 + 18) 1 == 1) ∧
     ran (exec (.windowPipeVector .pass) (((s true).rawWrite (spadBase + 64) [2]).rawWrite (spadBase + 640) [7])) (fun t =>
       t.core.flight.map (·.prog) == [1] && t.core.grid.cell 0 1 1 == 0 && !(t.core.grid.row 0 1).valid &&
         ran (exec (.windowPipeVector .pass) t) fun u => u.core.flight == [] && u.core.grid.cell 0 2 0 == 7)) := by decide +kernel

theorem test_met_a_fence_holds_streams :
    (let st : Stream := { kind := .qld, ord := 0, seq := 0, q := 4, addr := 0x2000, spec := ⟨.i8, false, false, false, 0, 8, 2, 0, 4, 32⟩,
                          idx := 0, pc := 0, word := 0, pl := 2, dzNext := 0 }
     let x := { out (.fence 1 0) with ord := 1 }
     let s := { bytesAt2000 (fw2 0 0) with lagGrid := true }.updCore fun c => { c with streams := [st], flight := [x] }
     x.fin = false ∧ st.ord < x.ord ∧ s.core.markerHolds st = true ∧ (s.updCore fun c => { c with flight := [] }).core.markerHolds st = false ∧
       (s.getPart s.part).ha = false ∧ ran (exec (.streamStep 4 .pass) s) fun t => t == s) := by decide +kernel

theorem test_met_flags_of_the_grid_reset :
    (let s := (tasked (alone .gridReset)).updCore fun c => { c with flags := 0x1F1F }
     Alone s (out .gridReset) ∧ ran (exec .gridResetEntry s) fun t => t.core.flags == 0x1F00) := by decide +kernel

theorem test_met_answers_between_stop_and_run :
    (let s := { (State.reset.modPart 3 fun x => { x with duties := [⟨9, 1, 0x20000, 1, 0⟩], grantbase := 0x100000 }) with
                walks := [walking], dom := { State.reset.dom with state := .stop } }
     s.dom.state.commits = false ∧
       ran (exec (.hostAnswer 3 9 0x4000000040037) (s.rawWrite 0x100000 (leBytes 8 0xFFFFFFFFFFFFFFFF))) fun t => t.tlb == [] &&
         (t.getPart 3).answers == [] && t.walks == [] && (t.getPart 3).duties == []) ∧
    (let s := { State.reset with tlb := [⟨4, 3, 0, 21, 0x37⟩] }
     ran (exec (.invalidation 3 0x8000000000000000) s) fun t => (t.getPart 3).invdrop.elem (0, 21)) := by decide +kernel

theorem test_met_a_record_published_in_part :
    (let s := ringed.modQueue 0 2 fun x => { x with tail := 32 }
     let x := s.getQueue 0 2
     s.launches 0 = true ∧ x.state = 1 ∧ x.hs = .fetch ∧ x.head ≠ x.tail ∧ x.tail.toNat < x.head.toNat + 48 ∧
       ran (exec (.recordFetch 0 2) s) fun t => t.getQueue 0 2 == x && t.tasks == s.tasks) := by decide +kernel

theorem test_met_a_granted_task :
    (let s := (reserving.modQueue 0 2 fun x => { x with held := { x.held with cls := 0x100, spad := 1, sync := 2 } }).rawWrite (spadBase + 5) [1]
     ran (exec (.reserveAttempt 0) s) fun t => t.tasks.map (fun k => (k.cls, k.nb, k.preempt, k.state, k.cores)) ==
         [(0, 2, true, .granted, [0])] &&
       t.tasks.map (fun k => k.resv) == [[(0, 0, 262144)]] && t.readNat (spadBase + 5) 1 == 0) := by decide +kernel

theorem test_met_retrain_toggles_and_release_waits :
    ran (exec (.retrainStart 2) { State.reset with devctl := 0x40002 }) (fun t => t.devctl == 2) ∧
    (let s := { State.reset with dom := { State.reset.dom with state := .stop } }.modPart 2 fun x => { x with stage := .flush, release := true }
     s.dom.state.commits = false ∧ ran (exec (.resetScrub 2) s) fun t => t == s) := by decide +kernel

/-! ### Rounding, the cells of a step, fills and copies -/

theorem test_met_rounded_results :
    (let num (n : Bool) (m : Nat) (e : Int) : ℝ := (if n then -1 else 1) * (m : ℝ) * (2 : ℝ) ^ e
     |num true (2 ^ 25) 0| < |(-(2 ^ 25 + 1 / 2) : ℝ)| ∧ |(-(2 ^ 25 + 1 / 2) : ℝ)| < |num true (2 ^ 25 + 1) 0| ∧
       0 < (-(2 ^ 25 + 1 / 2) : ℝ) * num true 1 0 ∧ num false 1 (1 : Int) + num true 2 0 = 0) := by
  norm_num [abs_of_neg, abs_of_pos]

theorem test_met_rounding_in_each_mode :
    (let r (mode : RMode) (neg : Bool) (m : Nat) (e : Int) (st : Bool) : Nat × Fl := roundTo fmtF32 .ieee mode false (.num neg m e st)
     r .rne false (2 ^ 24 + 1) 0 false = (0x4B800000, { nx := true }) ∧ r .rmm false (2 ^ 24 + 1) 0 false = (0x4B800001, { nx := true }) ∧
     r .rdn true (2 ^ 24 + 1) 0 false = (0xCB800001, { nx := true }) ∧ r .rtz true (2 ^ 24 + 1) 0 false = (0xCB800000, { nx := true }) ∧
     r .rup false (2 ^ 25) 0 true = (0x4C000001, { nx := true }) ∧ fmtF32.decode 0x4B800001 = .fin false 8388609 1 ∧
     r .rup false 1 128 false = (0x7F800000, Fl.overflow) ∧ r .rtz false 1 128 false = (0x7F7FFFFF, Fl.overflow) ∧
     fmtF32.decode 0x7F800000 = .inf false ∧ r .rne true 3 (-150) false = (0x80000002, { uf := true, nx := true }) ∧
     fmtF32.qmin + 2 ^ fmtF32.ebits - 3 = 104) := by decide +kernel

theorem test_met_cells_of_a_step :
    (let f : OaccF := ⟨0, 0, 0, 0, 0, 1, 0, 0, 0, 0, 0, 0, 0⟩
     let at7 (old : Cell) (isInt : Bool) (a b : List (Option OVal)) : Cell × Fl :=
       let g : Grid := Grid.writeRow [] 1 7 fun c => if c = 7 then some old else none
       let r := stepGrid f isInt false (fun row => if row = 7 then a else []) (fun col => if col = 7 then b else []) g {}
       (r.1.cell 1 7 7, r.2.fl)
     let x (n : Bool) (m : Nat) (e : Int) : Option OVal := some (.f (.fin n m e))
     8 * f.rorg.toNat + 8 * (f.rows.toNat + 1) ≤ 128 ∧
     at7 5 true [some (.i 3), none, some (.i (-2))] [some (.i 4), some (.i 9), some (.i 5)] = (7, {}) ∧
     at7 0x7FFFFFFF true [some (.i 1)] [some (.i 1)] = (0x80000000, { iov := true }) ∧
     at7 0x45800000 false [x false 1 (-6), x false 1 (-6)] [x false 1 (-6), x false 1 (-6)] = (0x45800001, {}) ∧
     at7 0x7FC00001 false [] [] = (0x7FC00001, {}) ∧ at7 0x80000000 false [x false 1 0, x true 1 0] [x false 1 0, x false 1 0] = (0x80000000, {}) ∧
     at7 0 false [some (.f .nan)] [x false 1 0] = (0x7FC00000, {}) ∧
     at7 0 false [some (.f (.inf false))] [x false 0 0] = (0x7FC00000, { nv := true }) ∧
     at7 0 false [some (.f (.inf true))] [x false 1 0] = (0xFF800000, {}) ∧
     at7 0xFF800000 false [some (.f (.inf true))] [x true 1 0] = (0x7FC00000, { nv := true }) ∧
     at7 0x7F800000 false [x false 1 0] [x false 1 0] = (0x7F800000, {})) := by decide +kernel

theorem test_met_fills_and_copies :
    (let g := fillVec ⟨1, .diag, 120, 3, 5⟩ (BitVec.ofNat 128 4) 9 [] 2
     g.cell 1 2 ((2 + (120 + 10) % 128) % 128) = 9 ∧ g.cell 1 3 5 = 0 ∧ (g.row 1 3).valid = false) ∧
    (let f : CopyF := ⟨0, 0, 1, 0, 0, 0, 1, 2⟩
     copyOk true f = true ∧ copyOk false f = true ∧
       (let b := copyBox f
        let g := Grid.writeRow [] b.sh (b.sr + 3) fun c => if c = b.sc + 5 then some 77 else none
        (copyGrid true f g).cell b.dh (b.dr + 5) (b.dc + 3) = 77 ∧ (copyGrid false f g).cell b.dh (b.dr + 3) (b.dc + 5) = 77 ∧
          (copyGrid true f g).cell b.dh (b.dr + 3) (b.dc + 5) = if b.dh = b.sh ∧ b.dr = b.sr ∧ b.dc = b.sc then 0 else g.cell b.dh (b.dr + 3) (b.dc + 5))) := by
  decide +kernel

/-! ### Scouts, probes and rings -/

/-- A qldz that reads four bytes of D from the block at 0x3000. -/
def scouting : Stream :=
  { kind := .qldz, ord := 0, seq := 9, q := 4, addr := 0x3000, spec := ⟨.i8, false, false, false, 8, 2, 1, 0, 1, 0⟩, idx := 0, pc := 0, word := 0,
    pl := 2, dzNext := 0x3000 }

theorem test_met_scouts :
    (let hb := (blockOf5.set 6 15).take 32
     let s : State := { (runsOne (.dztab 2 0x3000) { gang [0] .running with tables := Sp.put [] [] 2 twoCodes }).rawWrite 0x3000
       (blockOf5.set 6 15) with cmds := [] }
     let r := s.scoutHeads scouting 17 scouting.dzLimit 17
     let k := { cmdOf (.xdz 0x4000 0x3000 0) with task := 7, dz := 0x3000 }
     (parseHdr hb).magicOk = true ∧ okIs (s.readRun (s.streamWho scouting) 0x3000 32).2 hb ∧ scouting.dzLimit = 4 ∧
       r.2.dzDir = [(0, 0x3000, hb ++ [6])] ∧ r.2.dzPos = 5 ∧ r.2.dzLast = some 0x3000 ∧ r.2.dzWants [0, 3] = some (0, 0x3000, hb ++ [6]) ∧
       (s.dzFill scouting [0, 1, 2, 3] 12).2.1.dzImg = [(0, [0x41, 0, 0, 0, 0])] ∧
       (s.formStep scouting 0).2.2 = .ok [[some (.i 0x41), some (.i 0)], [some (.i 0), some (.i 0)]] ∧
       k.scouted 0x3000 = [] ∧ scoutFault k.flt.toList 0x3000 = none ∧ okIs (s.readRun (State.cmdWho k) 0x3000 32).2 hb ∧
       (s.scoutXdz k 0x3000 17).2.snap = [(0x3000, hb ++ [6])] ∧
       ran (exec (.streamStep 4 .pass) ({ s with lagGrid := true }.updCore fun c => { c with streams := [scouting] })) fun t =>
         (t.core.queues.getD 4 []).length == 1 && t.core.streams == []) := by decide +kernel

theorem test_met_probes_and_one_read :
    (let s := fwAlone (.wrd 0 0)
     let w := s.entryWho (fwOut (.wrd 0 0)) 2
     (0x2001 : Nat) % 2 ≠ 0 ∧ (s.probeItems w 2 .load [] [(4, 0x2001)]).2 = ([], some (some (4, { code := 3, tval := 0x2001 }))) ∧
       (s.probeItems w 2 .load [] [(0, 0x2000), (1, 0x2002), (2, 0x40000)]).2 = ([(0, 0), (2, 0x40000)], some none)) ∧
    (let wd : Window := ⟨1, .row, 4, 2, 1⟩
     let op : GOp := .gls .ld 2 wd 2 0x2000 0 none
     let e (bs : List Byte) : Entry := { fwOut op with maps := [(0, 0)], probed := true, pend := [(0, 0x2000, bs)] }
     let s (bs : List Byte) : State := (fwAlone op).updCore fun c => { c with flight := [e bs] }
     (e []).firstBytes = [] ∧ (e [1, 2]).firstBytes ≠ [] ∧
       ran (exec (.windowPipeVector .pass) (s [])) (fun t => t.core.flight.map (·.firstBytes) == [[0x80, 0x81]] &&
         ran (exec (.windowPipeVector .pass) (t.rawWrite 0x2000 [0, 0])) fun u => u.core.grid.cell 1 5 1 == 0x8180 && u.core.flight == []) ∧
       ran (exec (.windowPipeVector .pass) (s [1, 2])) fun t => t.core.grid.cell 1 4 0 == 0x0201) := by decide +kernel

theorem test_met_a_record_across_the_ring_end :
    (let s := ringed.modQueue 0 2 fun x => { x with first := false, head := 4080, tail := 4096, qbase := 0x20 }
     let t := (s.rawWrite 0x41010 recordBytes).tlbInstall (probeBank 0 0x1010) 0 0 0x4003F 17
     let x := t.getQueue 0 2
     x.head.toNat % 2 ^ x.log2sz = 4080 ∧ 2 ^ x.log2sz < 4080 + 48 ∧ x.head ≠ x.tail ∧
       ran (exec (.recordFetch 0 2) t) fun u => (u.getQueue 0 2).state == 2 && (u.getQueue 0 2).fcause == 6) := by decide +kernel

/-! ### Rules met in part before -/

theorem test_maxima_of_infinities_merge_no_flag :
    (let a : WinArgs := { ty := .e5m2, km := 31, wd := some (rowW 0 0), w1 := some (rowW 0 1) }
     let pr : VProg := { fold := [0x7F800000] }
     let m : Mask := BitVec.ofNat 128 1
     (colFinish .max a {} m [] pr {}).2 = {} ∧ (colFinish .min a {} m [] pr {}).2 = {} ∧ (colFinish .sum a {} m [] pr {}).2.fl.sat = true ∧
       (rowReduce .max .e5m2 {} m fun _ => 0x7C).2 = {} ∧ (rowReduce .max .e5m2 {} m fun _ => 0x7C).1 = 0x7B) := by decide +kernel

theorem test_a_mismatch_parks_at_its_element :
    (let s := runsOne (.xfer (pairMap 0x4000) (pairMap 0x2000) 0 [(0, 0)] [(0, 0)]) (gang [0] .running)
     ran (exec (.engineRuntimeFault 5 (.fail false 1 0)) s) (fun t => t.readNat 0x4000 4 == 0x83828180 &&
         t.cmds.map (fun c => (c.state, c.next)) == [(.parked 0x0D 0, 1)] && (t.core.ctr 3).cause == 0x0D) ∧
       ran (exec (.engineRuntimeFault 5 (.fail false 0 0)) s) fun t => t.readNat 0x4000 4 == 0 && t.cmds.map (·.next) == [0]) := by decide +kernel

theorem test_a_gsave_keeps_the_rows_before_a_poisoned_one :
    (let op : GOp := .gimage false 0 1 2 (BitVec.ofNat 64 (apertureBase + 64))
     let g : Grid := Sp.put GridRow.init ramp (Grid.key 0 2) ⟨true, false, true, Vector.replicate 128 0⟩
     let t7 := { gang [0] .running with resv := [(0, 0, 262144)] }
     let s : State := { (alone op).updCore (fun c => { c with task := some 7, grid := g, frame := some 0x50000 }) with
       tasks := [t7], poison := [((0x50000 + 0x24040 + 1024) / 256 * 256, true)] }
     ran (exec (.windowPipeVector .pass) s) fun t => t.core.flight.map (·.prog) == [1] && t.readNat (spadBase + 128 + 4 * 127) 4 == 127 &&
       t.readNat (spadBase + 64) 4 == 3) := by decide +kernel

theorem test_a_resumable_task_goes_before_a_higher_class :
    (let v : SavedCore := { (framed .drain (.preempting [])).savedCore with core := 0 }
     let k := { gang [0] .preempted with frames := [(0, 0x50000)], saved := [v] }
     let s := { reserving with tasks := [k] }.modQueue 0 2 fun x => { x with held := { x.held with cls := 2 } }
     s.candidates.map (·.r.level) = [2] ∧ s.mayResume k = true ∧
       ran (exec (.reserveAttempt 0) s) (fun t => t.tasks.map (fun k => (k.id, k.state)) == [(7, .running)] && (t.getQueue 0 2).hs == .reserve 0 false)) := by
  decide +kernel

theorem test_a_write_that_leaves_EN_out :
    (let q := { State.reset.getQueue 0 0 with state := 2, fcause := 0x10 }
     (State.writeQueueCtl true q 0xFFFFFFFF 0).state = 2 ∧ (State.writeQueueCtl true q (BitVec.allOnes 64) 0).state = 0) := by decide +kernel

theorem test_demanded_rows_are_fetched_first :
    (let row : GridRow := ⟨true, false, true, Vector.replicate 128 0⟩
     let g : Grid := Sp.put GridRow.init (Sp.put GridRow.init [] (Grid.key 0 2) row) (Grid.key 0 9) row
     let a : WinArgs := { ty := .i32, km := 31, op2 := .const 1, wd := some (rowW 0 9), w1 := some (rowW 0 9) }
     let s := { alone (.win (.elem .add) a) with lagGrid := true }.updCore fun c => { c with grid := g, frame := some 0x50000 }
     s.core.fetchesRow 2 = false ∧ s.core.fetchesRow 9 = true ∧ (s.updCore fun c => { c with flight := [] }).core.fetchesRow 2 = true) := by
  decide +kernel

theorem test_a_restored_status_keeps_no_reserved_bit :
    (let v : SavedCore := { (framed .drain (.preempting [])).savedCore with core := 0 }
     let s0 := { State.reset with tasks := [{ gang [0] .preempted with frames := [(0, 0x50000)], saved := [v] }] }
     ran (exec (.taskResume 7) (s0.rawWrite 0x50100 (leBytes 8 0xFFFFFFFFFFFFFFF0))) fun t => t.core.status == 0x37730) := by decide +kernel

end Sys2Proof.Tests
end

section
/-! PROOFS. Canonical memory (R4, R213): what it is for memory and for an outcome, the operations that write bytes, traps, device registers and translation.
Every operation of a step has one lemma: `f_mem` where it leaves memory alone, `canonical_f` where the state that it gives has canonical memory,
`canonicalOut_f` where it gives an outcome. A lemma of an operation follows from those of the operations that it calls, case by case. -/

namespace Sys2Proof.Machine

open Sys2Proof.Safety

/-- The canonical form of a memory list: addresses strictly rise and no listed byte is zero. -/
def Canonical (m : Sp Byte) : Prop := Sp.wf 0 m = true

/-- Every state that an outcome goes on in has canonical memory. -/
def CanonicalOut : Out → Prop
  | .next t => Canonical t.mem
  | .fault _ | .refused _ => True

@[simp] theorem canonicalOut_next {t : State} : CanonicalOut (.next t) ↔ Canonical t.mem := Iff.rfl

@[simp] theorem canonicalOut_fault (r : Fault) : CanonicalOut (.fault r) := trivial

@[simp] theorem canonicalOut_ite {c : Prop} [Decidable c] (o p : Out) :
    CanonicalOut (if c then o else p) ↔ if c then CanonicalOut o else CanonicalOut p :=
  iff_of_eq (apply_ite CanonicalOut c o p)

@[simp] theorem mem_ite {c : Prop} [Decidable c] (s t : State) : (if c then s else t).mem = if c then s.mem else t.mem :=
  apply_ite State.mem c s t

@[simp] theorem canonical_ite {c : Prop} [Decidable c] (m n : Sp Byte) :
    Canonical (if c then m else n) ↔ if c then Canonical m else Canonical n :=
  iff_of_eq (apply_ite Canonical c m n)

variable {s : State}

/-- The state that an operation answers, among the cases of its answer. -/
theorem canonical_of_eq {α : Type} {p : State × α} {t : State} {a : α} (h : Canonical p.1.mem) (e : p = (t, a)) : Canonical t.mem := by
  rw [e] at h
  exact h

/-! ### The operations that write -/

theorem canonical_pokeBytes (bs : List Byte) {m : Sp Byte} (pa : Nat) (h : Canonical m) : Canonical (pokeBytes m pa bs) :=
  pokeBytes_wf bs m pa h

theorem canonical_foldl {α : Type} (f : State → α → State) (hf : ∀ s a, Canonical s.mem → Canonical (f s a).mem) (l : List α)
    (s : State) (h : Canonical s.mem) : Canonical (l.foldl f s).mem :=
  memoryWf_foldl f hf l s h

namespace State

theorem foldl_mem {α : Type} (f : State → α → State) (hf : ∀ s a, (f s a).mem = s.mem) (l : List α) (s : State) :
    (l.foldl f s).mem = s.mem := by
  induction l generalizing s with
  | nil => rfl
  | cons a l ih => rw [List.foldl_cons, ih, hf]

@[simp] theorem canonical_landBytes (pa : Nat) (bs : List Byte) (h : Canonical s.mem) : Canonical (s.landBytes pa bs).mem :=
  memoryWf_landBytes pa bs h

@[simp] theorem canonical_rawWrite (pa : Nat) (bs : List Byte) (h : Canonical s.mem) : Canonical (s.rawWrite pa bs).mem :=
  memoryWf_rawWrite pa bs h

@[simp] theorem canonical_write (w : Wr) (pa : Nat) (bs : List Byte) (h : Canonical s.mem) : Canonical (s.write w pa bs).mem :=
  memoryWf_write w pa bs h

@[simp] theorem canonical_recordFault (p agent : Nat) (va : Word) (f : PFault) (h : Canonical s.mem) :
    Canonical (s.recordFault p agent va f).mem :=
  memoryWf_recordFault p agent va f h

@[simp] theorem canonical_performStores (n : Nat) (h : Canonical s.mem) : Canonical (s.performStores n).mem :=
  memoryWf_performStores n h

@[simp] theorem canonical_stopTask (t : Task) (cores : List Nat) (stop : Nat → Core → Core) (h : Canonical s.mem) :
    Canonical (s.stopTask t cores stop).mem :=
  memoryWf_stopTask t cores stop h

@[simp] theorem canonical_killTask (i : Nat) (h : Canonical s.mem) : Canonical (s.killTask i).mem := memoryWf_killTask i h

@[simp] theorem tellParts_mem (k : Nat) : (s.tellParts k).mem = s.mem := foldl_mem _ (by simp) _ _

@[simp] theorem raiseDomainFault_mem (k : Nat) : (s.raiseDomainFault k).mem = s.mem := by simp [raiseDomainFault]

/-! ### Traps -/

@[simp] theorem canonicalOut_trapWith (blk : List Entry) (code : Nat) (tval epc spc : Word) (h : Canonical s.mem) :
    CanonicalOut (s.trapWith blk code tval epc spc) := by
  cases ht : s.trapWith blk code tval epc spc with
  | next t => exact memoryWf_trapWith h ht
  | fault | refused => trivial

@[simp] theorem canonicalOut_trap (code : Nat) (tval : Word) (h : Canonical s.mem) : CanonicalOut (s.trap code tval) :=
  canonicalOut_trapWith _ _ _ _ _ h

@[simp] theorem canonicalOut_trapPage (agent : Nat) (va : Word) (f : PFault) (h : Canonical s.mem) :
    CanonicalOut (s.trapPage agent va f) :=
  canonicalOut_trap _ _ (canonical_recordFault _ _ _ _ h)

@[simp] theorem canonicalOut_machineCheck (blk : List Entry) (kind : Nat) (lane row : Option Nat) (op : BitVec 32)
    (mpc epc spc : Word) (h : Canonical s.mem) : CanonicalOut (s.machineCheck blk kind lane row op mpc epc spc) := by
  fun_cases machineCheck <;> simp +zetaDelta -implicitDefEqProofs [h]

/-! ### Translation buffers -/

@[simp] theorem meterWalk_mem (p : Nat) (va : Word) : (s.meterWalk p va).mem = s.mem := foldl_mem _ (by simp) _ _

@[simp] theorem tlbInstall_mem (buf p : Nat) (va leaf : Word) (low : Nat) : (s.tlbInstall buf p va leaf low).mem = s.mem := by
  fun_cases tlbInstall <;> rfl

/-! ### Device registers -/

@[simp] theorem modQueue_mem (p q : Nat) (f : LQueue → LQueue) : (s.modQueue p q f).mem = s.mem := rfl

@[simp] theorem haltQueue_mem (p q code : Nat) (a : Word) : (s.haltQueue p q code a).mem = s.mem := rfl

@[simp] theorem writeTail_mem (p q : Nat) (v : Word) : (s.writeTail p q v).mem = s.mem := by fun_cases writeTail <;> simp

@[simp] theorem startInv_mem (p n : Nat) : (s.startInv p n).mem = s.mem := rfl

@[simp] theorem serveInv_mem (p : Nat) (ws : List (Word × Word)) : (s.serveInv p ws).mem = s.mem := by
  fun_induction serveInv <;> simp_all

@[simp] theorem finishInv_mem (p : Nat) : (s.finishInv p).mem = s.mem := by fun_cases finishInv <;> simp

@[simp] theorem ringBell_mem (p : Nat) (v : Word) : (s.ringBell p v).mem = s.mem := by simp [ringBell]

@[simp] theorem answerWalk_mem (w : WalkReq) (v : Word) : (s.answerWalk w v).mem = s.mem := by
  fun_cases answerWalk <;> simp +zetaDelta

@[simp] theorem answer_mem (p tag : Nat) (v : Word) : (s.answer p tag v).mem = s.mem := by
  fun_cases answer <;> simp +zetaDelta

@[simp] theorem dropSealRequests_mem (old : State) : (s.dropSealRequests old).mem = s.mem := by
  fun_cases dropSealRequests <;> simp

@[simp] theorem setShare_mem (p mib : Nat) : (s.setShare p mib).mem = s.mem := by fun_cases setShare <;> simp +zetaDelta

@[simp] theorem allot_mem (p st clusters : Nat) : (s.allot p st clusters).mem = s.mem := rfl

@[simp] theorem clearRetrain_mem (l : Nat) : (s.clearRetrain l).mem = s.mem := rfl

@[simp] theorem capWeight_mem (p : Nat) : (s.capWeight p).mem = s.mem := by
  simp only [capWeight]
  exact foldl_mem _ (fun _ _ => by rfl) _ _

@[simp] theorem canonical_startReset (p : Nat) (rel : Bool) (h : Canonical s.mem) : Canonical (s.startReset p rel).mem := by
  fun_cases startReset
  · exact h
  · exact canonical_foldl _ (fun _ _ => canonical_killTask _) _ _ (by simpa +zetaDelta using h)

@[simp] theorem canonical_devWrite (mgmt : Bool) (r : DevReg) (mask v : Word) (h : Canonical s.mem) :
    Canonical (s.devWrite mgmt r mask v).1.mem := by
  fun_cases devWrite <;> simp_all +zetaDelta -implicitDefEqProofs [apply_ite Prod.fst]
  case case20 => split <;> (try split) <;> simp [h]

@[simp] theorem canonical_devStore (pa n v : Nat) (h : Canonical s.mem) : Canonical (s.devStore pa n v).1.mem :=
  canonical_devWrite _ _ _ _ h

/-! ### Translation -/

@[simp] theorem canonical_postDuty (p : Nat) (d : DutyReq) (w0 w1 w2 w3 : Nat) (h : Canonical s.mem) :
    Canonical (s.postDuty p d w0 w1 w2 w3).mem := by
  fun_cases postDuty <;> simp +zetaDelta [h, canonical_pokeBytes]

@[simp] theorem tlbFill_mem (w : Who) (va leaf : Word) (low : Nat) : (s.tlbFill w va leaf low).mem = s.mem := by
  fun_cases tlbFill <;> simp +zetaDelta

@[simp] theorem canonical_openWalks (cluster : Nat) (h : Canonical s.mem) : Canonical (s.openWalks cluster).mem := by
  exact canonical_foldl _ (fun s x h => by simp [h]) _ _ h

@[simp] theorem canonical_askWalk (w : Who) (k : Acc) (va : Word) (h : Canonical s.mem) : Canonical (s.askWalk w k va).mem := by
  exact canonical_openWalks _ (by simp [h])

@[simp] theorem canonical_walkHost (w : Who) (k : Acc) (va : Word) (h : Canonical s.mem) :
    Canonical (s.walkHost w k va).1.mem := by
  fun_cases walkHost <;> simp [h]

@[simp] theorem canonical_leafFor (w : Who) (k : Acc) (va : Word) (h : Canonical s.mem) : Canonical (s.leafFor w k va).1.mem := by
  fun_cases leafFor <;> simp [h]

@[simp] theorem canonical_translate (w : Who) (k : Acc) (va : Word) (h : Canonical s.mem) :
    Canonical (s.translate w k va).1.mem := by
  have h1 := canonical_leafFor w k va h
  fun_cases translate <;> simp_all

@[simp] theorem canonical_pageWalk (va : Word) (h : Canonical s.mem) : Canonical (s.pageWalk va).mem := by
  fun_cases pageWalk <;> simp [h]

end State
end Sys2Proof.Machine

end

section
/-! PROOFS. Canonical memory through the scalar accesses, the rows of the grid, streams, grid loads and stores and images. -/

namespace Sys2Proof.Machine

open Sys2Proof.Safety

variable {s : State}

namespace State

/-! ### Scalar accesses and atomics -/

@[simp] theorem canonical_landStores (ws : List StoreWait) (h : Canonical s.mem) : Canonical (s.landStores ws).mem := by
  fun_induction landStores <;> grind [canonical_write, setLstall_mem, updCore_mem]

@[simp] theorem canonical_landAll (h : Canonical s.mem) : Canonical s.landAll.mem := by
  fun_cases landAll <;> simp [h]

@[simp] theorem canonical_landBefore (ord : Nat) (h : Canonical s.mem) : Canonical (s.landBefore ord).mem := by
  fun_cases landBefore <;> simp [h]

@[simp] theorem canonical_landFor (pa n : Nat) (h : Canonical s.mem) : Canonical (s.landFor pa n).mem := by
  fun_cases landFor <;> simp [h]

@[simp] theorem loadData_mem (pa n : Nat) : (s.loadData pa n).1.mem = s.mem := by
  fun_cases loadData <;> simp

@[simp] theorem orderLoads_mem : s.orderLoads.mem = s.mem := by
  fun_cases orderLoads <;> simp

@[simp] theorem canonicalOut_trapA (code : Nat) (tval : Word) (h : Canonical s.mem) : CanonicalOut (s.trapA code tval) := by
  fun_cases trapA <;> simp [h]

@[simp] theorem canonicalOut_trapPageA (t : State) (va : Word) (f : PFault) (h : Canonical s.mem) (ht : Canonical t.mem) :
    CanonicalOut (s.trapPageA t va f) := by
  fun_cases trapPageA <;> simp [h, ht]

@[simp] theorem canonicalOut_trapPoisonA (va : Word) (h : Canonical s.mem) : CanonicalOut (s.trapPoisonA va) := by
  fun_cases trapPoisonA
  · exact canonicalOut_trap _ _ h
  · exact h

@[simp] theorem canonicalOut_illegal (i : Instr) (h : Canonical s.mem) : CanonicalOut (s.illegal i) := canonicalOut_trapA _ _ h

/-- An instruction of slot A stalls or does its work. -/
theorem canonicalOut_slotA (rs : List Reg) {k : State → Out} (h : Canonical s.mem) (hk : CanonicalOut (k s)) :
    CanonicalOut (s.slotA rs k) := by
  rcases s.slotA_cases rs k with e | e <;> rw [e]
  · exact h
  · exact hk

@[simp] theorem canonicalOut_slotAWrite (rs : List Reg) (d : Reg) (v : Word) (len : Nat) (h : Canonical s.mem) :
    CanonicalOut (s.slotAWrite rs d v len) :=
  canonicalOut_slotA _ h h

@[simp] theorem canonicalOut_loadReturn (d : Reg) (va : Word) (pa n : Nat) (sgn : Bool) (len : Nat) (h : Canonical s.mem) :
    CanonicalOut (s.loadReturn d va pa n sgn len) := by
  fun_cases loadReturn <;> simp +zetaDelta [h]

@[simp] theorem canonicalOut_load (d : Reg) (va : Word) (n : Nat) (sgn : Bool) (len : Nat) (h : Canonical s.mem) :
    CanonicalOut (s.load d va n sgn len) := by
  have h1 := canonical_translate (s.scalarWho (n == 8 || n == 4)) .load va h
  fun_cases load <;> simp_all +zetaDelta

@[simp] theorem canonicalOut_storeIssue (va : Word) (pa n : Nat) (v : Word) (len : Nat) (h : Canonical s.mem) :
    CanonicalOut (s.storeIssue va pa n v len) := by
  fun_cases storeIssue <;> simp [h]

@[simp] theorem canonicalOut_store (va : Word) (n : Nat) (v : Word) (len : Nat) (h : Canonical s.mem) :
    CanonicalOut (s.store va n v len) := by
  have h1 := canonical_translate (s.scalarWho (n == 8 || n == 4)) .store va h
  fun_cases store <;> grind [canonical_devStore, canonical_landAll, canonicalOut_next, canonicalOut_trapA, canonicalOut_trapPageA,
    canonicalOut_storeIssue, advance_mem]

@[simp] theorem canonicalOut_amoFinish (f : AmoF) (pa : Nat) (new : Option Nat) (resv : Option (Option (Nat × Nat))) (res : Word)
    (h : Canonical s.mem) : CanonicalOut (s.amoFinish f pa new resv res) := by
  fun_cases amoFinish <;> cases resv <;> simp +zetaDelta [h]

/-- A checked access goes on in `k`, from a state that translation and the stores before it have left. -/
theorem canonicalOut_amoAccess (f : AmoF) {k : State → Nat → Out} (h : Canonical s.mem)
    (hk : ∀ t pa, Canonical t.mem → CanonicalOut (k t pa)) : CanonicalOut (s.amoAccess f k) := by
  refine canonicalOut_slotA _ h ?_
  have h1 := canonical_translate (s.scalarWho false) .amo (s.reg f.a) h
  dsimp only
  repeat' split
  all_goals simp_all

@[simp] theorem canonicalOut_amoRmw (f : AmoF) (g : Nat → Nat → Nat → Nat) (h : Canonical s.mem) : CanonicalOut (s.amoRmw f g) :=
  canonicalOut_amoAccess f h fun _ _ => canonicalOut_amoFinish _ _ _ _ _

/-! ### Accesses of the grid side -/

@[simp] theorem fetchRow_mem (s : State) (half r : Nat) : (s.fetchRow half r).1.mem = s.mem := by
  fun_cases fetchRow <;> simp

@[simp] theorem fetchRows_mem (l : List Nat) : (s.fetchRows l).1.mem = s.mem := by
  fun_induction fetchRows with
  | case1 => rfl
  | case2 s k rest t e ih => rw [ih, ← s.fetchRow_mem (k / 128) (k % 128), e]
  | case3 => simp

@[simp] theorem canonical_gridAccess (w : Who) (k : Acc) (va : Word) (n : Nat) (h : Canonical s.mem) :
    Canonical (s.gridAccess w k va n).1.mem := by
  have h1 := canonical_translate w k va h
  fun_cases gridAccess <;> simp_all

@[simp] theorem canonical_mapPages (w : Who) (k : Acc) (l : List (Nat × Nat)) (h : Canonical s.mem) :
    Canonical (s.mapPages w k l).1.mem := by
  fun_induction mapPages <;> grind [canonical_translate]

@[simp] theorem canonical_readVirt (w : Who) (addrs : List Nat) (tag : Option Nat) (h : Canonical s.mem) :
    Canonical (s.readVirt w addrs tag).1.mem := by
  have h1 := canonical_mapPages w .load (pageHeads addrs) h
  fun_cases readVirt <;> simp_all

@[simp] theorem canonical_peekRun (w : Who) (va : Word) (n : Nat) (tag : Option Nat) (h : Canonical s.mem) :
    Canonical (s.peekRun w va n tag).1.mem := by
  have h1 := canonical_readVirt w (span va.toNat n) tag h
  fun_cases peekRun <;> simp_all

@[simp] theorem meterVirt_mem (w : Who) (addrs : List Nat) : (s.meterVirt w addrs).mem = s.mem := by
  fun_cases meterVirt <;> simp

@[simp] theorem canonical_readRun (w : Who) (va : Word) (n : Nat) (tag : Option Nat) (h : Canonical s.mem) :
    Canonical (s.readRun w va n tag).1.mem := by
  have h1 := canonical_peekRun w va n tag h
  fun_cases readRun <;> simp_all

/-! ### Streams -/

@[simp] theorem canonical_scoutBlock (w : Who) (tag : Option Nat) (hdr : Word) (held : List Byte) (h : Canonical s.mem) :
    Canonical (s.scoutBlock w tag hdr held).1.mem := by
  fun_cases scoutBlock <;> grind [canonical_readRun]

@[simp] theorem canonical_qldxLines (st : Stream) (k : Nat) (h : Canonical s.mem) : Canonical (s.qldxLines st k).1.mem := by
  fun_cases qldxLines <;> grind [canonical_readVirt]

@[simp] theorem canonical_readIndex (st : Stream) (fuel : Nat) (h : Canonical s.mem) : Canonical (s.readIndex st fuel).1.mem := by
  fun_induction readIndex <;> grind [canonical_qldxLines, meterVirt_mem]

@[simp] theorem canonical_readIndices (h : Canonical s.mem) : Canonical s.readIndices.mem := by
  fun_cases readIndices
  · exact h
  · refine canonical_foldl _ (fun s i h => ?_) _ _ h
    split <;> simp [h]

@[simp] theorem canonical_scoutCoded (st : Stream) (h : Canonical s.mem) : Canonical (s.scoutCoded st).1.mem := by
  unfold scoutCoded
  refine List.foldlRecOn (motive := fun p : State × Stream => Canonical p.1.mem) _ _ h fun p hp b _ => ?_
  split <;> simp [hp]

@[simp] theorem canonical_scoutHeads (st : Stream) (n limit fuel : Nat) (h : Canonical s.mem) :
    Canonical (s.scoutHeads st n limit fuel).1.mem := by
  fun_induction scoutHeads <;> grind [canonical_scoutBlock]

@[simp] theorem canonical_dzFill (st : Stream) (needs : List Nat) (fuel : Nat) (h : Canonical s.mem) :
    Canonical (s.dzFill st needs fuel).1.mem := by
  fun_induction dzFill <;> grind [canonical_scoutCoded, canonical_scoutHeads]

@[simp] theorem canonical_stepPages (st : Stream) (addrs : List Nat) (h : Canonical s.mem) :
    Canonical (s.stepPages st addrs).1.mem := by
  fun_cases stepPages <;> simp [h]

@[simp] theorem canonical_formStep (st : Stream) (k : Nat) (h : Canonical s.mem) : Canonical (s.formStep st k).1.mem := by
  fun_cases formStep <;> grind [canonical_dzFill, canonical_stepPages, meterReads_mem]

@[simp] theorem pushEntry_mem (q : Nat) (e : QEntry) : (s.pushEntry q e).mem = s.mem := rfl

@[simp] theorem putStream_mem (st : Stream) : (s.putStream st).mem = s.mem := rfl

@[simp] theorem canonical_parkStream (st : Stream) (f : GFault) (h : Canonical s.mem) : Canonical (s.parkStream st f).mem := by
  simp only [parkStream, putStream_mem, pushEntry_mem]
  split <;> simp [h]

@[simp] theorem canonical_grantedSteps (st : Stream) (fuel k : Nat) (ms : List (Nat × Nat)) (h : Canonical s.mem) :
    Canonical (s.grantedSteps st fuel k ms).1.mem := by
  fun_induction grantedSteps <;> grind [canonical_mapPages]

/-! ### Grid loads and stores, images -/

theorem canonical_writeVirt (w : Wr) (m : List (Nat × Nat)) (va : Nat) (bs : List Byte) (fuel : Nat) (h : Canonical s.mem)
    {t : State} (ht : s.writeVirt w m va bs fuel = some t) : Canonical t.mem := by
  fun_induction writeVirt <;> simp_all

@[simp] theorem canonical_probeItems (w : Who) (z : Nat) (k : Acc) (m l : List (Nat × Nat)) (h : Canonical s.mem) :
    Canonical (s.probeItems w z k m l).1.mem := by
  fun_induction probeItems <;> grind [canonical_gridAccess]

@[simp] theorem loadElem_mem (w : Window) (n : Nat) (bs : List Byte) : (s.loadElem w n bs).mem = s.mem := rfl

@[simp] theorem loadItems_mem (w : Window) (z : Nat) (one : Nat → Bool) (held : List Byte) (l : List (Nat × Nat × Nat)) :
    (s.loadItems w z one held l).1.mem = s.mem := by
  fun_induction loadItems <;> simp_all

@[simp] theorem canonical_storeItems (ordered : Bool) (w : Window) (z : Nat) (seen : List Nat) (l : List (Nat × Nat × Nat))
    (h : Canonical s.mem) : Canonical (s.storeItems ordered w z seen l).1.mem := by
  fun_induction storeItems <;> grind [canonical_write, setLstall_mem, tickFree_mem]

@[simp] theorem canonical_glsProbe (e : Entry) (k : GlsKind) (z : Nat) (items : List (Nat × Nat)) (h : Canonical s.mem) :
    Canonical (s.glsProbe e k z items).1.mem := by
  fun_cases glsProbe <;> grind [canonical_probeItems]

@[simp] theorem glsNext_mem (e : Entry) (k : GlsKind) (w : Window) : (s.glsNext e k w).1.mem = s.mem := by
  fun_cases glsNext <;> simp

@[simp] theorem readOnce_mem (e : Entry) (z : Nat) (l : List (Nat × Nat × Nat)) : (s.readOnce e z l).1.mem = s.mem := by
  fun_cases readOnce <;> simp

@[simp] theorem loadVec_mem (e : Entry) (k : GlsKind) (z : Nat) (w : Window) (whole : Bool) (xs : List (Nat × Nat × Nat)) :
    (s.loadVec e k z w whole xs).1.mem = s.mem := by
  fun_cases loadVec <;> grind [readOnce_mem, loadItems_mem, glsNext_mem, updCore_mem]

@[simp] theorem canonical_storeVec (e : Entry) (k : GlsKind) (z : Nat) (w : Window) (xs : List (Nat × Nat × Nat))
    (h : Canonical s.mem) : Canonical (s.storeVec e k z w xs).1.mem := by
  fun_cases storeVec <;> grind [canonical_storeItems, glsNext_mem]

@[simp] theorem canonical_gatherVec (e : Entry) (z : Nat) (w : Window) (items : List (Nat × Nat)) (h : Canonical s.mem) :
    Canonical (s.gatherVec e z w items).1.mem := by
  fun_cases gatherVec <;> grind [canonical_probeItems, loadItems_mem, glsNext_mem]

@[simp] theorem canonical_glsVec (e : Entry) (k : GlsKind) (z : Nat) (w : Window) (km : KField) (base str : Word)
    (wi : Option Window) (h : Canonical s.mem) : Canonical (s.glsVec e k z w km base str wi).1.mem := by
  fun_cases glsVec <;> simp [h]

@[simp] theorem canonical_runGls (e : Entry) (k : GlsKind) (z : Nat) (w : Window) (km : KField) (base str : Word)
    (wi : Option Window) (h : Canonical s.mem) : Canonical (s.runGls e k z w km base str wi).1.mem := by
  fun_cases runGls <;> grind [canonical_glsProbe, canonical_glsVec, glsNext_mem]

@[simp] theorem canonical_mapRun (w : Who) (k : Acc) (va : Word) (n : Nat) (h : Canonical s.mem) :
    Canonical (s.mapRun w k va n).1.mem := by
  fun_cases mapRun <;> grind [canonical_mapPages]

@[simp] theorem canonical_saveRun (w : Who) (va : Word) (bs : List Byte) (h : Canonical s.mem) :
    Canonical (s.saveRun w va bs).1.mem := by
  fun_cases saveRun <;> grind [canonical_mapRun, canonical_writeVirt, setLstall_mem]

@[simp] theorem imageNext_mem (e : Entry) (n : Nat) : (s.imageNext e n).1.mem = s.mem := rfl

@[simp] theorem canonical_saveRow (e : Entry) (half first n : Nat) (addr : Word) (h : Canonical s.mem) :
    Canonical (s.saveRow e half first n addr).1.mem := by
  fun_cases saveRow <;> grind [fetchRow_mem, canonical_saveRun, imageNext_mem]

@[simp] theorem canonical_restRow (e : Entry) (half first n : Nat) (addr : Word) (h : Canonical s.mem) :
    Canonical (s.restRow e half first n addr).1.mem := by
  have h1 := canonical_mapRun (s.entryWho e 2) .load (addr + BitVec.ofNat 64 (64 + 512 * e.prog)) 512 h
  unfold restRow
  dsimp only
  split
  · next e => exact canonical_of_eq h1 e
  · next e => exact canonical_of_eq h1 e
  · next e =>
    have ht := canonical_of_eq h1 e
    split <;> exact ht

@[simp] theorem canonical_imageHead (e : Entry) (rest : Bool) (half first n : Nat) (addr : Word) (h : Canonical s.mem) :
    Canonical (s.imageHead e rest half first n addr).1.mem := by
  fun_cases imageHead <;> grind [canonical_readRun, canonical_saveRun]

@[simp] theorem canonical_runImage (e : Entry) (rest : Bool) (half first n : Nat) (addr : Word) (h : Canonical s.mem) :
    Canonical (s.runImage e rest half first n addr).1.mem := by
  fun_cases runImage <;> grind [canonical_imageHead, canonical_restRow, canonical_saveRow]

end State
end Sys2Proof.Machine

end

section
/-! PROOFS. Canonical memory through the engines: parked and restarted commands, transfers and decompression. -/

namespace Sys2Proof.Machine

open Sys2Proof.Safety

variable {s : State}

namespace State

/-! ### Engine commands -/

/-- What keeps the form keeps it when another core does it. -/
theorem canonical_asCore (n : Nat) {f : State → State} (hf : ∀ t, Canonical t.mem → Canonical (f t).mem) (h : Canonical s.mem) :
    Canonical (s.asCore n f).mem := by
  simpa [asCore] using hf (s.switchTo n) (by simpa using h)

theorem asCore_mem (n : Nat) {f : State → State} (hf : ∀ t, (f t).mem = t.mem) : (s.asCore n f).mem = s.mem := by
  simp [asCore, hf]

@[simp] theorem setCmd_mem (c : Cmd) : (s.setCmd c).mem = s.mem := rfl

@[simp] theorem dropCmd_mem (id : Nat) : (s.dropCmd id).mem = s.mem := rfl

@[simp] theorem modCtr_mem (c : Cmd) (f : Counter → Counter) : (s.modCtr c f).mem = s.mem := by
  fun_cases modCtr <;> simp

@[simp] theorem completeCmd_mem (c : Cmd) : (s.completeCmd c).mem = s.mem := by simp [completeCmd]

@[simp] theorem canonical_recordCmd (c : Cmd) (ag : Nat) (tval : Word) (pf : PFault) (h : Canonical s.mem) :
    Canonical (s.recordCmd c ag tval pf).mem :=
  canonical_asCore _ (fun _ ht => canonical_recordFault _ _ _ _ ht) h

@[simp] theorem canonical_parkCmd (c : Cmd) (f : GFault) (h : Canonical s.mem) : Canonical (s.parkCmd c f).mem := by
  simp only [parkCmd, setCmd_mem, modCtr_mem]
  split <;> simp [h]

@[simp] theorem acceptCmd_mem (e : Entry) (ctr : Nat) (op : CmdOp) (dz : Word) : (s.acceptCmd e ctr op dz).mem = s.mem := rfl

@[simp] theorem canonical_probeOrder (w : Who) (k : Acc) (as : List Nat) (h : Canonical s.mem) :
    Canonical (s.probeOrder w k as).1.mem :=
  canonical_mapPages _ _ _ h

@[simp] theorem readMaps_mem (e : Entry) (as : List Word) : (s.readMaps e as).mem = s.mem := foldl_mem _ (by simp) _ _

@[simp] theorem canonical_prepXfer (e : Entry) (da sa x3 : Word) (h : Canonical s.mem) : Canonical (s.prepXfer e da sa x3).1.mem := by
  unfold prepXfer
  have h1 := canonical_peekRun (s.entryWho e 2) sa 64 none h
  split
  · next e1 => exact canonical_of_eq h1 e1
  next t sb e1 =>
  have h2 := canonical_peekRun (t.entryWho e 2) da 64 none (canonical_of_eq h1 e1)
  split
  · next e2 => exact canonical_of_eq h2 e2
  next u db e2 =>
  have hu : Canonical u.mem := canonical_of_eq h2 e2
  dsimp only
  split
  · exact hu
  split
  · exact hu
  split <;> grind [canonical_probeOrder]

@[simp] theorem setTags_mem (tagen : Bool) (tag pa n : Nat) (whole : Nat → Bool) : (s.setTags tagen tag pa n whole).mem = s.mem := by
  fun_cases setTags <;> rfl

theorem canonical_xferWrite_ok {c : Cmd} {dst : TMap} {dm : List (Nat × Nat)} {whole : Nat → Bool} {a : Option Nat} {bs : List Byte}
    {t : State} (h : Canonical s.mem) (e : s.xferWrite c dst dm whole a bs = .ok t) : Canonical t.mem := by
  revert e
  fun_cases xferWrite <;> rintro ⟨⟩
  · exact h
  · simp [h]

theorem xferWrite_stall_mem {c : Cmd} {dst : TMap} {dm : List (Nat × Nat)} {whole : Nat → Bool} {a : Option Nat} {bs : List Byte}
    {t : State} (e : s.xferWrite c dst dm whole a bs = .stall t) : t.mem = s.mem := by
  revert e
  fun_cases xferWrite <;> rintro ⟨⟩
  simp

@[simp] theorem meterElem_mem (c : Cmd) (src : TMap) (sm : List (Nat × Nat)) (fresh : Bool) (a : Option Nat) :
    (s.meterElem c src sm fresh a).mem = s.mem := by
  fun_cases meterElem <;> simp

@[simp] theorem canonical_xferLoop (c : Cmd) (dst src : TMap) (x3 : Word) (sm dm : List (Nat × Nat)) (last : Sp Nat)
    (els : List (Nat × Nat)) (h : Canonical s.mem) : Canonical (s.xferLoop c dst src x3 sm dm last els).mem := by
  fun_induction xferLoop with
  | case1 => simpa using h
  | case2 => exact canonical_parkCmd _ _ h
  | case3 => exact canonical_parkCmd _ _ h
  | case4 => exact canonical_parkCmd _ _ h
  | case5 s c k n rest p held hf rd bs hr t e => simpa [xferWrite_stall_mem e] using h
  | case6 s c k n rest p held hf rd bs hr t e ih => exact ih (by simpa using canonical_xferWrite_ok h e)

@[simp] theorem canonical_runXfer (c : Cmd) (dst src : TMap) (x3 : Word) (sm dm : List (Nat × Nat)) (bad : Option Nat)
    (h : Canonical s.mem) : Canonical (s.runXfer c dst src x3 sm dm bad).mem := by
  refine canonical_xferLoop _ _ _ _ _ _ _ _ ?_
  rw [foldl_mem _ (by simp)]
  exact h

@[simp] theorem canonical_scoutXdz (c : Cmd) (hdr : Word) (n : Nat) (h : Canonical s.mem) : Canonical (s.scoutXdz c hdr n).1.mem := by
  fun_induction scoutXdz <;> grind [canonical_scoutBlock]

@[simp] theorem canonical_parkXdz (c : Cmd) (f : GFault) (h : Canonical s.mem) : Canonical (s.parkXdz c f).mem :=
  canonical_parkCmd _ _ h

@[simp] theorem canonical_runXdz (c : Cmd) (dst prm : Word) (fuel : Nat) (h : Canonical s.mem) :
    Canonical (s.runXdz c dst prm fuel).mem := by
  fun_induction runXdz
  case case11 s3 _ s4 _ | case12 s3 _ s4 _ _ =>
    have h4 : s4.mem = s3.mem := foldl_mem _ (by simp) _ _
    grind [canonical_scoutXdz, canonical_mapPages, canonical_writeVirt, completeCmd_mem]
  all_goals grind [canonical_scoutXdz, canonical_parkXdz, canonical_mapPages, setCmd_mem, setLstall_mem]

@[simp] theorem canonical_installTable (c : Cmd) (n : Nat) (addr : Word) (img : List Byte) (h : Canonical s.mem) :
    Canonical (s.installTable c n addr img).mem := by
  fun_cases installTable <;> simp [h]

@[simp] theorem canonical_runDztab (c : Cmd) (n : Nat) (addr : Word) (h : Canonical s.mem) : Canonical (s.runDztab c n addr).mem := by
  fun_cases runDztab <;> grind [canonical_installTable, canonical_readRun, canonical_parkCmd, setCmd_mem]

@[simp] theorem restartCmds_mem : s.restartCmds.mem = s.mem := rfl

@[simp] theorem cancelParked_mem (ctr : Nat) : (s.cancelParked ctr).mem = s.mem := rfl

end State
end Sys2Proof.Machine

end

section
/-! PROOFS. Canonical memory through iteration rings, barriers, the tag table and accumulation windows. -/

namespace Sys2Proof.Machine

open Sys2Proof.Safety

variable {s : State}

namespace State

/-! ### Iteration rings, barriers, tags and accumulation windows -/

@[simp] theorem canonical_releaseWait (e : Entry) (earlier : List Entry) (h : Canonical s.mem) :
    Canonical (s.releaseWait e earlier).1.mem :=
  canonical_landBefore _ h

@[simp] theorem setChannel_mem (ch : Nat) (x : Chan) : (s.setChannel ch x).mem = s.mem := rfl

@[simp] theorem canonical_runIpost (e : Entry) (earlier : List Entry) (ch : Nat) (n : Word) (h : Canonical s.mem) :
    Canonical (s.runIpost e earlier ch n).1.mem := by
  have h1 := canonical_releaseWait e earlier h
  fun_cases runIpost <;> simp_all

@[simp] theorem runIwait_mem (e : Entry) (ch : Nat) (n : Word) : (s.runIwait e ch n).1.mem = s.mem := by
  fun_cases runIwait <;> rfl

@[simp] theorem setBarObj_mem (task key : Nat) (o : BarObj) : (s.setBarObj task key o).mem = s.mem := rfl

@[simp] theorem sendBar_mem (e : Entry) (a : Word) (op : BarOp) : (s.sendBar e a op).1.mem = s.mem := rfl

@[simp] theorem runBarInit_mem (e : Entry) (a cnt : Word) : (s.runBarInit e a cnt).1.mem = s.mem := by
  fun_cases runBarInit <;> simp

@[simp] theorem canonical_runBarArrive (e : Entry) (earlier : List Entry) (rlx : Bool) (a : Word) (xd : Nat)
    (h : Canonical s.mem) : Canonical (s.runBarArrive e earlier rlx a xd).1.mem := by
  fun_cases runBarArrive <;> grind [canonical_releaseWait, sendBar_mem, updCore_mem, setBarObj_mem]

@[simp] theorem runBarWait_mem (e : Entry) (a phase : Word) : (s.runBarWait e a phase).1.mem = s.mem := by
  fun_cases runBarWait <;> grind [sendBar_mem]

@[simp] theorem remoteBar_mem (id : Nat) (a : Word) (p tenant : Nat) (op : BarOp) : (s.remoteBar id a p tenant op).mem = s.mem := by
  fun_cases remoteBar <;> simp

@[simp] theorem tagDrop_mem (key : Word) : (s.tagDrop key).mem = s.mem := rfl

@[simp] theorem runSlook_mem (e : Entry) (key : Word) (xd : Nat) : (s.runSlook e key xd).1.mem = s.mem := rfl

@[simp] theorem runSins_mem (e : Entry) (earlier : List Entry) (key slot : Word) (xd : Nat) :
    (s.runSins e earlier key slot xd).1.mem = s.mem := by
  fun_cases runSins <;> simp

@[simp] theorem runSinv_mem (e : Entry) (earlier : List Entry) (key : Word) : (s.runSinv e earlier key).1.mem = s.mem := by
  fun_cases runSinv <;> simp

@[simp] theorem setAwin_mem (a : Nat) (w : Option AWin) : (s.setAwin a w).mem = s.mem := rfl

@[simp] theorem canonical_probeRw (w : Who) (va : Word) (h : Canonical s.mem) : Canonical (s.probeRw w va).1.mem := by
  have h1 := canonical_gridAccess w .store va 4 h
  fun_cases probeRw <;> simp_all

@[simp] theorem canonical_probeMerge (w : Who) (base : Word) (ks : List Nat) (h : Canonical s.mem) :
    Canonical (s.probeMerge w base ks).1.mem := by
  fun_induction probeMerge <;> grind [canonical_probeRw]

@[simp] theorem mergeRead_mem (e : Entry) (w : AWin) (k pa : Nat) : (s.mergeRead e w k pa).1.mem = s.mem := by
  fun_cases mergeRead <;> simp

@[simp] theorem canonical_mergeWrite (e : Entry) (a : Nat) (w : AWin) (k pa : Nat) (old : List Byte) (h : Canonical s.mem) :
    Canonical (s.mergeWrite e a w k pa old).1.mem := by
  fun_cases mergeWrite <;> simp [h]

@[simp] theorem canonical_runAmerge (e : Entry) (a : Nat) (h : Canonical s.mem) : Canonical (s.runAmerge e a).1.mem := by
  fun_cases runAmerge <;> grind [canonical_mergeWrite, mergeRead_mem, canonical_probeMerge]

@[simp] theorem runAscat_mem (e : Entry) (a : Nat) (wi wv : Window) (km : KField) : (s.runAscat e a wi wv km).1.mem = s.mem := by
  fun_cases runAscat <;> simp

end State
end Sys2Proof.Machine

end

section
/-! PROOFS. Canonical memory through the recovery domain and the links. -/

namespace Sys2Proof.Machine

open Sys2Proof.Safety

variable {s : State}

namespace State

/-! ### The recovery domain -/

@[simp] theorem takeArrive_mem (dev : Nat) (n : BitVec 32) (b : Bool) : (s.takeArrive dev n b).mem = s.mem := by
  fun_cases takeArrive <;> rfl

@[simp] theorem commitNext_mem : s.commitNext.mem = s.mem := by
  fun_cases commitNext <;> rfl

@[simp] theorem tryCommit_mem : s.tryCommit.mem = s.mem := by simp [tryCommit]

@[simp] theorem deviceArrive_mem (n : BitVec 32) : (s.deviceArrive n).mem = s.mem := by
  fun_cases deviceArrive <;> simp

@[simp] theorem sealAgentArrive_mem (die : Nat) (n : BitVec 32) : (s.sealAgentArrive die n).mem = s.mem := by
  fun_cases sealAgentArrive <;> simp +zetaDelta

@[simp] theorem survivorsArrive_mem : s.survivorsArrive.mem = s.mem := foldl_mem _ (by simp) _ _

@[simp] theorem checkRoute_mem (old : State) : (s.checkRoute old).mem = s.mem := by
  fun_cases checkRoute <;> simp

@[simp] theorem withdrawArrival_mem : s.withdrawArrival.mem = s.mem := rfl

@[simp] theorem canonical_applyCommit (n : BitVec 32) (h : Canonical s.mem) : Canonical (s.applyCommit n).mem := by
  simp only [applyCommit, dropSealRequests_mem, modCores_mem]
  exact canonical_foldl _ (fun _ _ ht => canonical_landBytes _ _ ht) _ _ h

@[simp] theorem canonical_enterStop (d : BitVec 32) (h : Canonical s.mem) : Canonical (s.enterStop d).mem := by
  simp only [enterStop, modCores_mem]
  exact canonical_foldl _ (fun _ n => canonical_performStores n) _ _ h

@[simp] theorem canonical_restoreDie (die : Nat) (h : Canonical s.mem) : Canonical (s.restoreDie die).mem := memoryWf_restoreDie die h

@[simp] theorem canonical_zeroSpad (lo n : Nat) (h : Canonical s.mem) : Canonical (s.zeroSpad lo n).mem := memoryWf_zeroSpad lo n h

/-- Halting queues of a partition leaves memory alone. -/
theorem haltQueues_mem (p : Nat) (qs : List Nat) (s : State) :
    (qs.foldl (fun s q => s.haltQueue p q 0x10 (s.getQueue p q).faddr) s).mem = s.mem :=
  foldl_mem (fun s q => s.haltQueue p q 0x10 (s.getQueue p q).faddr) (fun _ _ => rfl) qs s

/-- Halting the queues of all partitions leaves memory alone. -/
theorem haltAllQueues_mem (ps qs : List Nat) (s : State) :
    (ps.foldl (fun s p => qs.foldl (fun s q => s.haltQueue p q 0x10 (s.getQueue p q).faddr) s) s).mem = s.mem :=
  foldl_mem (fun s p => qs.foldl (fun s q => s.haltQueue p q 0x10 (s.getQueue p q).faddr) s)
    (fun s p => haltQueues_mem p qs s) ps s

theorem canonical_zeroSpads (l : List (Nat × Nat)) (s : State) (h : Canonical s.mem) :
    Canonical (l.foldl (fun s r => s.zeroSpad r.1 r.2) s).mem := by
  induction l generalizing s with
  | nil => exact h
  | cons r l ih => exact ih _ (canonical_zeroSpad r.1 r.2 h)

@[simp] theorem canonical_cleanDomain (h : Canonical s.mem) : Canonical s.cleanDomain.mem := by
  unfold cleanDomain
  generalize List.range 16 = ps, List.range 8 = qs
  simp only [haltAllQueues_mem, dropSealRequests_mem, modCores_mem]
  exact canonical_zeroSpads _ s h

@[simp] theorem reportDomain_mem : s.reportDomain.mem = s.mem := by
  simp only [reportDomain, sendMsg_mem, setNotices_mem, modCores_mem]
  exact foldl_mem _ (fun t x => by split <;> rfl) _ _

@[simp] theorem tryResume_mem : s.tryResume.mem = s.mem := by
  fun_cases tryResume <;> rfl

/-! ### Links -/

@[simp] theorem canonical_probeSpan (w : Who) (k : Acc) (va : Word) (n : Nat) (h : Canonical s.mem) :
    Canonical (s.probeSpan w k va n).1.mem := by
  have h1 := canonical_mapPages w k (pageHeads (span va.toNat n)) h
  fun_cases probeSpan <;> simp_all

@[simp] theorem canonical_prepSend (w : Who) (hold : Bool) (addr : Word) (quant : Nat) (ef : Bool) (h : Canonical s.mem) :
    Canonical (s.prepSend w hold addr quant ef).1.mem := by
  unfold prepSend
  split
  · next e => exact canonical_of_eq (canonical_peekRun _ _ _ _ h) e
  next t bs e =>
  have ht : Canonical t.mem := canonical_of_eq (canonical_peekRun _ _ _ _ h) e
  dsimp only
  split
  · exact ht
  split <;> grind [canonical_probeSpan]

@[simp] theorem canonical_prepRecv (w : Who) (hold : Bool) (addr : Word) (add : Bool) (h : Canonical s.mem) :
    Canonical (s.prepRecv w hold addr add).1.mem := by
  unfold prepRecv
  split
  · next e => exact canonical_of_eq (canonical_peekRun _ _ _ _ h) e
  next t bs e =>
  have ht : Canonical t.mem := canonical_of_eq (canonical_peekRun _ _ _ _ h) e
  dsimp only
  split
  · exact ht
  split <;> grind [canonical_probeSpan]

@[simp] theorem canonical_unpair (c : Cmd) (h : Canonical s.mem) : Canonical (s.unpair c).mem := by
  fun_cases unpair <;> simp [h]

@[simp] theorem sendCredit_mem (id : Nat) (c : Cmd) (x : RecvC) : (s.sendCredit id c x).mem = s.mem := rfl

@[simp] theorem sendOffer_mem (c : Cmd) (x : SendC) : (s.sendOffer c x).mem = s.mem := rfl

@[simp] theorem canonical_takeCredit (id : Nat) (peer : List Byte) (h : Canonical s.mem) : Canonical (s.takeCredit id peer).mem := by
  fun_cases takeCredit <;> simp -implicitDefEqProofs [h]

@[simp] theorem canonical_cancelNotice (id : Nat) (h : Canonical s.mem) : Canonical (s.cancelNotice id).mem := by
  fun_cases cancelNotice <;> simp [h]

theorem canonical_writeResid (w : Wr) (c : SendC) (l : List (Nat × BitVec 32)) (h : Canonical s.mem) {t : State}
    (ht : s.writeResid w c l = some t) : Canonical t.mem := by
  fun_induction writeResid <;> simp_all

@[simp] theorem placeFlit_mem (c : Cmd) (x : SendC) (f : Flit) : (s.placeFlit c x f).mem = s.mem := rfl

@[simp] theorem meterBlocks_mem (c : Cmd) (x : SendC) (k : Nat) : (s.meterBlocks c x k).mem = s.mem := foldl_mem _ (by simp) _ _

@[simp] theorem canonical_placeBlocks (c : Cmd) (x : SendC) (seq k : Nat) (h : Canonical s.mem) :
    Canonical (s.placeBlocks c x seq k).mem := by
  fun_cases placeBlocks <;> grind [placeFlit_mem, meterBlocks_mem, setLstall_mem, canonical_writeResid]

@[simp] theorem canonical_transmit (id : Nat) (h : Canonical s.mem) : Canonical (s.transmit id).mem := by
  fun_cases transmit <;> simp [h]

@[simp] theorem canonical_recvLoop (c : Cmd) (x : RecvC) (ws : List RWrite) (h : Canonical s.mem) :
    Canonical (s.recvLoop c x ws).1.mem := by
  fun_induction recvLoop <;> grind [setCmd_mem, canonical_parkCmd, setLstall_mem, canonical_write, meterMem_mem, setTags_mem]

@[simp] theorem canonical_drainRecv (id : Nat) (l : List (Nat × Nat × List Byte)) (h : Canonical s.mem) :
    Canonical (s.drainRecv id l).mem := by
  fun_induction drainRecv <;> grind [canonical_recvLoop, sendMsg_mem]

@[simp] theorem canonical_takePayload (id round blk nblk : Nat) (bs : List Byte) (h : Canonical s.mem) :
    Canonical (s.takePayload id round blk nblk bs).mem := by
  fun_cases takePayload <;> simp -implicitDefEqProofs [h]

@[simp] theorem modLink_mem (l : Nat) (f : Link → Link) : (s.modLink l f).mem = s.mem := rfl

@[simp] theorem takeAck_mem (l seq : Nat) : (s.takeAck l seq).mem = s.mem := rfl

@[simp] theorem takeWritten_mem (id round n : Nat) : (s.takeWritten id round n).mem = s.mem := by
  fun_cases takeWritten <;> simp

@[simp] theorem meterFlit_mem (id : Nat) : (s.meterFlit id).mem = s.mem := by
  fun_cases meterFlit <;> simp

@[simp] theorem canonical_receive (f : FlitIn) (h : Canonical s.mem) : Canonical (s.receive f).mem := by
  fun_cases receive <;> simp -implicitDefEqProofs [h]

@[simp] theorem replay_mem (l seq : Nat) : (s.replay l seq).mem = s.mem := by
  fun_cases replay
  · rfl
  · rw [foldl_mem _ (by simp)]
    rfl

@[simp] theorem retrain_mem (l : Nat) : (s.retrain l).mem = s.mem := by
  fun_cases retrain <;> rfl

@[simp] theorem retrainStart_mem (l : Nat) : (s.retrainStart l).mem = s.mem := by
  fun_cases retrainStart <;> rfl

@[simp] theorem linkUp_mem (l peer : Nat) : (s.linkUp l peer).mem = s.mem := by
  fun_cases linkUp
  · rfl
  · rw [foldl_mem _ (by simp)]
    rfl

@[simp] theorem lostPair_mem (c : Cmd) : (s.lostPair c).mem = s.mem := by
  fun_cases lostPair <;> simp +zetaDelta

@[simp] theorem rerouteIdle_mem (ls : List Nat) : (s.rerouteIdle ls).mem = s.mem := rfl

@[simp] theorem linksLost_mem (ls : List Nat) : (s.linksLost ls).mem = s.mem := by
  have h1 (l : List Nat) : (l.foldl (fun s l =>
      ((s.modLink l fun x => { x with state := 3, buf := [] }).clearRetrain l).tell (.vector 65)) s).mem = s.mem :=
    foldl_mem _ (by simp) _ _
  have h2 (l : List Cmd) (t : State) : (l.foldl lostPair t).mem = t.mem := foldl_mem _ (by simp) _ _
  fun_cases linksLost <;> simp +zetaDelta [h1, h2]

@[simp] theorem linkLost_mem (l : Nat) : (s.linkLost l).mem = s.mem := linksLost_mem _

@[simp] theorem canonical_finishLink (c : Cmd) (desc v : Word) (tagen : Bool) (tag : Nat) (h : Canonical s.mem) :
    Canonical (s.finishLink c desc v tagen tag).mem := by
  fun_cases finishLink <;> grind [canonical_probeSpan, canonical_parkCmd, setLstall_mem, canonical_writeVirt, completeCmd_mem,
    setTags_mem]

@[simp] theorem canonical_completeLink (c : Cmd) (h : Canonical s.mem) : Canonical (s.completeLink c).mem := by
  fun_cases completeLink <;> simp [h]

@[simp] theorem canonical_linkWork (c : Cmd) (h : Canonical s.mem) : Canonical (s.linkWork c).mem := by
  fun_cases linkWork <;> grind [canonical_drainRecv, canonical_completeLink]

@[simp] theorem canonical_rereadLink (c : Cmd) (h : Canonical s.mem) : Canonical (s.rereadLink c).1.mem := by
  fun_cases rereadLink <;> grind [canonical_prepSend, canonical_prepRecv, canonical_parkCmd]

@[simp] theorem startLink_mem (c : Cmd) : (s.startLink c).mem = s.mem := by
  fun_cases startLink <;> simp +zetaDelta

end State
end Sys2Proof.Machine

end

section
/-! PROOFS. Canonical memory through the engine port, the accepted commands, the markers and the end of a task. -/

namespace Sys2Proof.Machine

open Sys2Proof.Safety

variable {s : State}

namespace State

/-! ### The engine port -/

@[simp] theorem runCinc_mem (e : Entry) (c : Nat) (v : Word) : (s.runCinc e c v).1.mem = s.mem := by
  fun_cases runCinc <;> simp

@[simp] theorem runCset_mem (e : Entry) (c : Nat) (v : Word) : (s.runCset e c v).1.mem = s.mem := by
  fun_cases runCset <;> simp

@[simp] theorem runCwait_mem (e : Entry) (c : Nat) (v : Word) : (s.runCwait e c v).1.mem = s.mem := by
  fun_cases runCwait <;> simp

@[simp] theorem runCrd_mem (e : Entry) (c xd : Nat) : (s.runCrd e c xd).1.mem = s.mem := rfl

@[simp] theorem setGrant_mem (kind : EngKind) (core : Nat) : (s.setGrant kind core).mem = s.mem := by
  fun_cases setGrant <;> rfl

@[simp] theorem setSlot_mem (snd : Bool) (die core : Nat) : (s.setSlot snd die core).mem = s.mem := rfl

@[simp] theorem awaitEngine_mem (e : Entry) : (s.awaitEngine e).1.mem = s.mem := rfl

@[simp] theorem canonical_runXferPort (e : Entry) (grant : Bool) (c : Nat) (da sa x3 : Word) (h : Canonical s.mem) :
    Canonical (s.runXferPort e grant c da sa x3).1.mem := by
  have h1 := canonical_prepXfer e da sa x3 h
  unfold runXferPort
  split <;> rename_i hp <;> rw [hp] at h1
  · exact h1
  · exact h1
  · split
    · exact h1
    · split
      · exact h1
      · simpa using h1

/-- The state that an operation answers has canonical memory. -/
def CanonicalFst (p : State × RunRes) : Prop := Canonical p.1.mem

theorem canonicalFst_ite {c : Prop} [Decidable c] {p q : State × RunRes} (hp : CanonicalFst p) (hq : CanonicalFst q) :
    CanonicalFst (if c then p else q) := by
  split
  · exact hp
  · exact hq

@[simp] theorem canonical_runXferb (e : Entry) (grant : Bool) (kd : Nat) (w : Window) (c : Nat) (km : KField) (h : Canonical s.mem) :
    Canonical (s.runXferb e grant kd w c km).1.mem := by
  suffices CanonicalFst (s.runXferb e grant kd w c km) from this
  unfold runXferb
  refine canonicalFst_ite (canonicalFst_ite h h) ?_
  split
  next da sa x3 ok _ =>
  refine canonicalFst_ite (canonicalFst_ite h h) ?_
  split
  next hp => exact canonical_of_eq (canonical_prepXfer _ _ _ _ h) hp
  next t f hp =>
    have hr : Canonical (t.readMaps e [sa, da]).mem := by
      rw [readMaps_mem]
      exact canonical_of_eq (canonical_prepXfer _ _ _ _ h) hp
    generalize t.readMaps e [sa, da] = r at hr ⊢
    split
    next ag pf _ =>
      have hf := canonical_recordFault t.part ag f.tval pf hr
      exact canonicalFst_ite hf hf
    next => exact canonicalFst_ite hr hr
  next t d r sm dm hp =>
    have ht := canonical_of_eq (canonical_prepXfer _ _ _ _ h) hp
    have hr : Canonical (t.readMaps e [sa, da]).mem := by
      rw [readMaps_mem]
      exact ht
    have hg : Canonical (((t.readMaps e [sa, da]).acceptCmd e c (.xfer d r x3 sm dm) 0).setGrant .transfer t.cur).mem := by
      rw [setGrant_mem, acceptCmd_mem]
      exact hr
    generalize State.setGrant _ _ _ = g at hg ⊢
    generalize t.readMaps e [sa, da] = r at hr ⊢
    exact canonicalFst_ite (canonicalFst_ite hr hr) (canonicalFst_ite ht (canonicalFst_ite hg hg))

@[simp] theorem runXdzPort_mem (e : Entry) (grant : Bool) (c : Nat) (dst hdr prm : Word) :
    (s.runXdzPort e grant c dst hdr prm).1.mem = s.mem := by
  fun_cases runXdzPort <;> simp

@[simp] theorem canonical_runDztabPort (e : Entry) (grant : Bool) (c n : Nat) (addr : Word) (h : Canonical s.mem) :
    Canonical (s.runDztabPort e grant c n addr).1.mem := by
  fun_cases runDztabPort <;> grind [canonical_probeSpan, awaitEngine_mem, setGrant_mem, acceptCmd_mem]

@[simp] theorem canonical_runSendPort (e : Entry) (grant : Bool) (c : Nat) (addr : Word) (quant : Nat) (ef : Bool)
    (h : Canonical s.mem) : Canonical (s.runSendPort e grant c addr quant ef).1.mem := by
  have h1 := canonical_prepSend (s.entryWho e 2) s.holdsWrites addr quant ef h
  unfold runSendPort
  split <;> rename_i hp <;> rw [hp] at h1
  · exact h1
  · exact h1
  · split
    · exact h1
    · split
      · exact h1
      · simpa using h1

@[simp] theorem canonical_runRecvPort (e : Entry) (grant : Bool) (c : Nat) (addr : Word) (add : Bool) (h : Canonical s.mem) :
    Canonical (s.runRecvPort e grant c addr add).1.mem := by
  have h1 := canonical_prepRecv (s.entryWho e 2) s.holdsWrites addr add h
  unfold runRecvPort
  split <;> rename_i hp <;> rw [hp] at h1
  · exact h1
  · exact h1
  · dsimp only; split
    · exact h1
    · split
      · exact h1
      · split <;> simpa using h1

@[simp] theorem addStream_mem (st : Stream) : (s.addStream st).mem = s.mem := rfl

@[simp] theorem canonical_runStream (e : Entry) (grant : Bool) (k : SKind) (q : Nat) (addr : Word) (spec : SSpec) (idx : Word)
    (xd : Nat) (h : Canonical s.mem) : Canonical (s.runStream e grant k q addr spec idx xd).1.mem := by
  fun_cases runStream <;> grind [canonical_readIndices, canonical_grantedSteps, awaitEngine_mem, setGrant_mem, addStream_mem, updCore_mem]

@[simp] theorem canonical_workCmd (c : Cmd) (h : Canonical s.mem) : Canonical (s.workCmd c).mem := by
  fun_cases workCmd <;> simp [h]

@[simp] theorem canonical_grantCmd (c : Cmd) (h : Canonical s.mem) : Canonical (s.grantCmd c).mem := by
  fun_cases grantCmd <;> grind [canonical_rereadLink, setGrant_mem, setCmd_mem, setSlot_mem, startLink_mem]

/-- The grant of one command by its number, as a round gives it. -/
def pumpCmd (s : State) (id : Nat) : State :=
  let s1 := match s.cmds.find? fun c => c.id == id with
    | some c => s.grantCmd c
    | none => s
  match s1.cmds.find? fun c => c.id == id with
  | some c => s1.workCmd c
  | none => s1

theorem pumpCmds_eq : s.pumpCmds = (s.cmds.map (·.id)).foldl pumpCmd s := rfl

@[simp] theorem canonical_pumpCmd (id : Nat) (h : Canonical s.mem) : Canonical (s.pumpCmd id).mem := by
  unfold pumpCmd
  dsimp only
  split <;> split <;> simp [h]

@[simp] theorem canonical_pumpCmds (h : Canonical s.mem) : Canonical s.pumpCmds.mem := by
  rw [pumpCmds_eq]
  exact canonical_foldl _ (fun _ _ => canonical_pumpCmd _) _ _ h

/-! ### Markers and the end of a task -/

@[simp] theorem canonical_runFence (e : Entry) (earlier : List Entry) (kind : Nat) (h : Canonical s.mem) :
    Canonical (s.runFence e earlier kind).1.mem := by
  fun_cases runFence <;> grind [canonical_landBefore, dropOlder_mem]

@[simp] theorem canonical_writeHeader (e : Entry) (t : Task) (ptr : Word) (h : Canonical s.mem) :
    Canonical (s.writeHeader e t ptr).1.mem := by
  fun_cases writeHeader <;> grind [canonical_translate, setLstall_mem, canonical_write]

@[simp] theorem closeInterval_mem (t : Task) (ptr : Word) (isSeal : Bool) : (s.closeInterval t ptr isSeal).mem = s.mem := rfl

@[simp] theorem canonical_runSeal (e : Entry) (earlier : List Entry) (ptr : Word) (h : Canonical s.mem) :
    Canonical (s.runSeal e earlier ptr).1.mem := by
  fun_cases runSeal <;> grind [canonical_landAll, canonical_writeHeader, closeInterval_mem, dropOlder_mem]

@[simp] theorem finishIrrev_mem (n : BitVec 32) : (s.finishIrrev n).mem = s.mem := by simp [finishIrrev]

@[simp] theorem canonical_runIrrev (e : Entry) (earlier : List Entry) (ptr : Word) (h : Canonical s.mem) :
    Canonical (s.runIrrev e earlier ptr).1.mem := by
  fun_cases runIrrev <;> grind [canonical_landAll, canonical_writeHeader, closeInterval_mem, finishIrrev_mem, dropOlder_mem]

@[simp] theorem canonical_pollOne (who : Who) (w : Word × Word) (k : Nat) (h : Canonical s.mem) :
    Canonical (s.pollOne who w k).1.mem := by
  have h1 := canonical_readRun who w.1 8 none h
  fun_cases pollOne <;> simp_all

@[simp] theorem canonical_pollAll (p q i : Nat) (l : List ((Word × Word) × Nat)) (h : Canonical s.mem) :
    Canonical (s.pollAll p q i l).1.mem := by
  fun_induction pollAll <;> simp_all +zetaDelta

@[simp] theorem capDeficit_mem (p cls : Nat) : (s.capDeficit p cls).mem = s.mem := by
  fun_cases capDeficit <;> rfl

@[simp] theorem canonical_waitPoll (p q : Nat) (h : Canonical s.mem) : Canonical (s.waitPoll p q).mem := by
  fun_cases waitPoll <;> simp +zetaDelta [h]

@[simp] theorem canonical_pollDone (h : Canonical s.mem) : Canonical s.pollDone.mem :=
  canonical_foldl _ (fun _ p h => canonical_foldl _ (fun _ q => canonical_waitPoll p q) _ _ h) _ _ h

@[simp] theorem doneFault_mem (t : Task) : (s.doneFault t).mem = s.mem := by simp [doneFault]

@[simp] theorem freeCores_mem (t : Task) : (s.freeCores t).mem = s.mem := modCores_mem _ _ _

@[simp] theorem chargeDeficit_mem (t : Task) : (s.chargeDeficit t).mem = s.mem := capDeficit_mem _ _

@[simp] theorem finishTask_mem (t : Task) : (s.finishTask t).mem = s.mem := by simp [finishTask]

@[simp] theorem canonical_endTask (t : Task) (h : Canonical s.mem) : Canonical (s.endTask t).1.mem := by
  fun_cases endTask <;> grind [canonical_translate, setLstall_mem, canonical_write, canonical_pollDone, finishTask_mem, doneFault_mem,
    meterMem_mem]

@[simp] theorem canonical_retireHalt (h : Canonical s.mem) : Canonical s.retireHalt.1.mem := by
  fun_cases retireHalt <;> simp [h]

@[simp] theorem canonical_runHalt (e : Entry) (earlier : List Entry) (h : Canonical s.mem) :
    Canonical (s.runHalt e earlier).1.mem := by
  fun_cases runHalt <;> grind [canonical_landAll, canonical_retireHalt, dropOlder_mem]

@[simp] theorem startIntervals_mem (n : BitVec 32) : (s.startIntervals n).mem = s.mem := rfl

@[simp] theorem beginTask_mem (n : BitVec 32) : (s.beginTask n).mem = s.mem := by
  fun_cases beginTask <;> simp

@[simp] theorem runGridReset_mem (e : Entry) : (s.runGridReset e).1.mem = s.mem := by
  fun_cases runGridReset <;> simp

@[simp] theorem giveBack_mem (t : Task) : (s.giveBack t).mem = s.mem := rfl

@[simp] theorem canonical_withdraw (h : Canonical s.mem) : Canonical s.withdraw.mem := by
  fun_cases withdraw <;> simp [h]

end State
end Sys2Proof.Machine

end

section
/-! PROOFS. Canonical memory through the grid instruction queue: units of work, departures, drains, the traps of entries and dispatch. -/

namespace Sys2Proof.Machine

open Sys2Proof.Safety

variable {s : State}

namespace State

/-! ### Streams and the update pipe -/

@[simp] theorem canonical_streamStep (q : Nat) (chk : Check) (h : Canonical s.mem) : Canonical (s.streamStep q chk).mem := by
  fun_cases streamStep <;> grind [canonical_readIndices, canonical_formStep, canonical_parkStream, putStream_mem, pushEntry_mem]

@[simp] theorem canonical_fillQueue (q n : Nat) (h : Canonical s.mem) : Canonical (s.fillQueue q n).mem := by
  fun_induction fillQueue <;> simp_all

@[simp] theorem runVecAt_mem (e : Entry) (chk : Check) (op : WOp) (a : WinArgs) : (s.runVecAt e chk op a).1.mem = s.mem := by
  unfold runVecAt
  split
  · rfl
  all_goals
    split
    · rfl
    · dsimp only
      split
      · rfl
      · split <;> rfl

@[simp] theorem runVec_mem (e : Entry) (chk : Check) (op : WOp) (a : WinArgs) : (s.runVec e chk op a).1.mem = s.mem := by
  fun_cases runVec <;> simp

@[simp] theorem runKop_mem (e : Entry) (op : KOp) (d a b : Nat) (x y : Word) : (s.runKop e op d a b x y).1.mem = s.mem := rfl

@[simp] theorem canonical_feed (q : Nat) (h : Canonical s.mem) : Canonical (s.feed q).mem := by
  fun_cases feed <;> simp [h]

@[simp] theorem popEntry_mem (q : Nat) : (s.popEntry q).mem = s.mem := rfl

@[simp] theorem runOfill_mem (e : Entry) (w : Window) (km : KField) (v : Cell) : (s.runOfill e w km v).1.mem = s.mem := by
  fun_cases runOfill <;> simp

/-- The state in which a step looks at its queues: streams have been fed where no operand is the grid's. -/
theorem canonical_feedBoth (ga gb : Bool) (qa qb : Nat) (h : Canonical s.mem) :
    Canonical (if gb then (if ga then s else s.feed qa) else (if ga then s else s.feed qa).feed qb).mem := by
  cases ga <;> cases gb <;> simp [h]

@[simp] theorem canonical_runOacc (e : Entry) (chk : Check) (f : OaccF) (h : Canonical s.mem) :
    Canonical (s.runOacc e chk f).1.mem := by
  have h1 (ga gb : Bool) (qa qb : Nat) := canonical_feedBoth ga gb qa qb h
  unfold runOacc
  dsimp only
  split
  · exact h
  split
  · exact h1 _ _ _ _
  · exact h1 _ _ _ _
  split
  · exact h1 _ _ _ _
  · exact h1 _ _ _ _
  split
  · exact h1 _ _ _ _
  all_goals
    simp only [meter_mem, mem_ite, popEntry_mem, updCore_mem, ite_self]
    simpa only [mem_ite] using h1 (f.aSrc.toNat == 1) (f.bSrc.toNat == 1) (f.aIdx.toNat % 4) (4 + f.bIdx.toNat % 4)

/-! ### One unit of an entry's work -/

@[simp] theorem canonical_runUnit (earlier : List Entry) (grant : Bool) (chk : Check) (e : Entry) (h : Canonical s.mem) :
    Canonical (s.runUnit earlier grant chk e).1.mem := by
  fun_cases runUnit <;> simp [h]

@[simp] theorem canonical_stepEntry (earlier : List Entry) (grant : Bool) (chk : Check) (e : Entry) (h : Canonical s.mem) :
    Canonical (s.stepEntry earlier grant chk e).1.mem := by
  fun_cases stepEntry <;> grind [fetchRows_mem, canonical_runUnit]

@[simp] theorem canonical_runEntry (earlier : List Entry) (grant : Bool) (e : Entry) (n : Nat) (h : Canonical s.mem) :
    Canonical (s.runEntry earlier grant e n).1.mem := by
  fun_induction runEntry <;> grind [canonical_stepEntry]

@[simp] theorem noteRun_mem (i : Nat) (r : RunRes) : (s.noteRun i r).mem = s.mem := by
  cases r <;> rfl

@[simp] theorem canonical_askAhead (h : Canonical s.mem) : Canonical s.askAhead.mem := by
  unfold askAhead
  split
  · exact h
  refine canonical_foldl _ (fun t st ht => ?_) _ _ h
  split
  · exact ht
  refine canonical_foldl _ (fun u p hu => ?_) _ _ ht
  split
  · next hw => exact canonical_of_eq (canonical_translate _ _ _ hu) hw
  · exact hu
  · exact hu

@[simp] theorem canonical_fillAll (h : Canonical s.mem) : Canonical s.fillAll.mem := by
  unfold fillAll
  split
  · exact h
  · exact canonical_askAhead (canonical_foldl _ (fun _ _ => canonical_fillQueue _ _) _ _ h)

@[simp] theorem canonical_runFlight (drain : Bool) (i n : Nat) (h : Canonical s.mem) : Canonical (s.runFlight drain i n).1.mem := by
  fun_induction runFlight <;> grind [canonical_runEntry, noteRun_mem]

@[simp] theorem departHead_mem (drain : Bool) : (s.departHead drain).mem = s.mem := by
  fun_cases departHead <;> simp

@[simp] theorem canonical_pumpGiq (dep drain : Bool) (n : Nat) (h : Canonical s.mem) : Canonical (s.pumpGiq dep drain n).1.mem := by
  fun_induction pumpGiq <;> grind [canonical_fillAll, canonical_runFlight, departHead_mem, updCore_mem]

@[simp] theorem canonical_pumpAll (h : Canonical s.mem) : Canonical s.pumpAll.1.mem := by
  fun_cases pumpAll <;> grind [canonical_pumpCmds, canonical_pumpGiq]

/-! ### Drains and the traps of entries -/

@[simp] theorem canonical_drainRun (dep : Bool) (h : Canonical s.mem) : Canonical (s.drainRun dep).mem := by
  unfold drainRun
  refine canonical_pumpGiq _ _ _ ?_
  dsimp only
  split <;> simp [h]

@[simp] theorem canonicalOut_finishFault (e : Entry) (f : GFault) (h : Canonical s.mem) : CanonicalOut (s.finishFault e f) := by
  unfold finishFault
  extract_lets block s1 src out
  have h1 : Canonical s1.mem := by simpa [s1] using h
  have ho : CanonicalOut out := by
    unfold out
    split <;> simp [h1]
  clear_value out
  cases out <;> simp_all

@[simp] theorem finishAsync_mem (code : Nat) : (s.finishAsync code).mem = s.mem := rfl

@[simp] theorem canonicalOut_drainOn (h : Canonical s.mem) : CanonicalOut s.drainOn := by
  fun_cases drainOn <;> simp +zetaDelta [h]

@[simp] theorem canonicalOut_giqFault (e : Entry) (f : GFault) (h : Canonical s.mem) : CanonicalOut (s.giqFault e f) := by
  unfold giqFault
  dsimp only
  split
  · simpa using h
  · refine canonicalOut_drainOn ?_
    rw [updCore_mem]
    split <;> simp [h]

@[simp] theorem canonicalOut_takeAsync (code : Nat) (h : Canonical s.mem) : CanonicalOut (s.takeAsync code) :=
  canonicalOut_drainOn (by simp [h])

@[simp] theorem canonicalOut_andPump (h : Canonical s.mem) : CanonicalOut s.andPump := by
  have h1 := canonical_pumpAll h
  fun_cases andPump <;> simp_all

/-! ### Dispatch -/

@[simp] theorem reissue_mem (hi : Nat) (block : List Entry) : (s.reissue hi block).mem = s.mem := by
  cases block <;> rfl

@[simp] theorem push_mem (op : GOp) (i : Instr) : (s.push op i).mem = s.mem := rfl

@[simp] theorem canonicalOut_dispatch (op : GOp) (i : Instr) (len : Nat) (h : Canonical s.mem) : CanonicalOut (s.dispatch op i len) :=
  canonicalOut_andPump (by simp [h])

@[simp] theorem canonicalOut_slotB (i : Instr) (rs : List Reg) (len : Nat) (op : Option GOp) (front : Core → Core)
    (h : Canonical s.mem) : CanonicalOut (s.slotB i rs len op front) := by
  fun_cases slotB <;> simp -implicitDefEqProofs [h]

/-! ### The events of the grid side -/

@[simp] theorem canonicalOut_runOldest (p : GOp → Bool) (grant : Bool) (chk : Check) (h : Canonical s.mem) :
    CanonicalOut (s.runOldest p grant chk) := by
  fun_cases runOldest <;> grind [canonical_stepEntry, noteRun_mem, updCore_mem, canonicalOut_next, canonicalOut_giqFault]

@[simp] theorem canonicalOut_runKind (p : GOp → Bool) (h : Canonical s.mem) : CanonicalOut (s.runKind p) :=
  canonicalOut_runOldest _ _ _ h

end State
end Sys2Proof.Machine

end

section
/-! PROOFS. Canonical memory through CSR accesses, returns from traps, markers at issue and enq. -/

namespace Sys2Proof.Machine

open Sys2Proof.Safety

variable {s : State}

namespace State

/-! ### CSRs, traps and markers -/

@[simp] theorem csrPut_mem (n : Nat) (v : Word) : (s.csrPut n v).mem = s.mem := by
  unfold csrPut
  split
  case h_18 => split <;> rfl
  all_goals rfl

@[simp] theorem csrWrite_mem (n : Nat) (v : Word) : (s.csrWrite n v).mem = s.mem := csrPut_mem _ _

@[simp] theorem canonicalOut_csrOp (i : Instr) (d : Reg) (rs : List Reg) (n : Nat) (wr : Option (Word → Word)) (h : Canonical s.mem) :
    CanonicalOut (s.csrOp i d rs n wr) := by
  refine canonicalOut_slotA _ h ?_
  dsimp only
  split
  · exact h
  split
  · exact h
  split
  · simp [h]
  · cases wr <;> simp [h]

@[simp] theorem canonicalOut_trapN (n : Nat) (call : State → State) (hc : ∀ t, Canonical t.mem → Canonical (call t).mem)
    (h : Canonical s.mem) : CanonicalOut (s.trapN n call) := by
  unfold trapN
  split
  · exact h
  split
  · simp [h]
  split
  · exact hc _ (by simpa using h)
  · trivial

@[simp] theorem stopAtTask_mem : s.stopAtTask.mem = s.mem := by
  unfold stopAtTask
  split
  · split
    · split <;> rfl
    all_goals rfl
  · rfl

@[simp] theorem canonicalOut_resumeGrid (h : Canonical s.mem) : CanonicalOut s.resumeGrid := by
  have h1 : Canonical s.stopAtTask.mem := by simpa using h
  unfold resumeGrid
  dsimp only
  split
  · exact h1
  · exact canonicalOut_andPump h1

@[simp] theorem canonicalOut_eretRuntime (h : Canonical s.mem) : CanonicalOut s.eretRuntime :=
  canonicalOut_resumeGrid (by simp [h])

@[simp] theorem canonicalOut_eretFirmware (h : Canonical s.mem) : CanonicalOut s.eretFirmware :=
  canonicalOut_resumeGrid (by simp [h])

@[simp] theorem canonical_killMine (h : Canonical s.mem) : Canonical s.killMine.mem := by
  simp -implicitDefEqProofs [killMine, h]

@[simp] theorem canonicalOut_marker (i : Instr) (op : GOp) (h : Canonical s.mem) : CanonicalOut (s.marker i op) := by
  unfold marker
  split
  · exact h
  · exact canonicalOut_dispatch _ _ _ h

/-- The check of a resume-record pointer answers outcomes and goes on in states with canonical memory. -/
theorem canonical_recordCheck (ptr : Word) (h : Canonical s.mem) :
    Canonical (s.recordCheck ptr).1.mem ∧ ∀ o ∈ (s.recordCheck ptr).2, CanonicalOut o := by
  have h1 := canonical_translate (s.scalarWho false) .store ptr h
  unfold recordCheck
  split
  · simp [h]
  split
  · simp [h]
  split <;> rename_i e <;> have ht := canonical_of_eq h1 e
  · simp [ht]
  · simp [h, ht]
  · split <;> simp [h, ht]

@[simp] theorem canonicalOut_sealing (i : Instr) (ptr : Word) (op : GOp) (h : Canonical s.mem) : CanonicalOut (s.sealing i ptr op) := by
  have h1 := canonical_recordCheck ptr h
  fun_cases sealing <;> simp_all

end State

/-- An instruction of enq: what it does with the stores performed. -/
theorem canonicalOut_execEnq (d a : Reg) (q : BitVec 3) (h : Canonical s.mem) : CanonicalOut (execEnq d a q s) := by
  refine State.canonicalOut_slotA _ h ?_
  have h1 := State.canonical_landAll h
  dsimp only
  split
  · simp [h]
  split
  · simp [h]
  split
  · exact h
  split
  · exact h1
  split
  · simpa using h1
  split <;> simpa using h1

end Sys2Proof.Machine

end

section
/-! PROOFS. Canonical memory through launch records, the scheduler, pre-emption and resumption. -/

namespace Sys2Proof.Machine

open Sys2Proof.Safety

variable {s : State}

namespace State

/-! ### Records and the scheduler -/

@[simp] theorem canonical_ringRead (p q : Nat) (va : Word) (n : Nat) (h : Canonical s.mem) : Canonical (s.ringRead p q va n).1.mem := by
  have h1 := canonical_peekRun (s.queueWho p q 0) va n none h
  unfold ringRead
  split <;> rename_i e <;> exact canonical_of_eq h1 e

@[simp] theorem meterRing_mem (p q : Nat) (va : Word) (n : Nat) : (s.meterRing p q va n).mem = s.mem := meterVirt_mem _ _

@[simp] theorem takeRecord_mem (p q len mask : Nat) (r : RecFields) : (s.takeRecord p q len mask r).mem = s.mem := rfl

@[simp] theorem canonical_recordFetch (p q : Nat) (h : Canonical s.mem) : Canonical (s.recordFetch p q).mem := by
  fun_cases recordFetch <;> grind [canonical_ringRead, haltQueue_mem, meterRing_mem, modQueue_mem, takeRecord_mem, modPart_mem]

@[simp] theorem ageExpiry_mem (p q : Nat) : (s.ageExpiry p q).mem = s.mem := rfl

@[simp] theorem capIdle_mem (cls : Nat) : (s.capIdle cls).mem = s.mem := foldl_mem _ (fun _ _ => capDeficit_mem _ _) _ _

@[simp] theorem pickPart_mem (cls : Nat) (ps : List Nat) : (s.pickPart cls ps).1.mem = s.mem :=
  foldl_mem _ (fun _ _ => by rfl) _ _

@[simp] theorem pick_mem (ts : List Task) (cs : List Cand) : (s.pick ts cs).1.mem = s.mem := by
  fun_cases pick <;> grind [pickPart_mem]

@[simp] theorem canonical_grantRecord (c : Cand) (xs : List Share) (h : Canonical s.mem) : Canonical (s.grantRecord c xs).mem := by
  simp only [grantRecord, capDeficit_mem, modQueue_mem]
  exact canonical_foldl _ (fun _ _ => canonical_zeroSpad _ _) _ _ h

@[simp] theorem canonical_askPlace (c : Cand) (h : Canonical s.mem) : Canonical (s.askPlace c).mem := by
  unfold askPlace
  dsimp only
  split
  · exact h
  · exact canonical_postDuty _ _ _ _ _ _ h

@[simp] theorem dropAnswers_mem : s.dropAnswers.mem = s.mem := rfl

@[simp] theorem useAnswer_mem (c : Cand) : (s.useAnswer c).mem = s.mem := rfl

/-! ### Victims -/

@[simp] theorem canonical_withdrawBehind (id n : Nat) (h : Canonical s.mem) :
    Canonical (if (s.getCore n).prev == some id then s.asCore n withdraw else s).mem := by
  split
  · exact canonical_asCore n (fun _ => canonical_withdraw) h
  · exact h

theorem canonical_stopVictim {id : Nat} {save : List Nat} {t : State} (h : Canonical s.mem) (ht : s.stopVictim id save = some t) :
    Canonical t.mem := by
  unfold stopVictim at ht
  split at ht
  · simp at ht
  dsimp only at ht
  split at ht
  · simp at ht
  next v _ _ fs _ =>
  have h1 : Canonical (v.cores.foldl (fun s n => if (s.getCore n).prev == some id then s.asCore n withdraw else s) s).mem :=
    canonical_foldl _ (fun _ n => canonical_withdrawBehind id n) _ _ h
  cases ht
  rw [modCores_mem, modTask_mem]
  split <;> simpa using h1

theorem canonical_stopAll {plan : List (Nat × Nat)} {vs : List Nat} {t : State} (h : Canonical s.mem) (ht : s.stopAll plan vs = some t) :
    Canonical t.mem := by
  fun_induction stopAll <;> grind [canonical_stopVictim]

theorem canonical_chooseVictims {c : Cand} {vs ids : List Nat} {t : State} (h : Canonical s.mem)
    (ht : s.chooseVictims c vs ids = some t) : Canonical t.mem := by
  fun_induction chooseVictims <;> grind [canonical_stopAll]

@[simp] theorem notice_mem (c : Cand) : (s.notice c).mem = s.mem := setNotices_mem _ _

@[simp] theorem canonical_preemptFor (cs : List Cand) (h : Canonical s.mem) : Canonical (s.preemptFor cs).mem := by
  unfold preemptFor
  split
  · exact h
  split
  · next e =>
    obtain ⟨c, -, hc⟩ := List.exists_of_findSome?_eq_some e
    exact canonical_chooseVictims h hc
  · rwa [foldl_mem _ (fun _ _ => notice_mem _)]

@[simp] theorem endNotices_mem (t : Task) : (s.endNotices t).mem = s.mem := setNotices_mem _ _

@[simp] theorem loadCore_mem (t : Task) (old : Option Nat) (entry : BitVec 32) (n : Nat) : (s.loadCore t old entry n).mem = s.mem := by
  cases old with
  | some id => simp [loadCore]
  | none =>
    unfold loadCore
    rw [asCore_mem n fun _ => beginTask_mem _, modCore_mem]

@[simp] theorem taskDispatch_mem (p q : Nat) : (s.taskDispatch p q).mem = s.mem := by
  unfold taskDispatch
  split
  · dsimp only
    split
    · rfl
    split
    · rfl
    · rw [foldl_mem _ (fun _ _ => loadCore_mem _ _ _ _), endNotices_mem, modTask_mem]
  · rfl

/-! ### The core frame -/

@[simp] theorem canonical_scribble (lo n : Nat) (h : Canonical s.mem) : Canonical (s.scribble lo n).mem :=
  canonical_rawWrite _ _ h

@[simp] theorem canonical_poke8 (pa : Nat) (v : Word) (h : Canonical s.mem) : Canonical (s.poke8 pa v).mem := canonical_rawWrite _ _ h

@[simp] theorem canonical_pokeAll (l : List (Nat × Word)) (h : Canonical s.mem) : Canonical (s.pokeAll l).mem :=
  canonical_foldl _ (fun _ _ => canonical_poke8 _ _) _ _ h

@[simp] theorem canonical_saveHalf (base half : Nat) (h : Canonical s.mem) : Canonical (s.saveHalf base half).mem := by
  refine canonical_foldl _ (fun t r ht => ?_) _ _ (canonical_rawWrite _ _ h)
  dsimp only
  split
  · exact canonical_rawWrite _ _ ht
  · exact ht

@[simp] theorem canonical_saveFrame (fr : Nat) (h : Canonical s.mem) : Canonical (s.saveFrame fr).mem := by
  refine canonical_rawWrite _ _ (canonical_saveHalf _ _ (canonical_saveHalf _ _ (canonical_scribble _ _ (canonical_scribble _ _
    (canonical_scribble _ _ ?_)))))
  refine canonical_foldl _ (fun _ _ => canonical_rawWrite _ _) _ _ (canonical_foldl _ (fun _ _ => canonical_rawWrite _ _) _ _ ?_)
  exact canonical_pokeAll _ h

/-! ### Pre-emption -/

@[simp] theorem canonical_preemptDrain (h : Canonical s.mem) : Canonical s.preemptDrain.mem := by
  unfold preemptDrain
  split
  · split
    · exact h
    · dsimp only
      split <;> simp -implicitDefEqProofs [h]
  · exact h

@[simp] theorem canonical_preemptSave (h : Canonical s.mem) : Canonical s.preemptSave.mem := by
  unfold preemptSave
  split
  · split
    · exact h
    split
    · exact h
    · simp -implicitDefEqProofs [h]
  · exact h

@[simp] theorem canonical_saveSpads (t : Task) (save : List Nat) (h : Canonical s.mem) : Canonical (s.saveSpads t save).mem := by
  simp only [saveSpads, modTask_mem]
  refine canonical_foldl _ (fun _ _ => canonical_zeroSpad _ _) _ _ (canonical_foldl _ (fun u f hu => ?_) _ _ h)
  simp [hu]

@[simp] theorem canonical_freeGang (t : Task) (h : Canonical s.mem) : Canonical (s.freeGang t).mem :=
  canonical_saveSpads _ _ (by simpa using h)

@[simp] theorem canonical_preemptGone (h : Canonical s.mem) : Canonical s.preemptGone.mem := by
  unfold preemptGone
  split
  · exact h
  dsimp only
  split
  · exact canonical_foldl _ (fun _ => canonical_freeGang) _ _ (by simpa using h)
  · exact h

/-! ### Resumption -/

@[simp] theorem restoreCore_mem (t : Task) (v : SavedCore) (fr : Nat) (entry : BitVec 32) :
    (s.restoreCore t v fr entry).mem = s.mem := by
  unfold restoreCore
  extract_lets rd s1 status s2 s3
  have h1 : s1.mem = s.mem := updCore_mem _ _
  have h2 : s2.mem = s.mem := by
    unfold s2
    generalize taskCsrs = l
    clear_value s1
    refine (foldl_mem _ (fun t n => ?_) l s1).trans h1
    split <;> simp
  have h3 : s3.mem = s.mem := by
    unfold s3
    split
    · exact (withdrawArrival_mem).trans h2
    · exact h2
  split
  · rw [reissue_mem, h3]
  · exact h3

@[simp] theorem canonical_putSpad (p : SavedSpad × List TagEnt) (h : Canonical s.mem) : Canonical (s.putSpad p).mem :=
  memoryWf_putSpad p h

@[simp] theorem canonical_resumeTask (t : Task) (h : Canonical s.mem) : Canonical (s.resumeTask t).mem := by
  unfold resumeTask
  extract_lets live entry s1 t1 s2
  have h1 : Canonical s1.mem :=
    canonical_foldl _ (fun u f hu => by simpa using hu) _ _ (canonical_foldl _ (fun _ => canonical_putSpad) _ _ h)
  refine canonical_foldl _ (fun u n hu => ?_) _ _ (show Canonical s2.mem by simpa [s2] using h1)
  split
  · exact canonical_asCore n (fun _ => by simp) hu
  · exact hu

@[simp] theorem choose_mem : s.choose.1.mem = s.mem := pick_mem _ _

theorem capAll_mem : ([0, 1, 2, 3].foldl capIdle s).mem = s.mem := foldl_mem _ (fun _ _ => capIdle_mem _) _ _

@[simp] theorem canonical_reserveAttempt (die : Nat) (h : Canonical s.mem) : Canonical (s.reserveAttempt die).mem := by
  have h1 : Canonical ((s.candidates.foldl askPlace ([0, 1, 2, 3].foldl capIdle s)).choose).1.mem := by
    rw [choose_mem]
    exact canonical_foldl _ (fun _ => canonical_askPlace) _ _ (by rwa [capAll_mem])
  unfold reserveAttempt
  split
  · exact h
  split <;> rename_i e <;> have ht := canonical_of_eq h1 e
  · exact canonical_resumeTask _ ht
  · split
    · exact canonical_grantRecord _ _ ht
    · exact ht
  · exact canonical_preemptFor _ ht

@[simp] theorem canonical_taskResume (id : Nat) (h : Canonical s.mem) : Canonical (s.taskResume id).mem := by
  have h1 : Canonical ([0, 1, 2, 3].foldl capIdle s).choose.1.mem := by rwa [choose_mem, capAll_mem]
  unfold taskResume
  split
  · next e =>
    split
    · exact canonical_resumeTask _ (canonical_of_eq h1 e)
    · exact h
  · exact h
  · exact h

end State
end Sys2Proof.Machine

end

section
/-! PROOFS. Canonical memory through the events of the host, of recovery, of partitions, of the port and of the SPDM responder. -/

namespace Sys2Proof.Machine

open Sys2Proof.Safety

variable {s : State}

namespace State

/-! ### The operations of events -/

@[simp] theorem canonical_writeDesc (part q off : Nat) (v : Word) (h : Canonical s.mem) : Canonical (s.writeDesc part q off v).mem := by
  unfold writeDesc
  split
  · exact h
  · exact canonical_devWrite _ _ _ _ h

@[simp] theorem stallLimit_mem : s.stallLimit.mem = s.mem := by
  unfold stallLimit
  split
  · exact raiseDomainFault_mem _
  · rfl

@[simp] theorem canonical_fenceUnit (u : FencedUnit) (h : Canonical s.mem) : Canonical (s.fenceUnit u).mem := by
  cases u <;> simp only [fenceUnit]
  · split <;> simp -implicitDefEqProofs [h]
  all_goals exact h

@[simp] theorem canonical_managePcb (part off : Nat) (v : Word) (h : Canonical s.mem) : Canonical (s.managePcb part off v).mem := by
  unfold managePcb
  split
  · exact h
  · exact canonical_devWrite _ _ _ _ h

@[simp] theorem canonical_corePcb (off : Nat) (v : Word) (h : Canonical s.mem) : Canonical (s.corePcb off v).mem :=
  canonical_devWrite _ _ _ _ h

@[simp] theorem resetDrain_mem (p : Nat) : (s.resetDrain p).mem = s.mem := by
  unfold resetDrain
  split <;> rfl

@[simp] theorem resetFlush_mem (p : Nat) : (s.resetFlush p).mem = s.mem := by
  unfold resetFlush
  split <;> rfl

@[simp] theorem canonical_releaseUnits (p : Nat) (h : Canonical s.mem) : Canonical (s.releaseUnits p).mem := memoryWf_releaseUnits p h

@[simp] theorem canonical_resetScrub (p : Nat) (h : Canonical s.mem) : Canonical (s.resetScrub p).mem := by
  unfold resetScrub
  extract_lets x qs s1 s2 s3
  have h2 : Canonical s2.mem := canonical_foldl _ (fun _ _ => canonical_zeroSpad _ _) _ _ (by simpa [s1] using h)
  have h3 : Canonical s3.mem := h2
  split
  · rw [dropSealRequests_mem, modPart_mem]
    split
    · exact canonical_releaseUnits _ h3
    · exact h3
  · exact h

@[simp] theorem resetFree_mem (p : Nat) : (s.resetFree p).mem = s.mem := by
  unfold resetFree
  split <;> simp

@[simp] theorem energyPart_mem (die mj total p : Nat) : (energyPart die mj total s p).mem = s.mem := by
  simp [energyPart]

theorem energyParts_mem (die mj total : Nat) (ps : List Nat) (s : State) : (ps.foldl (energyPart die mj total) s).mem = s.mem :=
  foldl_mem (energyPart die mj total) (fun _ p => energyPart_mem die mj total p) ps s

@[simp] theorem apportion_mem (die mj : Nat) : (s.apportion die mj).mem = s.mem := by
  unfold apportion
  extract_lets total s1
  have h1 : s1.mem = s.mem := by
    unfold s1
    generalize List.range 16 = ps
    split
    · rfl
    · exact energyParts_mem die mj total ps s
  clear_value s1
  exact h1

/-- Logging the lines of a host's write leaves memory alone. -/
theorem hostLines_mem (w : Wr) (ls : List Nat) (s : State) :
    (ls.foldl (fun s l => (s.logLine w l).sealThreshold 0 (s.dieOf l) (s.occupancy 0 (s.dieOf l))) s).mem = s.mem := by
  induction ls generalizing s with
  | nil => rfl
  | cons l ls ih => rw [List.foldl_cons, ih, sealThreshold_mem, logLine_mem]

@[simp] theorem canonical_hostAccess (pa : Nat) (acc : HostAcc) (h : Canonical s.mem) : Canonical (s.hostAccess pa acc).mem := by
  unfold hostAccess
  split
  · split
    · exact h
    · exact h
  split
  · dsimp only
    split
    · simpa using h
    · refine canonical_landBytes _ _ ?_
      rwa [hostLines_mem]
  · exact h

@[simp] theorem setting_mem (k : Nat) (v : Word) : (s.setting k v).mem = s.mem := by
  fun_cases setting <;> rfl

@[simp] theorem canonical_createPart (image : List Byte) (p : Nat) (h : Canonical s.mem) : Canonical (createPart image s p).mem := by
  unfold createPart
  split
  · exact h
  · exact canonical_devWrite _ _ _ _ (canonical_foldl _ (fun _ _ => canonical_devWrite _ _ _ _) _ _ (by simpa using h))

theorem canonicalOut_spdmAt (phase : Nat) {f : State → State} (hf : (f s).mem = s.mem) (h : Canonical s.mem) :
    CanonicalOut (s.spdmAt phase f) := by
  unfold spdmAt
  rw [canonicalOut_next]
  split
  · exact h
  split
  · exact h
  · rwa [hf]

theorem canonicalOut_inSession (sid : Nat) {f : State → State} (hf : (f s).mem = s.mem) (h : Canonical s.mem) :
    CanonicalOut (s.inSession sid f) := by
  refine canonicalOut_spdmAt _ ?_ h
  split
  · exact hf
  · rfl

theorem canonical_grantRestarted {kind : EngKind} {t : State} (h : Canonical s.mem) (ht : s.grantRestarted kind = some t) :
    Canonical t.mem := by
  obtain ⟨c, -, hc⟩ := List.exists_of_findSome?_eq_some ht
  dsimp only at hc
  split at hc
  · cases hc
  · cases hc
    exact canonical_grantCmd _ h

@[simp] theorem canonical_mismatchCmd (c : Cmd) (k : Nat) (h : Canonical s.mem) : Canonical (s.mismatchCmd c k).mem := by
  fun_cases mismatchCmd <;> simp +zetaDelta [h]

@[simp] theorem canonicalOut_barAnswer (id cause : Nat) (v : Word) (h : Canonical s.mem) : CanonicalOut (s.barAnswer id cause v) := by
  unfold barAnswer
  extract_lets asked
  split
  · exact h
  split
  · exact h
  split
  · dsimp only
    rw [canonicalOut_next, updCore_mem, noteRun_mem]
    split <;> simp [h]
  · exact canonicalOut_giqFault _ _ h

end State

/-! ### The events -/

theorem canonicalOut_execHostAnswer (part : Nat) (tag value : Word) (h : Canonical s.mem) :
    CanonicalOut (execHostAnswer part tag value s) := by
  unfold execHostAnswer
  split
  · exact h
  · exact State.canonical_devWrite _ _ _ _ (State.canonical_devWrite _ _ _ _ h)

theorem canonicalOut_execInvalidation (part : Nat) (ctl : Word) (h : Canonical s.mem) : CanonicalOut (execInvalidation part ctl s) := by
  unfold execInvalidation
  split
  · exact h
  · exact State.canonical_devWrite _ _ _ _ h

theorem canonicalOut_execDomainFault (cause : Nat) (unit : Option FencedUnit) (h : Canonical s.mem) :
    CanonicalOut (execDomainFault cause unit s) := by
  cases unit <;> simp [execDomainFault, h]

theorem canonicalOut_execDomainFaultReport (dev cause : Nat) (h : Canonical s.mem) :
    CanonicalOut (execDomainFaultReport dev cause s) := by
  unfold execDomainFaultReport
  simp only [canonicalOut_next, mem_ite, State.sendMsg_mem, ite_self]
  exact h

theorem canonicalOut_execRollbackRestore (die : Nat) (h : Canonical s.mem) : CanonicalOut (execRollbackRestore die s) := by
  unfold execRollbackRestore
  rw [canonicalOut_next]
  split
  case h_1 | h_2 => split <;> simp [h]
  all_goals exact h

theorem canonicalOut_execPoison (unit : Nat) (h : Canonical s.mem) : CanonicalOut (execPoison unit s) := by
  unfold execPoison
  rw [canonicalOut_next]
  split
  · exact h
  · split <;> exact h

theorem canonicalOut_execDieFence (die : Nat) (h : Canonical s.mem) : CanonicalOut (execDieFence die s) := by
  unfold execDieFence
  rw [canonicalOut_next]
  split
  · exact h
  · have hk (l : List Nat) : Canonical (l.foldl State.killTask s).mem := canonical_foldl _ (fun _ => State.canonical_killTask) _ _ h
    simpa using hk _

theorem canonicalOut_execRegisterWrite (pa v : Word) (h : Canonical s.mem) : CanonicalOut (execRegisterWrite pa v s) := by
  unfold execRegisterWrite
  rw [canonicalOut_next]
  split
  · exact h
  split
  · simpa using h
  · simp [h]

theorem canonicalOut_execPackageReset (image : List Byte) : CanonicalOut (execPackageReset image s) := by
  unfold execPackageReset
  dsimp only
  rw [canonicalOut_next, State.tell_mem]
  split
  · exact canonical_foldl _ (fun _ => State.canonical_createPart image) _ _ rfl
  · rfl

theorem canonicalOut_execGiqDeparture (h : Canonical s.mem) : CanonicalOut (execGiqDeparture s) := by
  have h1 := State.canonicalOut_runKind GOp.atPort h
  unfold execGiqDeparture
  split
  · next e =>
    rw [e] at h1
    rw [canonicalOut_next] at h1 ⊢
    split <;> simpa using h1
  · exact h1

theorem canonicalOut_execEngineAccept (kind : EngKind) (h : Canonical s.mem) : CanonicalOut (execEngineAccept kind s) := by
  unfold execEngineAccept
  split
  · next e => exact State.canonical_grantRestarted h e
  · exact State.canonicalOut_runOldest _ _ _ h

theorem canonicalOut_execEngineComplete (id : Nat) (h : Canonical s.mem) : CanonicalOut (execEngineComplete id s) := by
  unfold execEngineComplete
  rw [canonicalOut_next]
  split <;> simp [h]

theorem canonicalOut_execEngineRuntimeFault (id : Nat) (chk : Check) (h : Canonical s.mem) :
    CanonicalOut (execEngineRuntimeFault id chk s) := by
  unfold execEngineRuntimeFault
  rw [canonicalOut_next]
  split
  · split
    · exact h
    · cases chk <;> simp [h]
  · exact h

theorem canonicalOut_execBarrierRemoteOp (op : BarOp) (vaddr : Word) (asker : BarFrom) (h : Canonical s.mem) :
    CanonicalOut (execBarrierRemoteOp op vaddr asker s) := by
  cases op <;> simp [execBarrierRemoteOp, h]

theorem canonicalOut_execGiqFaultTrap (h : Canonical s.mem) : CanonicalOut (execGiqFaultTrap s) := by
  unfold execGiqFaultTrap
  dsimp only
  split
  · exact State.canonicalOut_drainOn h
  split
  · exact State.canonicalOut_giqFault _ _ (State.canonical_runFlight _ _ _ h)
  · exact h

theorem canonicalOut_execAsyncTrap (h : Canonical s.mem) : CanonicalOut (execAsyncTrap s) := by
  unfold execAsyncTrap
  split
  · exact State.canonicalOut_drainOn h
  split
  · split <;> simp [h]
  · exact h

theorem canonicalOut_execTimerExpiry (h : Canonical s.mem) : CanonicalOut (execTimerExpiry s) := by
  unfold execTimerExpiry
  split <;> exact h

theorem canonicalOut_execScalarLoadReturn (h : Canonical s.mem) : CanonicalOut (execScalarLoadReturn s) := by
  unfold execScalarLoadReturn
  split
  · exact h
  split
  · exact h
  · exact State.canonicalOut_loadReturn _ _ _ _ _ _ h

theorem canonicalOut_execEret (h : Canonical s.mem) : CanonicalOut (execEret s) := by
  unfold execEret
  split
  · simp [h]
  split
  · exact h
  split <;> simp [h]

theorem canonicalOut_execWfi (h : Canonical s.mem) : CanonicalOut (execWfi s) := by
  unfold execWfi
  split
  · simp [h]
  split <;> exact h

end Sys2Proof.Machine

end

section
/-! PROOFS. Canonical memory through every instruction and event. -/

namespace Sys2Proof.Machine

open Sys2Proof.Safety

variable {s : State}

theorem canonical_ite_of {c : Prop} [Decidable c] {t u : State} (ht : Canonical t.mem) (hu : Canonical u.mem) :
    Canonical (if c then t else u).mem := by
  split
  · exact ht
  · exact hu

theorem canonical_of_mem_eq {t : State} (h : Canonical s.mem) (e : t.mem = s.mem) : Canonical t.mem := by rwa [e]

namespace State

/-! ### The shapes of instructions -/

theorem canonicalOut_branch (taken : Bool) (off : Word) (len : Nat) (h : Canonical s.mem) : CanonicalOut (s.branch taken off len) :=
  canonical_ite_of h h

theorem canonicalOut_branch2 (a b : Reg) (imm : BitVec 12) (f : Word → Word → Bool) (h : Canonical s.mem) :
    CanonicalOut (s.branch2 a b imm f) :=
  canonicalOut_slotA _ h (canonicalOut_branch _ _ _ h)

theorem canonicalOut_loadOp (d a : Reg) (imm : BitVec 12) (n : Nat) (sgn : Bool) (h : Canonical s.mem) :
    CanonicalOut (s.loadOp d a imm n sgn) :=
  canonicalOut_slotA _ h (canonicalOut_load _ _ _ _ _ h)

theorem canonicalOut_storeOp (b a : Reg) (imm : BitVec 12) (n : Nat) (h : Canonical s.mem) : CanonicalOut (s.storeOp b a imm n) :=
  canonicalOut_slotA _ h (canonicalOut_store _ _ _ _ h)

theorem canonicalOut_fps (i : Instr) (f : FpsF) (fn : FpsFn) (h : Canonical s.mem) : CanonicalOut (s.fps i f fn) := by
  refine canonicalOut_slotA _ h ?_
  split
  · exact canonicalOut_illegal _ h
  · exact h

theorem canonicalOut_fpsExact (f : FpsF) (fn : Word → Word → Word × Fl) (h : Canonical s.mem) : CanonicalOut (s.fpsExact f fn) :=
  canonicalOut_slotA _ h h

theorem canonicalOut_windowOp (i : Instr) (op : WOp) (rs : List Reg) (ty : BitVec 4) (args : Option WinArgs) (h : Canonical s.mem) :
    CanonicalOut (s.windowOp i op rs ty args) := by
  unfold windowOp
  split
  · exact canonicalOut_slotA _ h (canonicalOut_illegal _ h)
  · exact canonicalOut_slotB _ _ _ _ _ h

end State

theorem canonicalOut_execVcvt (f : VUn) (src : BitVec 5) (h : Canonical s.mem) : CanonicalOut (execVcvt f src s) := by
  unfold execVcvt
  split
  · exact State.canonicalOut_windowOp _ _ _ _ _ h
  · exact State.canonicalOut_illegal _ h

theorem canonicalOut_execWset (f : WsetF) (h : Canonical s.mem) : CanonicalOut (execWset f s) := by
  unfold execWset
  exact State.canonicalOut_slotB _ _ _ _ _ h

theorem canonicalOut_execSealq (d : Reg) (h : Canonical s.mem) : CanonicalOut (execSealq d s) := by
  unfold execSealq
  split
  · exact State.canonicalOut_illegal _ h
  · exact State.canonicalOut_slotAWrite _ _ _ _ h

theorem canonicalOut_execHalt (h : Canonical s.mem) : CanonicalOut (execHalt s) := by
  unfold execHalt
  split
  · exact h
  · exact State.canonicalOut_dispatch _ _ _ h

/-- The answers of requests that depend on the session or on what the requester offers. -/
theorem canonicalOut_execNegotiateAlgorithms (offered : Bool) (h : Canonical s.mem) : CanonicalOut (execNegotiateAlgorithms offered s) := by
  refine State.canonicalOut_spdmAt _ ?_ h
  split <;> rfl

theorem canonicalOut_execGetCertificate (slot : Nat) (h : Canonical s.mem) : CanonicalOut (execGetCertificate slot s) := by
  refine State.canonicalOut_spdmAt _ ?_ h
  split <;> rfl

theorem canonicalOut_execKeyExchange (nonce : List Byte) (h : Canonical s.mem) : CanonicalOut (execKeyExchange nonce s) := by
  refine State.canonicalOut_spdmAt _ ?_ h
  split <;> rfl

theorem canonicalOut_execFinish (session : Nat) (mac : List Byte) (h : Canonical s.mem) : CanonicalOut (execFinish session mac s) := by
  refine State.canonicalOut_spdmAt _ ?_ h
  split
  · rfl
  · dsimp only
    split <;> rfl

/-- Every instruction and event keeps the canonical form. -/
theorem canonicalOut_exec (i : Instr) (h : Canonical s.mem) : CanonicalOut (exec i s) := by
  cases i with
  | add | sub | and | or | xor | andn | orn | shl | shr | sra | rotl | rotr | slt | sltn | min | max | minn | maxn | clmul |
    clmulh | mul | mulh | mulhn | mulhsn | div | divn | rem | remn | clz | ctz | popc | addi | andi | ori | xori | shli | shri |
    srai | slti | sltni | lhi | pcrel | hAddi | hMv =>
    unfold exec
    exact State.canonicalOut_slotAWrite _ _ _ _ h
  | fadd | fsub | fmul | fdiv | fsqrt | fma | fcvti | fcvtn | fcvtfi | fcvtfn | fcvtp =>
    unfold exec
    exact State.canonicalOut_fps _ _ _ h
  | fmin | fmax | fneg | fabs | feq | flt | fle | fclass =>
    unfold exec
    exact State.canonicalOut_fpsExact _ _ h
  | jal | jalr =>
    unfold exec
    exact State.canonicalOut_slotA _ h h
  | beq | bne | blt | bge | bltn | bgen =>
    unfold exec
    exact State.canonicalOut_branch2 _ _ _ _ h
  | hBz | hBnz =>
    unfold exec
    exact State.canonicalOut_slotA _ h (State.canonicalOut_branch _ _ _ h)
  | hJ =>
    unfold exec
    exact State.canonicalOut_branch _ _ _ h
  | ldb | ldh | ldw | ldd | ldbn | ldhn | ldwn =>
    unfold exec
    exact State.canonicalOut_loadOp _ _ _ _ _ h
  | hLdd =>
    unfold exec
    exact State.canonicalOut_slotA _ h (State.canonicalOut_load _ _ _ _ _ h)
  | stb | sth | stw | std =>
    unfold exec
    exact State.canonicalOut_storeOp _ _ _ _ h
  | hStd =>
    unfold exec
    exact State.canonicalOut_slotA _ h (State.canonicalOut_store _ _ _ _ h)
  | amoadd | amoand | amoor | amoxor | amomin | amomax | amominn | amomaxn | amoswap =>
    unfold exec
    exact State.canonicalOut_amoRmw _ _ h
  | cas | lr | sc =>
    unfold exec
    exact State.canonicalOut_amoAccess _ h fun _ _ ht => State.canonicalOut_amoFinish _ _ _ _ _ ht
  | fenceSv | fenceVs | fenceVv | fenceAll =>
    unfold exec
    exact State.canonicalOut_marker _ _ h
  | irrev =>
    unfold exec
    exact State.canonicalOut_sealing _ _ _ h
  | sealq =>
    unfold exec
    exact canonicalOut_execSealq _ h
  | halt =>
    unfold exec
    exact canonicalOut_execHalt h
  | enq =>
    unfold exec
    exact canonicalOut_execEnq _ _ _ h
  | trap =>
    unfold exec
    exact State.canonicalOut_trapN _ _ (fun _ ht => ht) h
  | trapRollback =>
    unfold exec
    exact State.canonicalOut_trapN _ _ (fun _ ht => canonical_of_mem_eq ht (State.raiseDomainFault_mem _)) h
  | trapKill =>
    unfold exec
    exact State.canonicalOut_trapN _ _ (fun _ => State.canonical_killMine) h
  | eret =>
    unfold exec
    exact canonicalOut_execEret h
  | wfi =>
    unfold exec
    exact canonicalOut_execWfi h
  | csrr | csrw | csrs | csrc =>
    unfold exec
    exact State.canonicalOut_csrOp _ _ _ _ _ h
  | timecmpWrite | giqsaveWrite =>
    unfold exec
    exact canonical_of_mem_eq h (State.csrWrite_mem _ _)
  | vadd | vsub | vmul | vfma | vfms | vmin | vmax | vand | vor | vxor | vshl | vshr | vsra | vsel | vclamp | vscale2 | vclmul |
    vclmulh | vcpsgn | vslide | vabs | vneg | vrsum | vrmax | vrmin | vrsumsq | vcsum | vcmax | vcmin | vmov | vcompress | vrcp |
    vsqrt | vrsqrt | vexp2 | vlog2 | vcmpEq | vcmpNe | vcmpLt | vcmpLe | vcmpGt | vcmpGe | vcmpUnord | vcmpOrd | vquant | vdequant
    | vround | viota | vrowi | vmovOp2 | vperm | vext =>
    unfold exec
    exact State.canonicalOut_windowOp _ _ _ _ _ h
  | vcvt =>
    unfold exec
    exact canonicalOut_execVcvt _ _ h
  | wset =>
    unfold exec
    exact canonicalOut_execWset _ h
  | kbound | kand | kor | kxor | kandn | knot | kmov | kpop | kfirst | kset | kgetl | kgeth | kzero | kone | qld | qldt | qldff |
    qldx | qldz | gld | gst | gldff | gldx | gstx | gstxo | xfer | xferb | xdz | dztab | sendRaw | sendQ8 | sendQ8w | sendQ4 |
    recv | recvAdd | cinc | cwait | cset | crd | ipost | iwait | barInit | barArrive | barArriveRlx | barWait | ascat | amerge |
    arel | slook | sins | sinv | hCwait | wrd | ofill | gcopy | gtrans | gsave | grest | oacc | awin =>
    unfold exec
    exact State.canonicalOut_slotB _ _ _ _ _ h
  | fenceRetire | sealRetire | irrevRetire | haltRetire | gridResetEntry | cwaitSatisfied | ipostApply | iwaitSatisfied |
    barWaitSatisfied | windowPipeVector | oaccStep =>
    unfold exec
    exact State.canonicalOut_runOldest _ _ _ h
  | streamStep =>
    unfold exec
    exact State.canonical_askAhead (canonical_of_mem_eq (State.canonical_streamStep _ _ h) (State.updCore_mem _ _))
  | giqDeparture =>
    unfold exec
    exact canonicalOut_execGiqDeparture h
  | engineAccept =>
    unfold exec
    exact canonicalOut_execEngineAccept _ h
  | engineComplete =>
    unfold exec
    exact canonicalOut_execEngineComplete _ h
  | engineRuntimeFault =>
    unfold exec
    exact canonicalOut_execEngineRuntimeFault _ _ h
  | barrierRemoteOp =>
    unfold exec
    exact canonicalOut_execBarrierRemoteOp _ _ _ h
  | giqFaultTrap =>
    unfold exec
    exact canonicalOut_execGiqFaultTrap h
  | asyncTrap =>
    unfold exec
    exact canonicalOut_execAsyncTrap h
  | timerExpiry =>
    unfold exec
    exact canonicalOut_execTimerExpiry h
  | scalarLoadReturn =>
    unfold exec
    exact canonicalOut_execScalarLoadReturn h
  | hostAnswer =>
    unfold exec
    exact canonicalOut_execHostAnswer _ _ _ h
  | invalidation =>
    unfold exec
    exact canonicalOut_execInvalidation _ _ h
  | domainFault =>
    unfold exec
    exact canonicalOut_execDomainFault _ _ h
  | domainFaultReport =>
    unfold exec
    exact canonicalOut_execDomainFaultReport _ 0 h
  | rollbackRestore =>
    unfold exec
    exact canonicalOut_execRollbackRestore _ h
  | poison =>
    unfold exec
    exact canonicalOut_execPoison _ h
  | dieFence =>
    unfold exec
    exact canonicalOut_execDieFence _ h
  | registerWrite =>
    unfold exec
    exact canonicalOut_execRegisterWrite _ _ h
  | packageReset =>
    unfold exec
    exact canonicalOut_execPackageReset _
  | negotiateAlgorithms =>
    unfold exec
    exact canonicalOut_execNegotiateAlgorithms _ h
  | getCertificate =>
    unfold exec
    exact canonicalOut_execGetCertificate _ h
  | keyExchange =>
    unfold exec
    exact canonicalOut_execKeyExchange _ h
  | finish =>
    unfold exec
    exact canonicalOut_execFinish _ _ h
  | getVersion | getCapabilities | getDigests | challenge | getMeasurements =>
    unfold exec
    exact State.canonicalOut_spdmAt _ rfl h
  | heartbeat | keyUpdate | endSession =>
    unfold exec
    exact State.canonicalOut_inSession _ rfl h
  | queueEnable | queueDestroy | tailWrite =>
    unfold exec
    exact State.canonical_writeDesc _ _ _ _ h
  | msgbell | mreset | partitionReset | partitionTeardown =>
    unfold exec
    exact State.canonical_managePcb _ _ _ h
  | msgack | outbell =>
    unfold exec
    exact State.canonical_corePcb _ _ h
  | recordFetch =>
    unfold exec
    exact State.canonical_recordFetch _ _ h
  | waitPoll =>
    unfold exec
    exact State.canonical_waitPoll _ _ h
  | reserveAttempt =>
    unfold exec
    exact State.canonical_reserveAttempt _ h
  | preemptDrain =>
    unfold exec
    exact State.canonical_preemptDrain h
  | preemptSave =>
    unfold exec
    exact State.canonical_preemptSave h
  | preemptGone =>
    unfold exec
    exact State.canonical_preemptGone h
  | taskResume =>
    unfold exec
    exact State.canonical_taskResume _ h
  | rollback =>
    unfold exec
    exact State.canonical_enterStop _ h
  | flitTransmit =>
    unfold exec
    exact State.canonical_transmit _ h
  | flitReceive =>
    unfold exec
    exact State.canonical_receive _ h
  | credit =>
    unfold exec
    exact State.canonical_takeCredit _ _ h
  | cancelNotice =>
    unfold exec
    exact State.canonical_cancelNotice _ h
  | resetScrub =>
    unfold exec
    exact State.canonical_resetScrub _ h
  | absentRowFetch =>
    unfold exec
    exact canonical_ite_of (canonical_of_mem_eq h (State.fetchRow_mem _ _ _)) h
  | pageWalk =>
    unfold exec
    exact canonical_ite_of (State.canonical_pageWalk _ h) h
  | invalidationComplete =>
    unfold exec
    exact canonical_ite_of h (canonical_of_mem_eq h (State.finishInv_mem _))
  | kill =>
    unfold exec
    exact canonical_ite_of h (State.canonical_killTask _ h)
  | arrive =>
    unfold exec
    exact canonical_ite_of (canonical_of_mem_eq h (State.tryCommit_mem.trans (State.takeArrive_mem _ _ _))) h
  | commit =>
    unfold exec
    exact canonical_ite_of (State.canonical_applyCommit _ h) h
  | rollbackClean =>
    unfold exec
    exact canonical_ite_of (State.canonical_cleanDomain h) h
  | rollbackReport =>
    unfold exec
    exact canonical_ite_of (canonical_of_mem_eq h (State.tryResume_mem.trans State.reportDomain_mem)) h
  | rollbackDone =>
    unfold exec
    exact canonical_ite_of (canonical_of_mem_eq h State.tryResume_mem) h
  | resume =>
    unfold exec
    exact canonical_ite_of h h
  | laneSparing =>
    unfold exec
    exact canonical_ite_of h h
  | linkLost =>
    unfold exec
    exact canonical_ite_of (canonical_of_mem_eq h (State.linkLost_mem _)) h
  | hostMemAccess =>
    unfold exec
    exact canonical_ite_of (State.canonical_hostAccess _ _ h) h
  | reserveAgeExpiry =>
    unfold exec
    exact canonical_of_mem_eq h (State.ageExpiry_mem _ _)
  | taskDispatch =>
    unfold exec
    exact canonical_of_mem_eq h (State.taskDispatch_mem _ _)
  | sealAgentArrive =>
    unfold exec
    exact canonical_of_mem_eq h (State.sealAgentArrive_mem _ _)
  | replayRequest =>
    unfold exec
    exact canonical_of_mem_eq h (State.replay_mem _ _)
  | linkRetrain =>
    unfold exec
    exact canonical_of_mem_eq h (State.retrain_mem _)
  | linkUp =>
    unfold exec
    exact canonical_of_mem_eq h (State.linkUp_mem _ _)
  | retrainStart =>
    unfold exec
    exact canonical_of_mem_eq h (State.retrainStart_mem _)
  | resetDrain =>
    unfold exec
    exact canonical_of_mem_eq h (State.resetDrain_mem _)
  | resetFlush =>
    unfold exec
    exact canonical_of_mem_eq h (State.resetFlush_mem _)
  | resetFree =>
    unfold exec
    exact canonical_of_mem_eq h (State.resetFree_mem _)
  | energyApportion =>
    unfold exec
    exact canonical_of_mem_eq h (State.apportion_mem _ _)
  | logStallTimeout | holdStallTimeout =>
    unfold exec
    exact canonical_of_mem_eq h State.stallLimit_mem
  | _ =>
    -- What is left is the seal instruction (R312), whose name is a keyword of Lean and cannot stand as a case.
    unfold exec
    exact State.canonicalOut_slotA _ h (State.canonicalOut_sealing _ _ _ h)

end Sys2Proof.Machine

end

section
/-! PROOFS. Canonical memory through one step of the package (O60). -/

namespace Sys2Proof.Machine

open Sys2Proof.Safety

variable {s : State}

namespace State

/-! ### One step of the package -/

@[simp] theorem canonical_fetchHalves (va : Word) (n : Nat) (h : Canonical s.mem) : Canonical (s.fetchHalves va n).1.mem := by
  fun_induction fetchHalves <;> grind [canonical_translate]

@[simp] theorem countFetch_mem (n : Nat) : (s.countFetch n).mem = s.mem := by
  unfold countFetch
  split
  · rfl
  · exact foldl_mem _ (fun t i => by split <;> simp) _ _

@[simp] theorem canonical_fetch (h : Canonical s.mem) : Canonical s.fetch.1.mem := by
  fun_cases fetch <;> grind [canonical_fetchHalves, countFetch_mem]

theorem canonicalOut_trapFetch {f : State → Out} (h : Canonical s.mem) (hf : CanonicalOut (f s)) : CanonicalOut (s.trapFetch f) := by
  unfold trapFetch
  split
  · exact hf
  · exact h

@[simp] theorem canonicalOut_runChecked (i : Instr) (h : Canonical s.mem) : CanonicalOut (s.runChecked i) := by
  have h1 := canonicalOut_exec i h
  unfold runChecked
  split
  · exact canonicalOut_trapFetch h (canonicalOut_machineCheck _ _ _ _ _ _ _ _ h)
  · split
    · next e =>
      rw [e] at h1
      split <;> exact h1
    · exact h1
  · exact h1

@[simp] theorem canonicalOut_runBytes (bs : List Byte) (h : Canonical s.mem) : CanonicalOut (s.runBytes bs) := by
  unfold runBytes
  split
  · exact canonicalOut_runChecked _ h
  · exact canonicalOut_trapFetch h (canonicalOut_trap _ _ h)
  · exact h

@[simp] theorem canonicalOut_fetchRun (h : Canonical s.mem) : CanonicalOut s.fetchRun := by
  have h1 := canonical_fetch h
  unfold fetchRun
  split <;> rename_i e <;> have ht := canonical_of_eq h1 e
  · exact ht
  · split
    · exact canonicalOut_trapPage _ _ _ ht
    · exact h
  · exact canonicalOut_trapFetch ht (canonicalOut_trap _ _ ht)
  · exact canonicalOut_runBytes _ ht

@[simp] theorem canonicalOut_issue (h : Canonical s.mem) : CanonicalOut s.issue := by
  fun_cases issue <;> simp [h]

@[simp] theorem canonical_landSome (h : Canonical s.mem) : Canonical s.landSome.mem := by
  fun_cases landSome <;> simp -implicitDefEqProofs [h]

@[simp] theorem canonicalOut_coreStep (h : Canonical s.mem) : CanonicalOut s.coreStep := by
  have h1 := canonical_landSome h
  have h2 := canonical_pumpAll h1
  unfold coreStep
  dsimp only
  split
  case h_1 | h_2 =>
    split
    · exact canonicalOut_drainOn h1
    · split <;> rename_i e <;> have ht := canonical_of_eq h2 e
      · exact canonicalOut_giqFault _ _ ht
      · split <;> simp [ht]
  all_goals exact h

@[simp] theorem canonicalOut_agendaStep (n : Nat) (i : Option Instr) (h : Canonical s.mem) : CanonicalOut (s.agendaStep n i) := by
  unfold agendaStep
  extract_lets s1
  have h1 : Canonical s1.mem := by
    unfold s1
    split
    · simpa using h
    · exact h
  split
  · exact canonicalOut_coreStep h1
  · split
    · exact canonicalOut_exec _ h1
    · exact h1

end State

theorem canonicalOut_step (h : Canonical s.mem) : CanonicalOut (step s) := by
  have h1 : Canonical s.tick.mem := by rwa [State.tick_mem]
  unfold step
  dsimp only
  split
  · exact State.canonicalOut_coreStep h1
  · exact State.canonicalOut_agendaStep _ _ h1

/-- Settles O60: every operation that writes memory writes it by `Sp.put` or drops bytes, both of which keep the canonical form, and a
step is made of such operations. -/
theorem stepKeepsMemoryWf : Obligations.StepKeepsMemoryWf := by
  intro s t h ht
  have h1 := canonicalOut_step h
  rwa [ht] at h1

end Sys2Proof.Machine

end

section
/-! PROOFS. What a CSR write changes (O12). -/

namespace Sys2Proof.Machine

open Sys2Proof.Safety

variable {s : State}

theorem blend_zero (old v : Word) : blend 0 old v = old := by
  apply BitVec.eq_of_getLsbD_eq
  intro i hi
  rw [getLsbD_blend _ _ _ _ hi]
  simp

theorem blend_allOnes (old v : Word) : blend (BitVec.allOnes 64) old v = v := by
  apply BitVec.eq_of_getLsbD_eq
  intro i hi
  rw [getLsbD_blend _ _ _ _ hi, BitVec.getLsbD_allOnes, if_pos (by simpa using hi)]

/-! ### Registers that hold their bits -/

/-- The CSRs that hold what a write leaves in them, but for STATUS. -/
def storedCsrs : List Nat :=
  [0x001, 0x002, 0x003, 0x004, 0x005, 0x006, 0x007, 0x008, 0x009, 0x00A, 0x010, 0x011, 0x012, 0x013, 0x014, 0x015, 0x053]

/-- The CSRs whose fields are all read-only (R328). -/
def readOnlyCsrs : List Nat := [0x020, 0x021, 0x022, 0x023, 0x024]

namespace State

/-- A stored register reads what was put there. -/
theorem csrRead_csrPut {n : Nat} (hn : n ∈ storedCsrs) (v : Word) : (s.csrPut n v).csrRead n = v := by
  unfold storedCsrs at hn
  fin_cases hn <;> rfl

theorem csrPut_regs {n : Nat} (hn : n ∈ storedCsrs) (v : Word) : (s.csrPut n v).core.regs = s.core.regs := by
  unfold storedCsrs at hn
  fin_cases hn <;> rfl

theorem csrPut_status {n : Nat} (hn : n ∈ storedCsrs) (v : Word) : (s.csrPut n v).core.status = s.core.status := by
  unfold storedCsrs at hn
  fin_cases hn <;> rfl

/-- A write of a read-only register does nothing. -/
theorem csrWrite_readOnly {n : Nat} (hn : n ∈ readOnlyCsrs) (v : Word) : s.csrWrite n v = s := by
  unfold readOnlyCsrs at hn
  fin_cases hn <;> rfl

theorem csrMask_readOnly {n : Nat} (hn : n ∈ readOnlyCsrs) : csrMask n = 0 := by
  unfold readOnlyCsrs at hn
  fin_cases hn <;> rfl

theorem csrRead_csrWrite {n : Nat} (hn : n ∈ storedCsrs ∨ n ∈ readOnlyCsrs) (v : Word) :
    (s.csrWrite n v).csrRead n = blend (csrMask n) (s.csrRead n) v := by
  rcases hn with hn | hn
  · exact csrRead_csrPut hn _
  · rw [csrWrite_readOnly hn, csrMask_readOnly hn, blend_zero]

theorem csrWrite_regs {n : Nat} (hn : n ∈ storedCsrs ∨ n ∈ readOnlyCsrs) (v : Word) :
    (s.csrWrite n v).core.regs = s.core.regs := by
  rcases hn with hn | hn
  · exact csrPut_regs hn _
  · rw [csrWrite_readOnly hn]

theorem csrWrite_status {n : Nat} (hn : n ∈ storedCsrs ∨ n ∈ readOnlyCsrs) (v : Word) :
    (s.csrWrite n v).core.status = s.core.status := by
  rcases hn with hn | hn
  · exact csrPut_status hn _
  · rw [csrWrite_readOnly hn]

/-! ### STATUS (R102) -/

theorem csrWrite_zero_status (v : Word) : (s.csrWrite 0x000 v).core.status = statusWrite s.pl s.core.status v := by
  have hb : blend (csrMask 0x000) (s.csrRead 0x000) v = v := blend_allOnes _ v
  rw [csrWrite, hb]
  rfl

end State

/-- The bits of STATUS that a write at a level copies, but for PPL. -/
def statusMask (pl : Nat) : Word := 0x3_7700 ||| (if 1 ≤ pl then 0x30 else 0)

theorem getLsbD_statusMask (pl i : Nat) :
    (statusMask pl).getLsbD i = (decide (i ∈ [8, 9, 10, 12, 13, 14, 16, 17]) || decide (1 ≤ pl) && decide (i ∈ [4, 5])) := by
  have h1 : (statusMask pl).getLsbD i = ((0x3_7700 : Word).getLsbD i || decide (1 ≤ pl) && (0x30 : Word).getLsbD i) := by
    rw [statusMask, BitVec.getLsbD_or]
    by_cases h : 1 ≤ pl
    · rw [if_pos h, decide_eq_true h, Bool.true_and]
    · simp [h]
  have h2 : ∀ j < 64, (0x3_7700 : Word).getLsbD j = decide (j ∈ [8, 9, 10, 12, 13, 14, 16, 17]) := by decide
  have h3 : ∀ j < 64, (0x30 : Word).getLsbD j = decide (j ∈ [4, 5]) := by decide
  rw [h1]
  by_cases hi : i < 64
  · rw [h2 i hi, h3 i hi]
  · rw [BitVec.getLsbD_of_ge _ _ (by omega), BitVec.getLsbD_of_ge _ _ (by omega)]
    simp
    omega

theorem statusWrite_eq (pl : Nat) (old v : Word) :
    statusWrite pl old v = if 1 ≤ pl ∧ fieldNat v 2 2 < 2 then setField (blend (statusMask pl) old v) 2 2 (fieldNat v 2 2)
      else blend (statusMask pl) old v := by
  unfold statusWrite statusMask
  simp

/-- Outside PPL a write copies the bits of the mask and keeps the others. -/
theorem getLsbD_statusWrite (pl : Nat) (old v : Word) {i : Nat} (hi : i < 64) (h : i < 2 ∨ 4 ≤ i) :
    (statusWrite pl old v).getLsbD i = if (statusMask pl).getLsbD i then v.getLsbD i else old.getLsbD i := by
  rw [statusWrite_eq]
  split
  · rw [getLsbD_setField _ _ (by decide) hi, if_neg (by omega), getLsbD_blend _ _ _ _ hi]
  · rw [getLsbD_blend _ _ _ _ hi]

/-- The rounding and flush fields are written at every level. -/
theorem getLsbD_statusWrite_rounding (pl : Nat) (old v : Word) {i : Nat} (hi : i ∈ [8, 9, 10, 12, 13, 14, 16, 17]) :
    (statusWrite pl old v).getLsbD i = v.getLsbD i := by
  have hb : 8 ≤ i ∧ i < 18 := by simp at hi; omega
  rw [getLsbD_statusWrite _ _ _ (by omega) (by omega), getLsbD_statusMask, decide_eq_true hi]
  rfl

/-- PIE and IE are written above task level. -/
theorem getLsbD_statusWrite_enables (pl : Nat) (old v : Word) {i : Nat} (hi : i ∈ [4, 5]) :
    (statusWrite pl old v).getLsbD i = if 1 ≤ pl then v.getLsbD i else old.getLsbD i := by
  have hb : 4 ≤ i ∧ i < 6 := by simp at hi; omega
  have hn : i ∉ [8, 9, 10, 12, 13, 14, 16, 17] := by simp; omega
  rw [getLsbD_statusWrite _ _ _ (by omega) (by omega), getLsbD_statusMask, decide_eq_true hi, decide_eq_false hn]
  simp

/-- PL and the reserved bits stay. -/
theorem getLsbD_statusWrite_kept (pl : Nat) (old v : Word) {i : Nat} (hi : i ∈ [0, 1, 6, 7, 11, 15] ∨ 18 ≤ i) :
    (statusWrite pl old v).getLsbD i = old.getLsbD i := by
  by_cases h64 : i < 64
  · have hb : i < 2 ∨ 4 ≤ i := by simp at hi; omega
    have hm : (statusMask pl).getLsbD i = false := by
      rw [getLsbD_statusMask]
      simp at hi ⊢
      omega
    rw [getLsbD_statusWrite _ _ _ h64 hb, hm]
    rfl
  · rw [BitVec.getLsbD_of_ge _ _ (by omega), BitVec.getLsbD_of_ge _ _ (by omega)]

theorem fieldNat_blend_statusMask (pl : Nat) (old v : Word) : fieldNat (blend (statusMask pl) old v) 2 2 = fieldNat old 2 2 := by
  apply Nat.eq_of_testBit_eq
  intro i
  rw [testBit_fieldNat, testBit_fieldNat]
  by_cases hi : i < 2
  · rw [getLsbD_blend _ _ _ _ (by omega), getLsbD_statusMask, if_neg (by simp; omega)]
  · simp [hi]

theorem fieldNat_statusWrite (pl : Nat) (old v : Word) :
    fieldNat (statusWrite pl old v) 2 2 = if 1 ≤ pl ∧ fieldNat v 2 2 < 2 then fieldNat v 2 2 else fieldNat old 2 2 := by
  rw [statusWrite_eq]
  split
  · rw [fieldNat_setField _ _ (by decide)]
    exact Nat.mod_eq_of_lt (fieldNat_lt v 2 2)
  · exact fieldNat_blend_statusMask pl old v

/-! ### The obligation -/

/-- The registers, other than STATUS, whose layouts the statement gives. -/
def rowCsrs : List Nat :=
  [0x001, 0x002, 0x003, 0x004, 0x005, 0x006, 0x007, 0x008, 0x009, 0x00A, 0x010, 0x011, 0x012, 0x013, 0x014, 0x015,
    0x020, 0x021, 0x022, 0x023, 0x024, 0x053]

theorem rowCsrs_stored_or_readOnly : ∀ n ∈ rowCsrs, n ∈ storedCsrs ∨ n ∈ readOnlyCsrs := by decide

/-- A row of these registers with the masks that the model writes them by. -/
theorem row_eq_csrMask {n : Nat} {m : Word} (h : (n, m) ∈ rowCsrs.map fun n => (n, csrMask n)) : n ∈ rowCsrs ∧ csrMask n = m := by
  obtain ⟨k, hk, e⟩ := List.mem_map.mp h
  cases e
  exact ⟨hk, rfl⟩

/-- Settles O12: a stored register reads the blend that was put into it, a read-only one is not written, and STATUS is blended by the mask of
the writer's level before PPL is set. -/
theorem csrWritesChangeTheirFields : Obligations.CsrWritesChangeTheirFields := by
  refine ⟨fun s n m v h => ?_, fun s v => ?_⟩
  · obtain ⟨hr, rfl⟩ := row_eq_csrMask h
    have hn := rowCsrs_stored_or_readOnly n hr
    exact ⟨State.csrRead_csrWrite hn v, State.csrWrite_mem n v, State.csrWrite_regs hn v, State.csrWrite_status hn v⟩
  · dsimp only
    rw [State.csrWrite_zero_status]
    exact ⟨fun _ => getLsbD_statusWrite_rounding _ _ _, fun _ => getLsbD_statusWrite_enables _ _ _, fieldNat_statusWrite _ _ _,
      fun _ => getLsbD_statusWrite_kept _ _ _⟩

end Sys2Proof.Machine

end

section
/-! PROOFS. Dispatch: one entry or a stall, the markers, the mask instructions and the tile forms (O17, O15, O18). -/

namespace Sys2Proof.Machine

open Sys2Proof.Safety

/-! ### Dispatch in slot B (R14 to R16) -/

section Dispatch

variable {s : State} {i : Instr} {rs : List Reg} {len : Nat} {op : GOp}

/-- The arm of a slot-B instruction with no front-end change, as the statements name its dispatch. -/
theorem dispatches_of_slotB (h : MayDispatch s rs) (e : exec i s = s.slotB i rs len (some op)) : Dispatches i s op len :=
  ⟨e.trans (s.slotB_of_mayDispatch h i len op), fun p => e.trans (s.slotB_of_paced h p i len op)⟩

/-- A slot-B instruction stalls on a pending register that it reads and on a full GIQ. -/
theorem State.slotB_stalls {r : Reg} (hr : r ∈ rs) (h : s.core.pendingReg r.toNat = true ∨ s.core.giqFull = true) :
    s.slotB i rs len (some op) = .next s := by
  by_cases hc : Clear s rs
  · rcases h with h | h
    · simp [hc r hr] at h
    · exact s.slotB_of_full hc h i len op
  · have hp : (rs.any fun r => s.core.pendingReg r.toNat) = true := by simpa using hc
    simp [slotB, hp]

end Dispatch

/-- Settles O17: the entry that `push` builds, and the stall of `slotB`, which every listed instruction is. -/
theorem dispatchWritesOneEntryOrStalls : Obligations.DispatchWritesOneEntryOrStalls := by
  refine ⟨fun s op i len => ⟨⟨_, rfl, rfl, rfl, BitVec.ofNat_toNat _ _, rfl, rfl, rfl, rfl, rfl, rfl⟩, rfl⟩, fun s c a i hi h => ?_⟩
  have stalls (j : Instr) (op : GOp) : s.slotB j [a] 4 (some op) = .next s := State.slotB_stalls (List.mem_singleton_self a) h
  simp only [List.mem_cons, List.not_mem_nil, or_false] at hi
  rcases hi with rfl | rfl | rfl | rfl | rfl | rfl | rfl | rfl | rfl <;> exact stalls _ _

/-! ### Markers (R18, R113, R312, R314) -/

section Markers

variable {s : State}

/-- A marker that need not wait is dispatched. -/
theorem dispatches_of_marker {i : Instr} {op : GOp} (hr : s.core.runAhead = false) (hg : s.core.giqFull = false)
    (e : exec i s = s.marker i op) : Dispatches i s op 4 := by
  have h : exec i s = s.slotB i [] 4 (some op) := by simp [e, State.marker, State.slotB, hr, hg]; rfl
  exact dispatches_of_slotB ⟨List.forall_mem_nil _, hg⟩ h

/-- A pointer that is 0, or that its buffers translate to logged memory, may be used for a resume record. -/
theorem State.recordCheck_ok {p : Word}
    (h : p = 0 ∨ (p.toNat % 64 = 0 ∧ ∃ pa, s.translate (s.scalarWho false) .store p = (s, .ok pa) ∧ s.logged pa = true)) :
    s.recordCheck p = (s, none) := by
  rcases h with rfl | ⟨ha, pa, ht, hl⟩
  · simp [recordCheck]
  · simp [recordCheck, ha, ht, hl]

/-- A seal or irrev whose pointer may be used places its own marker on a member core and a fence.all of domain scope on another. -/
theorem State.sealing_of_recordCheck {p : Word} (i : Instr) (op : GOp) (hl : s.pl ≠ 2) (hr : s.core.runAhead = false)
    (hp : s.recordCheck p = (s, none)) : s.sealing i p op = s.marker i (if s.memberCore s.cur then op else .fence 3 4) := by
  simp [sealing, hl, hr, hp]

end Markers

/-- Settles O15: each arm is `marker`, that of seal and irrev once the pointer has passed its check. -/
theorem markersAreDispatched : Obligations.MarkersAreDispatched := by
  intro s scope a hr hg hc
  refine ⟨dispatches_of_marker hr hg rfl, dispatches_of_marker hr hg rfl, dispatches_of_marker hr hg rfl,
    dispatches_of_marker hr hg rfl, ?_, fun p op i hi hl hp => ?_⟩
  · have e : exec .halt s = (dispatched (s.updCore fun c => { c with run := .halting }) .halt .halt 4).andPump := by
      show execHalt s = _
      simp [execHalt, hr, hg]
      rfl
    exact ⟨e, fun hp => e.trans (State.andPump_of_paced _ hp)⟩
  · have hs (j : Instr) (o : GOp) := State.sealing_of_recordCheck j o hl hr (State.recordCheck_ok hp)
    simp only [List.mem_cons, List.not_mem_nil, or_false, Prod.mk.injEq] at hi
    rcases hi with ⟨rfl, rfl, rfl⟩ | ⟨rfl, rfl, rfl⟩
    · have e : exec (.seal a) s = s.sealing (.seal a) (s.reg a) (.seal (s.reg a)) := by
        show execSeal a s = _
        rw [execSeal, s.slotA_of_clear hc]
      exact dispatches_of_marker hr hg (e.trans (hs _ _))
    · exact dispatches_of_marker hr hg (hs _ _)

/-! ### Masks and tile forms (R121 to R135, R182) -/

theorem windowOf_eq (f : WsetF) (x : Word) :
    windowOf f x = ⟨f.half.toNat, WMode.ofCode f.mode.toNat, (f.origin.toNat + x.toNat % 128) % 128, f.cntm1.toNat + 1,
      if f.stride.toNat < 8 then (f.stride.toNat : Int) else f.stride.toNat - 16⟩ := by
  simp [windowOf, signedNat]

/-- The rows of a gsave or grest lie within their half. -/
theorem imageOp_of_lt {rest : Bool} {f : GimF} (addr : Word) (h : f.first.toNat + f.cntm1.toNat < 128) :
    imageOp rest f addr = some (.gimage rest f.half.toNat f.first.toNat (f.cntm1.toNat + 1) addr) := if_pos h

theorem mayDispatch_mono {s : State} {rs qs : List Reg} (h : MayDispatch s rs) (hq : qs ⊆ rs) : MayDispatch s qs :=
  ⟨fun r hr => h.1 r (hq hr), h.2⟩

/-- Settles O18: each arm is `slotB` with the entry that the statement names; wset changes its window before the entry is written. -/
theorem masksAndTileFormsDispatch : Obligations.MasksAndTileFormsDispatch := by
  refine ⟨fun s d a b h => ?_, fun s f w d km ty v g m o h => ?_⟩
  · have h0 : MayDispatch s [] := mayDispatch_mono h (List.nil_subset _)
    exact ⟨dispatches_of_slotB h rfl, dispatches_of_slotB h rfl, dispatches_of_slotB h0 rfl, dispatches_of_slotB h0 rfl,
      dispatches_of_slotB h0 rfl, dispatches_of_slotB h0 rfl, dispatches_of_slotB h0 rfl, dispatches_of_slotB h0 rfl,
      dispatches_of_slotB h0 rfl, dispatches_of_slotB h0 rfl, dispatches_of_slotB h0 rfl, dispatches_of_slotB h0 rfl,
      dispatches_of_slotB h0 rfl, dispatches_of_slotB h0 rfl⟩
  · have h0 : MayDispatch s [] := mayDispatch_mono h (List.nil_subset _)
    have hx : MayDispatch s [f.xo] := mayDispatch_mono h (by simp)
    have hm : MayDispatch s [m.a] := mayDispatch_mono h (by simp)
    intro x s1
    have e : exec (.wset f) s = (dispatched s1 (.wset f.w.toNat x) (.wset f) 8).andPump := by
      show execWset f s = _
      simp only [execWset, windowOf_eq, State.slotB, State.any_pending_of_clear hx.1, hx.2]
      rfl
    refine ⟨e, fun hp => e.trans (State.andPump_of_paced _ hp), fun y hy => ⟨?_, ?_⟩, fun hg => ?_, fun hg => ?_, fun hr => ⟨?_, ?_⟩,
      fun ho => ?_⟩
    · exact dispatches_of_slotB h0 (show execWrd w d s = _ by rw [execWrd, hy]; rfl)
    · exact dispatches_of_slotB h0 (show execOfill w km ty v s = _ by rw [execOfill, hy]; rfl)
    · exact dispatches_of_slotB h0 (show execGcopy g s = _ by rw [execGcopy, if_pos hg])
    · exact dispatches_of_slotB h0 (show execGtrans g s = _ by rw [execGtrans, if_pos hg])
    · exact dispatches_of_slotB hm (show execGsave m s = _ by rw [execGsave, imageOp_of_lt _ hr])
    · exact dispatches_of_slotB hm (show execGrest m s = _ by rw [execGrest, imageOp_of_lt _ hr])
    · exact dispatches_of_slotB h0 (show execOacc o s = _ by rw [execOacc, if_pos ho])

end Sys2Proof.Machine

end

section
/-! PROOFS. One unit of the only entry outside the GIQ, and the engine port (O33). -/

namespace Sys2Proof.Machine

open Sys2Proof.Safety

/-- A check that passes is no machine check of an address generation. -/
theorem glsCheck_pass (e : Entry) : glsCheck e .pass = none := by
  unfold glsCheck
  split
  case h_1 hf => cases hf
  case h_2 => rfl

/-! ### One unit of the only entry outside the GIQ (R19 to R22) -/

/-- The entries of the engine port that claim no row, mask or accumulation window. -/
def GOp.claimless : GOp → Bool
  | .cinc _ _ | .cwait _ _ | .cset _ _ | .crd _ _ | .ipost _ _ | .iwait _ _ | .barInit _ _ | .barArrive _ _ _ | .barWait _ _
  | .slook _ _ | .sins _ _ _ | .sinv _ | .fence _ _ | .seal _ | .irrev _ | .halt | .gridReset => true
  | _ => false

theorem Entry.demands_of_claimless {e : Entry} (h : e.op.claimless = true) : e.demands = [] := by
  cases ho : e.op <;> rw [ho] at h <;> cases h <;>
    simp only [Entry.demands, Entry.unitWrites, Entry.unitReads, Entry.writes, Entry.reads, ho, List.append_nil, List.filter_nil]

section Alone

variable {s t : State} {e e1 : Entry} {p : GOp → Bool}

theorem State.oldest_alone (h : Alone s e) (hp : p e.op = true) : s.oldest p = some 0 := by
  obtain ⟨hf, hn, hs, -, -⟩ := h
  simp [State.oldest, hf, hn, Entry.faulted, hs, hp]

/-- Nothing comes before it: no other entry has left the GIQ and no stream is outstanding. -/
theorem State.goesOn_alone (h : Alone s e) : s.goesOn 0 e = true := by
  obtain ⟨-, hn, hs, hst, -⟩ := h
  simp [State.goesOn, State.canStart, State.streamAhead, claimsFree, Entry.faulted, hn, hs, hst]

/-- An entry that touches no row needs none fetched. -/
theorem State.stepEntry_alone (h : Alone s e) (hd : e.op.claimless = true) (chk : Check) :
    s.stepEntry [] true chk e = s.runUnit [] true chk e := by
  have hs : e.stop = .none := h.2.2.1
  have he : ({ e with stop := if e.stop == .wait then .none else e.stop } : Entry) = e := by
    rw [hs]
    exact congrArg (fun x => ({ e with stop := x } : Entry)) hs.symm
  simp only [State.stepEntry, he, Entry.demands_of_claimless hd, ite_self, State.fetchRows]

/-- The event of its kind does one unit of it, and what has completed retires. -/
theorem State.runKind_alone {r : RunRes} (h : Alone s e) (hp : p e.op = true) (hd : e.op.claimless = true)
    (hu : s.runUnit [] true .pass e = (t, r)) (hr : ∀ e1 f, r ≠ .fault e1 f) :
    s.runKind p = .next ((t.noteRun 0 r).updCore Core.retireFin) := by
  have hf : s.core.flight = [e] := h.1
  simp only [State.runKind, State.runOldest, State.oldest_alone h hp, hf, List.getElem?_cons_zero, State.goesOn_alone h, glsCheck_pass,
    List.take_zero, State.stepEntry_alone h hd, hu, Bool.not_true, Bool.false_eq_true, if_false]
  cases r with
  | fault e1 f => exact absurd rfl (hr e1 f)
  | done e1 | more e1 | wait e1 => rfl

/-- The flags of an entry that completes alone merge, and it is gone. -/
theorem Core.retireFin_done {c : Core} (hf : c.flight = [e]) :
    (c.setFlight 0 { e with fin := true }).retireFin = { c.retireEntry e with flight := [] } := by
  simp [Core.retireFin, Core.setFlight, Core.popFin, hf, Core.retireEntry, Core.mergeFlags]

theorem Core.retireFin_still {c : Core} (hf : c.flight = [e]) (hn : e1.fin = false) :
    (c.setFlight 0 e1).retireFin = { c with flight := [e1] } := by
  simp [Core.retireFin, Core.setFlight, Core.popFin, hf, hn]

theorem State.runKind_done (h : Alone s e) (hp : p e.op = true) (hd : e.op.claimless = true)
    (hu : s.runUnit [] true .pass e = (t, .done e)) (hf : t.core.flight = [e]) : s.runKind p = .next (retired t e) := by
  rw [State.runKind_alone h hp hd hu (by simp)]
  exact congrArg (fun c => Host.Outcome.next { t with core := c }) (Core.retireFin_done hf)

theorem State.runKind_wait (h : Alone s e) (hp : p e.op = true) (hd : e.op.claimless = true)
    (hu : s.runUnit [] true .pass e = (t, .wait e1)) (hf : t.core.flight = [e]) (hn : e1.fin = false) :
    s.runKind p = .next (still t e1) := by
  rw [State.runKind_alone h hp hd hu (by simp)]
  exact congrArg (fun c => Host.Outcome.next { t with core := c }) (Core.retireFin_still hf hn)

/-- An entry whose core has discarded it meanwhile is not retired. -/
theorem State.runKind_discarded (h : Alone s e) (hp : p e.op = true) (hd : e.op.claimless = true)
    (hu : s.runUnit [] true .pass e = (t, .done e)) (hf : t.core.flight = []) : s.runKind p = .next t := by
  rw [State.runKind_alone h hp hd hu (by simp)]
  have hc : (t.core.setFlight 0 { e with fin := true }).retireFin = t.core := by
    simp only [Core.retireFin, Core.setFlight, hf, List.set_nil, List.length_nil, Core.popFin]
    exact congrArg (fun x => ({ t.core with flight := x } : Core)) hf.symm
  exact congrArg (fun c => Host.Outcome.next { t with core := c }) hc

end Alone

/-! ### The engine port takes the head of the GIQ (R19, R255, R256) -/

section Port

variable {s t : State} {e : Entry}

/-- The head leaves an empty port. -/
theorem State.departHead_of_empty {r : List Entry} (hg : s.core.giq = e :: r) (hf : s.core.flight = []) :
    s.departHead false = s.updCore fun c => { c with giq := r, flight := [e] } := by
  simp [State.departHead, hg, hf, mayDepart, claimsFree, State.updCore, Core.depart]

/-- The port completes an entry that works there; with an empty GIQ none follows it. -/
theorem giqDeparture_done (h : Alone s e) (hp : e.op.atPort = true) (hd : e.op.claimless = true)
    (hu : s.runUnit [] true .pass e = (t, .done e)) (hf : t.core.flight = [e]) (hg : t.core.giq = []) (hn : t.core.drn = none) :
    exec .giqDeparture s = .next (retired t e) := by
  show execGiqDeparture s = _
  have hg' : (retired t e).core.giq = [] := hg
  have hn' : (retired t e).core.drn = none := hn
  simp [execGiqDeparture, State.runKind_done h hp hd hu hf, hn', State.departHead, hg']

theorem State.runCinc_ok {c : Nat} {v : Word} (h : (s.core.ctr c).count + v.toNat ≤ 65535) :
    s.runCinc e c v = (s.updCore fun k => k.setCtr c { s.core.ctr c with count := (s.core.ctr c).count + v.toNat }, .done e) :=
  if_neg (Nat.not_lt.2 h)

theorem State.runCset_ok {c : Nat} {v : Word} (h : v.toNat ≤ 65535) :
    s.runCset e c v = ((s.cancelParked c).updCore fun k => k.setCtr c ⟨v.toNat, false, 0, 0⟩, .done e) :=
  if_neg (Nat.not_lt.2 h)

/-- With no command parked, crd gives the count, and the fault that the counter holds. -/
theorem State.crdWord_of_no_cmds (h : s.cmds = []) (c : Nat) :
    s.crdWord c = BitVec.ofNat 64 ((if (s.core.ctr c).f then 2 ^ 63 + (s.core.ctr c).cause % 256 * 2 ^ 48 else 0) + (s.core.ctr c).count) := by
  cases hf : (s.core.ctr c).f <;> simp [State.crdWord, h, hf, natOfBool]

theorem State.runCwait_ok {c : Nat} {v : Word} (h : (s.core.ctr c).f = false) :
    s.runCwait e c v = if (s.core.ctr c).count ≤ v.toNat then (s, .done e) else (s, .wait { e with stop := .wait }) := by
  simp [State.runCwait, h]

end Port

/-- Settles O33: each counter form is one unit of the entry alone at the port. -/
theorem portTakesHeadsAndCounts : Obligations.PortTakesHeadsAndCounts := by
  refine ⟨fun s e r hg hf hn => ?_, fun s e h hg hc => ?_⟩
  · show execGiqDeparture s = _
    simp [execGiqDeparture, State.runKind, State.runOldest, State.oldest, hf, hn, State.departHead_of_empty hg hf]
  · have ⟨hfl, _, _, _, hn⟩ := h
    refine ⟨fun c v ho hv => ?_, fun c v ho hv => ?_, fun c d ho => ?_, fun c v ho hf => ?_⟩
    · refine giqDeparture_done h (by rw [ho]; rfl) (by rw [ho]; rfl) ?_ hfl hg hn
      simp only [State.runUnit, ho, State.runCinc_ok hv]
    · have hu : s.runUnit [] true .pass e = ((s.cancelParked c).updCore fun k => k.setCtr c ⟨v.toNat, false, 0, 0⟩, .done e) := by
        simp only [State.runUnit, ho, State.runCset_ok hv]
      exact ⟨_, giqDeparture_done h (by rw [ho]; rfl) (by rw [ho]; rfl) hu hfl hg hn, rfl, rfl, rfl⟩
    · refine giqDeparture_done h (by rw [ho]; rfl) (by rw [ho]; rfl) ?_ (by simp [hfl]) (by simp [hg]) (by simp [hn])
      simp only [State.runUnit, ho, State.runCrd, State.crdWord_of_no_cmds hc]
    · show s.runKind _ = _
      have hu : s.runUnit [] true .pass e = s.runCwait e c v := by rw [State.runUnit, ho]
      by_cases hle : (s.core.ctr c).count ≤ v.toNat
      · rw [if_pos hle]
        exact State.runKind_done h (by rw [ho]) (by rw [ho]; rfl) (by rw [hu, State.runCwait_ok hf, if_pos hle]) hfl
      · rw [if_neg hle]
        exact State.runKind_wait h (by rw [ho]) (by rw [ho]; rfl) (by rw [hu, State.runCwait_ok hf, if_neg hle]) hfl h.2.1

end Sys2Proof.Machine

end

section
/-! PROOFS. The cores of the package: what a change of some of them leaves. -/

namespace Sys2Proof.Machine

open Sys2Proof.Safety

/-! ### The cores of the package (R9) -/

namespace State

variable (s : State) (n m : Nat) (c : Core) (ns : List Nat) (f : Nat → Core → Core)

@[simp] theorem getCore_cur : s.getCore s.cur = s.core := if_pos rfl

theorem setCore_cur_eq : s.setCore s.cur c = { s with core := c } := if_pos rfl

theorem modCore_cur_eq (g : Core → Core) : s.modCore s.cur g = s.updCore g := by
  rw [modCore, setCore_cur_eq, getCore_cur]
  rfl

theorem getCore_setCore : (s.setCore n c).getCore m = if m = n then c else s.getCore m := by
  unfold setCore getCore
  by_cases hn : n = s.cur
  · subst hn
    by_cases hm : m = s.cur <;> simp [hm]
  · by_cases hm : m = n
    · subst hm
      simp [hn]
    · simp [hn, hm]

theorem getCore_modCore (g : Core → Core) : (s.modCore n g).getCore m = if m = n then g (s.getCore n) else s.getCore m :=
  getCore_setCore _ _ _ _

/-- A change of a core changes nothing beside the cores. -/
theorem modCore_frame (g : Core → Core) :
    s.modCore n g = { s with core := (s.modCore n g).core, others := (s.modCore n g).others } := by
  unfold modCore setCore
  split <;> rfl

theorem modCores_frame : s.modCores ns f = { s with core := (s.modCores ns f).core, others := (s.modCores ns f).others } := by
  unfold modCores
  induction ns generalizing s with
  | nil => rfl
  | cons n ns ih =>
    rw [List.foldl_cons, ih]
    rw [s.modCore_frame]

@[simp] theorem modCores_cur : (s.modCores ns f).cur = s.cur := by rw [modCores_frame]
@[simp] theorem modCores_tasks : (s.modCores ns f).tasks = s.tasks := by rw [modCores_frame]
@[simp] theorem modCores_tagtab : (s.modCores ns f).tagtab = s.tagtab := by rw [modCores_frame]
@[simp] theorem modCores_cmds : (s.modCores ns f).cmds = s.cmds := by rw [modCores_frame]
@[simp] theorem modCores_parts : (s.modCores ns f).parts = s.parts := by rw [modCores_frame]
@[simp] theorem modCores_dom : (s.modCores ns f).dom = s.dom := by rw [modCores_frame]
@[simp] theorem modCores_deadDies : (s.modCores ns f).deadDies = s.deadDies := by rw [modCores_frame]
@[simp] theorem modCores_nextTask : (s.modCores ns f).nextTask = s.nextTask := by rw [modCores_frame]

/-- Each of some different cores has changed once. -/
theorem getCore_modCores (hn : ns.Nodup) :
    (s.modCores ns f).getCore m = if m ∈ ns then f m (s.getCore m) else s.getCore m := by
  unfold modCores
  induction ns generalizing s with
  | nil => simp
  | cons n ns ih =>
    obtain ⟨hnot, hn⟩ := List.nodup_cons.1 hn
    rw [List.foldl_cons, ih _ hn, getCore_modCore]
    by_cases hm : m = n
    · subst hm
      simp [hnot]
    · simp [hm]

theorem modCores_core (hn : ns.Nodup) : (s.modCores ns f).core = if s.cur ∈ ns then f s.cur s.core else s.core := by
  have h := s.getCore_modCores s.cur ns f hn
  rw [getCore_cur, ← modCores_cur s ns f, getCore_cur, modCores_cur] at h
  exact h

/-- Notices change only which cores have the pre-emption request pending. -/
theorem setNotices_frame (l : List Notice) :
    s.setNotices l =
      { s with core := (s.setNotices l).core, others := (s.setNotices l).others, notices := (s.setNotices l).notices } := by
  unfold setNotices
  split
  · rfl
  · rw [modCores_frame]

@[simp] theorem setNotices_cur (l : List Notice) : (s.setNotices l).cur = s.cur := by rw [setNotices_frame]
@[simp] theorem setNotices_tasks (l : List Notice) : (s.setNotices l).tasks = s.tasks := by rw [setNotices_frame]
@[simp] theorem setNotices_tagtab (l : List Notice) : (s.setNotices l).tagtab = s.tagtab := by rw [setNotices_frame]
@[simp] theorem setNotices_cmds (l : List Notice) : (s.setNotices l).cmds = s.cmds := by rw [setNotices_frame]
@[simp] theorem setNotices_parts (l : List Notice) : (s.setNotices l).parts = s.parts := by rw [setNotices_frame]

theorem setNotices_core (l : List Notice) : ∃ b, (s.setNotices l).core = { s.core with preReq := b } := by
  unfold setNotices
  split
  · exact ⟨_, rfl⟩
  · rw [modCores_core _ _ _ (show allCores.Nodup from List.nodup_range)]
    split <;> exact ⟨_, rfl⟩

/-- To act as the core that moves is to act. -/
theorem asCore_cur (g : State → State) (h : (g s).cur = s.cur) : s.asCore s.cur g = g s := by
  simp [asCore, switchTo, h]

end State

end Sys2Proof.Machine

end

section
/-! PROOFS. The end of a task and the grid side of the next one (O37). -/

namespace Sys2Proof.Machine

open Sys2Proof.Safety

/-- To clear a field is to mask it out. -/
theorem setField_zero (w : Word) {lo n : Nat} (hn : lo + n ≤ 64) :
    setField w lo n 0 = w &&& ~~~(BitVec.ofNat 64 ((2 ^ n - 1) <<< lo)) := by
  apply BitVec.eq_of_getLsbD_eq
  intro i hi
  rw [getLsbD_setField w 0 hn hi, BitVec.getLsbD_and, BitVec.getLsbD_not, BitVec.getLsbD_ofNat, Nat.testBit_shiftLeft,
    Nat.testBit_two_pow_sub_one, Nat.zero_testBit]
  by_cases h : lo ≤ i ∧ i < lo + n
  · have : i - lo < n := by omega
    simp [h, this]
  · have : lo ≤ i → n ≤ i - lo := by omega
    rw [if_neg h]
    by_cases hl : lo ≤ i <;> simp [hi, hl, this]

/-! ### The end of a task (R12, R30) -/

variable {s : State} {e : Entry} {t : Task}

namespace State

theorem firstF_of_clear (h : ∀ c < 32, (s.core.ctr c).f = false) : s.firstF = none := by
  simpa [firstF] using h

/-- A halt that follows nothing, with every counter zero, retires. -/
theorem runHalt_ready (hl : Landed s) (hst : s.core.streams = [])
    (hc : ∀ c < 32, (s.core.ctr c).f = false ∧ (s.core.ctr c).count = 0) {u : State} (hu : s.retireHalt = (u, true)) :
    s.runHalt e [] = (u.dropOlder, .done e) := by
  have hl' : s.landAll = s := by simp [landAll, hl]
  have hz : ((List.range 32).any fun n => (s.core.ctr n).count != 0) = false := by
    simpa [List.any_eq_false] using fun c hlt => (hc c hlt).2
  simp [runHalt, hl', hl, hst, firstF_of_clear fun c hlt => (hc c hlt).1, hz, hu]

theorem findTask_modTask {v t' : Task} (h : (s.modTask t.id fun _ => t').findTask t.id = some v) : v = t' := by
  have hid : v.id = t.id := by simpa using List.find?_some h
  obtain ⟨x, -, hx⟩ := List.mem_map.1 (List.mem_of_find?_eq_some h)
  by_cases hi : x.id = t.id
  · simpa [hi] using hx.symm
  · simp only [beq_iff_eq, hi, if_false] at hx
    exact absurd (hx ▸ hid) hi

end State

/-- A task once its halt has retired on a core. -/
def Task.haltedOn (t : Task) (n : Nat) : Task := { t with halted := t.halted ++ [n] }

/-- The machine once the halt of the core that moves has retired, while other cores of the gang run on. -/
def State.haltHere (s : State) (t : Task) : State :=
  ((s.modTask t.id fun _ => t.haltedOn s.cur).updCore fun c => { c with run := .idle }).setNotices s.notices

namespace State

/-- While another core of the gang runs on, the core whose halt retires becomes idle and counts as halted. -/
theorem retireHalt_of_others (ht : s.gridTask = some t) (hp : s.core.prev = none) (ho : ∃ n ∈ t.cores, n ≠ s.cur ∧ n ∉ t.halted) :
    s.retireHalt = (s.haltHere t, true) := by
  have hall : (t.cores.all fun n => (t.halted ++ [s.cur]).contains n) = false := by
    obtain ⟨n, hn, hc, hh⟩ := ho
    exact List.all_eq_false.2 ⟨n, hn, by simp [hc, hh]⟩
  have hu : (s.modTask t.id fun _ => t.haltedOn s.cur).updCore (fun c => if c.prev.isSome then c.alone else { c with run := .idle }) =
      (s.modTask t.id fun _ => t.haltedOn s.cur).updCore fun c => { c with run := .idle } := by
    simp [updCore, hp]
  rw [haltHere, ← hu]
  simp only [retireHalt, ht, hall, Bool.false_eq_true, if_false]
  rfl

theorem haltHere_core : ∃ b, (s.haltHere t).core = { s.core with run := .idle, preReq := b } := setNotices_core _ _

theorem findTask_haltHere {v : Task} (h : (s.haltHere t).findTask t.id = some v) : v = t.haltedOn s.cur := by
  refine findTask_modTask (s := s) (t := t) ?_
  simpa [haltHere, findTask] using h

/-- The halt of a gang of one core ends its task; without a done counter nothing is written. -/
theorem retireHalt_of_last (ht : s.gridTask = some t) (hc : t.cores = [s.cur]) (hd : t.done = 0) :
    s.retireHalt = (s.finishTask (t.haltedOn s.cur), true) := by
  simp [retireHalt, ht, hc, endTask, hd, Task.haltedOn]

/-- The deficit is all that a charge changes. -/
theorem chargeDeficit_frame : s.chargeDeficit t = { s with deficit := (s.chargeDeficit t).deficit } := by
  unfold chargeDeficit capDeficit
  dsimp only
  split <;> rfl

theorem dropTask_core (i : Nat) : ∃ b, (s.dropTask i).core = { s.core with preReq := b } := setNotices_core _ _

/-- The one core of a gang is idle once its task has ended. -/
theorem finishTask_core (hc : t.cores = [s.cur]) (hp : s.core.prev = none) (ht : s.core.task = some t.id) :
    ∃ b, (s.finishTask t).core = { s.core.release with preReq := b } := by
  have hf : ((s.chargeDeficit t).freeCores t).core = s.core.release := by
    rw [chargeDeficit_frame, freeCores, hc, modCores_core _ _ _ (List.nodup_singleton _), if_pos (List.mem_singleton_self _)]
    simp [hp, ht]
  rw [← hf]
  exact dropTask_core t.id

theorem finishTask_tasks : (s.finishTask t).tasks = s.tasks.filter fun x => x.id != t.id := by
  rw [finishTask, chargeDeficit_frame]
  simp [dropTask, freeCores]

theorem finishTask_tagtab : (s.finishTask t).tagtab = s.tagtab.filter fun x => x.task != t.id := by
  rw [finishTask, chargeDeficit_frame]
  simp [dropTask, freeCores]

theorem finishTask_cmds : (s.finishTask t).cmds = s.cmds.filter fun x => x.task != t.id := by
  rw [finishTask, chargeDeficit_frame]
  simp [dropTask, freeCores]

end State

/-- The grid side of R11 (R26). -/
def Core.gridReset (c : Core) : Core :=
  { c with grid := [], masks := Vector.replicate 24 0, queues := Vector.replicate 8 [], streams := []
           ctrs := Vector.replicate 32 Counter.init, awins := Vector.replicate 4 none
           flags := c.flags &&& scalarFlags, eidxNv := 0, eidxDz := 0, eidxOf := 0, eidxUf := 0, eidxSat := 0, ffi := 0, restidx := 0
           stepprog := 0, rowprog := 0, timecmp := 0 }

namespace State

/-- The grid side of a new task begins once no old task holds the core or its gang. -/
theorem runGridReset_ready (hp : s.core.prev = none) (ht : s.curTask = some t) (hh : s.heldBy t = none) :
    s.runGridReset e = ((s.updCore Core.gridReset).beginTask s.entryInterval, .done e) := by
  simp only [runGridReset, hp, ht, hh]
  rfl

/-- What a core's first interval leaves of the core that begins its task (R103, R303). -/
theorem beginTask_core (n : BitVec 32) : (s.beginTask n).core = (s.startIntervals n).core := by
  unfold beginTask
  split <;> rfl

theorem gridTask_of_task (hp : s.core.prev = none) (ht : s.core.task = some t.id) : s.gridTask = s.curTask := by
  simp [gridTask, Core.gridTaskId, curTask, hp, ht]

end State

/-- An entry that raised no flag leaves FLAGS as they stand. -/
theorem Core.retireEntry_flags {c : Core} (hf : e.fl = {}) : (c.retireEntry e).flags = c.flags := by
  rw [retireEntry, mergeFlags, hf]
  exact BitVec.or_zero

/-- Settles O37: the halt is one unit of the entry alone, which retires on its core or ends the task; the grid reset is another. -/
theorem haltAndGridResetRetire : Obligations.HaltAndGridResetRetire := by
  intro s e t h hl ht hp hc htask hfl
  have ⟨hf, _, _, hst, _⟩ := h
  have halts (ho : e.op = .halt) {u : State} (hu : s.retireHalt = (u, true)) : s.runUnit [] true .pass e = (u.dropOlder, .done e) := by
    simp only [State.runUnit, ho]
    exact State.runHalt_ready hl hst hc hu
  refine ⟨fun ho hn => ?_, fun ho hco hd => ?_, fun ho hh => ?_⟩
  · obtain ⟨b, hb⟩ := State.haltHere_core (s := s) (t := t)
    refine ⟨_, State.runKind_done h (by rw [ho]; rfl) (by rw [ho]; rfl) (halts ho (State.retireHalt_of_others ht hp hn)) ?_, ?_, rfl, ?_,
      fun v hv => ?_⟩
    · rw [State.dropOlder_core, hb]
      exact hf
    · show (s.haltHere t).core.run = .idle
      rw [hb]
    · show s.core.regs = (s.haltHere t).core.regs
      rw [hb]
    · rw [State.findTask_haltHere (s := s) (t := t) hv]
      rfl
  · obtain ⟨b, hb⟩ := State.finishTask_core (s := s) (t := t.haltedOn s.cur) hco hp htask
    refine ⟨_, State.runKind_discarded h (by rw [ho]; rfl) (by rw [ho]; rfl) (halts ho (State.retireHalt_of_last ht hco hd)) ?_, ?_, ?_, ?_,
      fun x hx => ?_, fun x hx => ?_, State.finishTask_mem _⟩
    · rw [State.dropOlder_core, hb]
      rfl
    · rw [State.dropOlder_core, hb]
      rfl
    · rw [State.dropOlder_core, hb]
      rfl
    · show List.find? _ (s.finishTask (t.haltedOn s.cur)).tasks = none
      rw [State.finishTask_tasks]
      simp [Task.haltedOn]
    · have hx : x ∈ (s.finishTask (t.haltedOn s.cur)).tagtab := hx
      rw [State.finishTask_tagtab] at hx
      simpa [Task.haltedOn] using (List.mem_filter.1 hx).2
    · have hx : x ∈ (s.finishTask (t.haltedOn s.cur)).cmds := hx
      rw [State.finishTask_cmds] at hx
      simpa [Task.haltedOn] using (List.mem_filter.1 hx).2
  · have hcur : s.curTask = some t := (State.gridTask_of_task hp htask).symm.trans ht
    have hheld : s.heldBy t = none := by simpa [State.heldBy] using hh
    have hu : s.runUnit [] true .pass e = ((s.updCore Core.gridReset).beginTask s.entryInterval, .done e) := by
      simp only [State.runUnit, ho, State.runGridReset_ready hp hcur hheld]
    have hb := State.beginTask_core (s := s.updCore Core.gridReset) s.entryInterval
    refine ⟨_, State.runKind_done h (by rw [ho]; rfl) (by rw [ho]; rfl) hu (by rw [hb]; exact hf), ?_⟩
    exact ⟨congrArg Core.grid hb, congrArg Core.masks hb, (Core.retireEntry_flags hfl).trans (congrArg Core.flags hb),
      congrArg Core.ctrs hb, congrArg Core.awins hb, (congrArg Core.tvec hb).trans (setField_zero _ (by decide)),
      (congrArg Core.regs hb :), State.beginTask_mem _⟩

end Sys2Proof.Machine

end

section
/-! PROOFS. The start of a task (O44). -/

namespace Sys2Proof.Machine

open Sys2Proof.Safety

/-! ### A reservation is granted (R194, R196, R291, R364) -/

/-- Leaving out the pairs of some keys resets those keys. -/
theorem Sp.get_filter_keys {α : Type} (d : α) (q : Nat → Bool) (m : Sp α) (k : Nat) :
    Sp.get d (m.filter fun p => q p.1) k = if q k then Sp.get d m k else d := by
  induction m with
  | nil => simp [Sp.get]
  | cons p m ih =>
    obtain ⟨j, v⟩ := p
    by_cases hj : j = k
    · subst hj
      by_cases hq : q j <;> simp [Sp.get, hq, ih]
    · by_cases hq : q j <;> simp [Sp.get, hq, hj, ih]

namespace State

variable {s s1 : State} {c : Cand} {xs : List Share}

/-- The zeroed range reads as zero, and the rest as before. -/
theorem get_zeroSpad (lo n a : Nat) :
    Sp.get 0 (s.zeroSpad lo n).mem a = if lo ≤ a ∧ a < lo + n then 0 else Sp.get 0 s.mem a := by
  rw [zeroSpad, Sp.get_filter_keys 0 (fun k => !(decide (lo ≤ k) && decide (k < lo + n)))]
  by_cases h : lo ≤ a ∧ a < lo + n <;> simp [h]

theorem get_zeroSpads_of_zero (lo : Share → Nat) (n a : Nat) (h : Sp.get 0 s.mem a = 0) :
    Sp.get 0 (xs.foldl (fun s h => s.zeroSpad (lo h) n) s).mem a = 0 := by
  induction xs generalizing s with
  | nil => exact h
  | cons x xs ih => exact ih (by rw [get_zeroSpad, h, ite_self])

/-- Of some zeroed ranges each reads as zero. -/
theorem get_zeroSpads (lo : Share → Nat) {n a : Nat} {h : Share} (hx : h ∈ xs) (ha : lo h ≤ a ∧ a < lo h + n) :
    Sp.get 0 (xs.foldl (fun s h => s.zeroSpad (lo h) n) s).mem a = 0 := by
  induction xs generalizing s with
  | nil => exact absurd hx List.not_mem_nil
  | cons x xs ih =>
    rcases List.mem_cons.1 hx with rfl | hx
    · exact get_zeroSpads_of_zero (s := s.zeroSpad (lo h) n) lo n a (by rw [get_zeroSpad, if_pos ha])
    · exact ih hx

/-- The scheduler serves the record that it picks, with the reservation that the record can be granted. -/
theorem reserveAttempt_grants {die : Nat} (hd : s.liveDies.head? = some die) (hr : s.dom.state = .run)
    (hc : (s.candidates.foldl askPlace ([0, 1, 2, 3].foldl capIdle s)).choose = (s1, some (.inr c))) (hg : s1.grantable c = some xs) :
    s.reserveAttempt die = (s1.dropAnswers.grantRecord c xs).useAnswer c := by
  have hl : s.launching = true := by simp [launching, hr]
  simp only [reserveAttempt, hd, hl, hc, hg]
  simp

theorem grantRecord_mem :
    (s.grantRecord c xs).mem =
      (xs.foldl (fun s h => s.zeroSpad (spadBase + h.cluster * spadBytes + h.off) (spadRound c.r.spad.toNat)) s).mem := by
  simp [grantRecord]

end State

/-! ### A task is dispatched (R10, R11) -/

section Started

variable {s : State} {k : Task}

namespace State

@[simp] theorem beginTask_cur (n : BitVec 32) : (s.beginTask n).cur = s.cur := by
  unfold beginTask
  split <;> rfl

/-- A core that no old task holds starts at once. -/
theorem loadCore_cur (entry : BitVec 32) :
    s.loadCore k none entry s.cur = (s.updCore (Core.start k (k.cores.idxOf s.cur))).beginTask entry := by
  have h := asCore_cur (s.updCore (Core.start k (k.cores.idxOf s.cur))) (fun u => u.beginTask entry) (beginTask_cur entry)
  rw [updCore_cur] at h
  rw [loadCore, modCore_cur_eq, h]

end State

/-- The machine in which a granted task counts as running and the notices that its record caused have ended. -/
def State.dispatching (s : State) (k : Task) : State := (s.modTask k.id fun t => { t with state := .running }).endNotices k

/-- The machine once the core that moves has begun a task of its own. -/
def State.startedHere (s : State) (k : Task) : State :=
  ((s.dispatching k).updCore (Core.start k 0)).beginTask s.entryInterval

namespace State

/-- The only task, granted to the core that moves, is dispatched there. -/
theorem taskDispatch_alone (ht : s.tasks = [k]) (hs : k.state = .granted) (hc : k.cores = [s.cur]) (hl : s.launches k.part = true) :
    s.taskDispatch k.part k.queue = s.startedHere k := by
  have hh : s.heldBy k = none := by simp [heldBy, ht]
  have hcur : (s.dispatching k).cur = s.cur := setNotices_cur _ _
  have hload := loadCore_cur (s := s.dispatching k) (k := k) s.entryInterval
  rw [hcur, hc, List.idxOf_cons_self, dispatching] at hload
  simp [taskDispatch, ht, hs, hl, hh, hc, hload, startedHere, dispatching]

theorem startedHere_core : (s.startedHere k).core = (((s.dispatching k).updCore (Core.start k 0)).startIntervals s.entryInterval).core :=
  beginTask_core _

/-- The task that the core begins is the one in its list. -/
theorem part_of_start (ht : s.tasks = [k]) : ((s.dispatching k).updCore (Core.start k 0)).part = k.part := by
  simp [part, curTask, findTask, dispatching, endNotices, Core.start, ht]

/-- It traps to the vector of its partition (R103). -/
theorem startedHere_tvec (ht : s.tasks = [k]) : (s.startedHere k).core.tvec = (s.getPart k.part).rtvec &&& ~~~255 := by
  have hp : ((s.dispatching k).updCore (Core.start k 0)).getPart k.part = s.getPart k.part := by
    simp [getPart, dispatching, endNotices]
  rw [startedHere_core, ← hp, ← part_of_start ht]
  exact setField_zero _ (by decide)

/-- It runs at task level (R11). -/
theorem startedHere_pl : (s.startedHere k).pl = 0 := by
  rw [pl, startedHere_core]
  exact fieldNat_setField _ 0 (by decide)

end State

end Started

/-- Every register at a task's first instruction (R11). -/
theorem getReg_of_startRegs {c : Core} {k : Task} {r : Nat} (h : c.regs = startRegs k r) :
    c.getReg 2 = BitVec.ofNat 64 apertureBase ∧ c.getReg 3 = BitVec.ofNat 64 r ∧ c.getReg 4 = BitVec.ofNat 64 k.cores.length ∧
      c.getReg 5 = BitVec.ofNat 64 k.id ∧ c.getReg 9 = k.resume ∧ (∀ i < 8, c.getReg (10 + i) = k.args.getD i 0) ∧
      ∀ i, i ∈ [1, 6, 7, 8] ∨ 18 ≤ i → c.getReg i = 0 := by
  have hg (i : Nat) (h0 : i ≠ 0) : c.getReg i = (startRegs k r).getD i 0 := by rw [Core.getReg, if_neg h0, h]
  have hv (i : Nat) (h0 : i ≠ 0) (hi : i < 32) : c.getReg i = (startRegs k r)[i] := by
    rw [hg i h0]
    simp [Vector.getD, hi]
  refine ⟨by simp [hv, startRegs], by simp [hv, startRegs], by simp [hv, startRegs], by simp [hv, startRegs], by simp [hv, startRegs],
    fun i hi => ?_, fun i hi => ?_⟩
  · rw [hv (10 + i) (by omega) (by omega)]
    interval_cases i <;> simp [startRegs]
  · have h0 : i ≠ 0 := by rintro rfl; simp at hi
    by_cases hlt : i < 32
    · rw [hv i h0 hlt]
      interval_cases i <;> simp at hi <;> simp [startRegs]
    · rw [hg i h0]
      simp [Vector.getD, hlt]

/-- Settles O44: the granted record leaves its task at the end of the list with its ranges zeroed, and the dispatch of a task on one core is
`Core.start` with the trap vector of its partition. -/
theorem reservedTasksStart : Obligations.ReservedTasksStart := by
  intro s p q die
  refine ⟨?_, fun k ht hs hkp hkq hc hl => ?_⟩
  · intro s1 c xs s0 hd hr hp hg
    refine ⟨_, _, congrArg Host.Outcome.next (State.reserveAttempt_grants hd hr hp hg), rfl, rfl, rfl, rfl, rfl, rfl, rfl, rfl, rfl,
      rfl, rfl, rfl, rfl, rfl, rfl, rfl, rfl, rfl, rfl, fun h hx n hn => ?_⟩
    have hm : ((s1.dropAnswers.grantRecord c xs).useAnswer c).mem = _ := State.grantRecord_mem (s := s1.dropAnswers)
    rw [hm]
    exact State.get_zeroSpads (fun h => spadBase + h.cluster * spadBytes + h.off) hx ⟨by omega, by omega⟩
  · subst hkp hkq
    have hd := State.taskDispatch_alone ht hs hc hl
    have hb := State.startedHere_core (s := s) (k := k)
    have ⟨h2, h3, h4, h5, h9, hargs, hrest⟩ := getReg_of_startRegs (c := (s.startedHere k).core) (congrArg Core.regs hb :)
    refine ⟨_, congrArg Host.Outcome.next hd, (congrArg Core.run hb :), (congrArg Core.task hb :), (congrArg Core.pc hb :),
      State.startedHere_pl, h2, h3, ?_, h5, h9, hargs, hrest, (congrArg Core.grid hb :), (congrArg Core.giq hb :),
      (congrArg Core.flags hb :), (congrArg Core.ctrs hb :), State.startedHere_tvec ht, ?_⟩
    · rw [h4, hc]
      rfl
    · rw [← hd]
      exact State.taskDispatch_mem _ _

end Sys2Proof.Machine

end

section
/-! PROOFS. Lane sparing, poison and the fencing of a die (O49). -/

namespace Sys2Proof.Machine

open Sys2Proof.Safety

/-! ### The tasks that a kill leaves (R367) -/

namespace State

variable (s : State)

@[simp] theorem modCore_tasks (n : Nat) (f : Core → Core) : (s.modCore n f).tasks = s.tasks := by rw [modCore_frame]

@[simp] theorem meter_tasks (p k n : Nat) : (s.meter p k n).tasks = s.tasks := rfl

@[simp] theorem meterMem_tasks (p pa n wr : Nat) : (s.meterMem p pa n wr).tasks = s.tasks := by
  unfold meterMem
  split <;> rfl

@[simp] theorem logLine_tasks (w : Wr) (l : Nat) : (s.logLine w l).tasks = s.tasks := by
  unfold logLine
  split <;> rfl

@[simp] theorem sealThreshold_tasks (p die n : Nat) : (s.sealThreshold p die n).tasks = s.tasks := by
  unfold sealThreshold
  split <;> simp [requestSeals]

@[simp] theorem landBytes_tasks (pa : Nat) (bs : List Byte) : (s.landBytes pa bs).tasks = s.tasks := by
  simp only [landBytes, breakResv]
  split <;> rfl

@[simp] theorem landFrom_tasks (w : Wr) (pa : Nat) (bs : List Byte) : (s.landFrom w pa bs).tasks = s.tasks := by
  unfold landFrom
  split
  · simp
  · split <;> simp

theorem foldl_tasks {α : Type} (f : State → α → State) (hf : ∀ s a, (f s a).tasks = s.tasks) (l : List α) :
    (l.foldl f s).tasks = s.tasks := by
  induction l generalizing s with
  | nil => rfl
  | cons a l ih => rw [List.foldl_cons, ih, hf]

theorem logLines_tasks (w : Wr) (d n : State → Nat → Nat) (ls : List Nat) :
    (ls.foldl (fun s l => (s.logLine w l).sealThreshold w.part (d s l) (n s l)) s).tasks = s.tasks := by
  induction ls generalizing s with
  | nil => rfl
  | cons l ls ih => rw [List.foldl_cons, ih, sealThreshold_tasks, logLine_tasks]

@[simp] theorem write_tasks (w : Wr) (pa : Nat) (bs : List Byte) : (s.write w pa bs).tasks = s.tasks := by
  unfold write
  split
  · rfl
  · split
    · rw [meterMem_tasks, landFrom_tasks]
      exact logLines_tasks s w (fun s l => s.dieOf l) (fun s l => s.occupancy w.part (s.dieOf l)) _
    · rw [meterMem_tasks, landFrom_tasks]
      exact logLines_tasks s w (fun s l => s.dieOf l) (fun s l => s.occupancy w.part (s.dieOf l)) _
    · simp
    · split <;> simp
    · rfl
    · rfl

@[simp] theorem performStores_tasks (n : Nat) : (s.performStores n).tasks = s.tasks := by
  unfold performStores
  split
  · rfl
  · rw [modCores_tasks, foldl_tasks _ _ (by simp)]

@[simp] theorem dropTask_tasks (i : Nat) : (s.dropTask i).tasks = s.tasks.filter fun t => t.id != i := by simp [dropTask]

@[simp] theorem stopTask_tasks (t : Task) (cores : List Nat) (stop : Nat → Core → Core) :
    (s.stopTask t cores stop).tasks = s.tasks.filter fun x => x.id != t.id := by
  simp only [stopTask, dropTask_tasks, modCores_tasks]
  rw [foldl_tasks _ _ (by simp)]

/-- A kill takes the tasks of its number out of the list. -/
theorem killTask_tasks (i : Nat) : (s.killTask i).tasks = s.tasks.filter fun t => t.id != i := by
  unfold killTask
  split
  · next h =>
    refine (List.filter_eq_self.2 fun t ht => ?_).symm
    simpa using List.find?_eq_none.1 h t ht
  · next t h =>
    have hi : t.id = i := by simpa using List.find?_some h
    simp [tell, clearLstall, hi]

theorem mem_tasks_of_kills {x : Task} (ids : List Nat) (h : x ∈ (ids.foldl killTask s).tasks) : x ∈ s.tasks ∧ x.id ∉ ids := by
  induction ids generalizing s with
  | nil => exact ⟨h, List.not_mem_nil⟩
  | cons i ids ih =>
    obtain ⟨hx, hn⟩ := ih _ h
    rw [killTask_tasks, List.mem_filter] at hx
    obtain ⟨hm, hi⟩ := hx
    exact ⟨hm, by simpa [hn] using hi⟩

end State

/-! ### What stays of a fenced die (R333) -/

/-- A fenced core that runs no task. -/
def Core.Gone (c : Core) : Prop := c.run = .fenced ∧ c.task = none

/-- One state keeps the tasks, the fenced dies and the fenced cores of another. -/
structure KeepsFenced (s t : State) : Prop where
  tasks : t.tasks = s.tasks
  dead : t.deadDies = s.deadDies
  gone : ∀ n, (s.getCore n).Gone → (t.getCore n).Gone

namespace KeepsFenced

variable {s t u : State}

theorem refl (s : State) : KeepsFenced s s := ⟨rfl, rfl, fun _ => id⟩

theorem trans (h : KeepsFenced s t) (k : KeepsFenced t u) : KeepsFenced s u :=
  ⟨k.tasks.trans h.tasks, k.dead.trans h.dead, fun n g => k.gone n (h.gone n g)⟩

theorem foldl {α : Type} {f : State → α → State} (hf : ∀ s a, KeepsFenced s (f s a)) (l : List α) (s : State) :
    KeepsFenced s (l.foldl f s) := by
  induction l generalizing s with
  | nil => exact refl s
  | cons a l ih => exact (hf s a).trans (ih _)

/-- What changes no core, no task and no fenced die. -/
theorem of_eq (hc : t.core = s.core) (hn : t.cur = s.cur) (ho : t.others = s.others) (ht : t.tasks = s.tasks) (hd : t.deadDies = s.deadDies) :
    KeepsFenced s t :=
  ⟨ht, hd, fun n g => by rwa [State.getCore, hc, hn, ho]⟩

theorem modCores (f : Nat → Core → Core) (hf : ∀ n c, c.Gone → (f n c).Gone) : KeepsFenced s (s.modCores State.allCores f) := by
  refine ⟨by simp, by simp, fun n g => ?_⟩
  rw [State.getCore_modCores _ _ _ _ (show State.allCores.Nodup from List.nodup_range)]
  split
  · exact hf n _ g
  · exact g

theorem withDom (d : Domain) : KeepsFenced s { s with dom := d } := of_eq rfl rfl rfl rfl rfl

theorem tell (m : HostMsg) : KeepsFenced s (s.tell m) := of_eq rfl rfl rfl rfl rfl

theorem sendMsg (m : NetMsg) : KeepsFenced s (s.sendMsg m) := of_eq rfl rfl rfl rfl rfl

end KeepsFenced

/-- A core as a domain fault stops it (R322). -/
def Core.faultStop (c : Core) : Core :=
  match c.run with
  | .idle | .fenced => c
  | .running | .halting | .stop | .drain | .save | .gone | .halted => { c with run := .halted }

theorem Core.faultStop_of_gone {c : Core} (h : c.Gone) : c.faultStop = c := by
  simp only [faultStop, h.1]

namespace KeepsFenced

variable {s t u : State}

/-- A domain fault leaves fenced cores fenced (R322). -/
theorem raiseDomainFault (k : Nat) : KeepsFenced s (s.raiseDomainFault k) := by
  refine trans (trans (trans (modCores (fun _ => Core.faultStop) fun _ c g => ?_) (withDom _)) (sendMsg _)) (foldl (fun _ _ => tell _) _ _)
  rwa [Core.faultStop_of_gone g]

theorem dropSealRequests (old : State) : KeepsFenced s (s.dropSealRequests old) := by
  unfold State.dropSealRequests
  dsimp only
  split
  · exact refl s
  · refine modCores _ fun n c g => ?_
    split <;> exact g

theorem lostPair (c : Cmd) : KeepsFenced s (s.lostPair c) := by
  unfold State.lostPair
  split
  · split
    · exact raiseDomainFault 5
    · split
      · exact of_eq rfl rfl rfl rfl rfl
      · split
        · exact raiseDomainFault 5
        · exact of_eq rfl rfl rfl rfl rfl
  · split
    · exact refl s
    · split
      · exact raiseDomainFault 5
      · exact of_eq rfl rfl rfl rfl rfl
  · exact refl s
  · exact refl s
  · exact refl s

theorem checkRoute (old : State) : KeepsFenced s (s.checkRoute old) := by
  unfold State.checkRoute
  split
  · exact raiseDomainFault 4
  · exact refl s

theorem modLink (l : Nat) (f : Link → Link) : KeepsFenced s (s.modLink l f) := of_eq rfl rfl rfl rfl rfl

theorem clearRetrain (l : Nat) : KeepsFenced s (s.clearRetrain l) := of_eq rfl rfl rfl rfl rfl

theorem rerouteIdle (ls : List Nat) : KeepsFenced s (s.rerouteIdle ls) := of_eq rfl rfl rfl rfl rfl

theorem linksLost (ls : List Nat) : KeepsFenced s (s.linksLost ls) := by
  unfold State.linksLost
  extract_lets new hit s1 s2
  have h1 : KeepsFenced s s1 := foldl (fun _ l => ((modLink l _).trans (clearRetrain l)).trans (tell _)) new s
  have h2 : KeepsFenced s s2 :=
    ((h1.trans (foldl (fun _ c => lostPair c) hit s1)).trans (rerouteIdle new)).trans (checkRoute s)
  split
  · exact refl s
  · split
    · exact h2.trans (raiseDomainFault 5)
    · exact h2

theorem takeArrive (dev : Nat) (n : BitVec 32) (b : Bool) : KeepsFenced s (s.takeArrive dev n b) := by
  unfold State.takeArrive
  split <;> exact of_eq rfl rfl rfl rfl rfl

theorem commitNext : KeepsFenced s s.commitNext := by
  unfold State.commitNext
  dsimp only
  split
  · exact of_eq rfl rfl rfl rfl rfl
  · exact refl s

theorem deviceArrive (n : BitVec 32) : KeepsFenced s (s.deviceArrive n) := by
  unfold State.deviceArrive
  dsimp only
  split
  · exact tell _
  · split
    · exact ((takeArrive _ _ _).trans commitNext).trans commitNext
    · split
      · exact raiseDomainFault 4
      · exact sendMsg _

theorem survivorsArrive : KeepsFenced s s.survivorsArrive := by
  refine foldl (fun u n => ?_) _ s
  split
  · exact deviceArrive n
  · exact refl u

end KeepsFenced

/-! ### Lanes, poison and dies -/

namespace State

variable (s : State)

/-- A spare takes the lane; a core that runs below firmware level enters that level with it (R27, R330). -/
theorem execLaneSparing_spare {lane : BitVec 7} {s : State} (hf : s.core.flight = []) (hs : s.core.spares.length < 2) :
    exec (.laneSparing lane) s = .next (if s.core.run = .running ∧ s.pl ≠ 2 then
      s.updCore fun c => Core.enterFirmware { c with spares := c.spares ++ [lane.toNat] } c.pc [] 0
      else s.updCore fun c => { c with spares := c.spares ++ [lane.toNat] }) := by
  show execLaneSparing lane s = _
  by_cases h : s.core.run = .running ∧ s.pl ≠ 2 <;> simp [execLaneSparing, hf, hs, h, State.updCore]

/-- The line of an HBM address is poisoned by its mark (R331). -/
theorem poisoned_execPoison {pa : Nat} (h : pa < hbmBytes) :
    ∃ t, exec (.poison pa) s = .next t ∧ t.poisoned pa = true ∧ t.mem = s.mem ∧ t.core = s.core := by
  have hr : s.region pa = .hbm := if_pos h
  have hb : ¬2 ^ 48 ≤ pa := by
    unfold hbmBytes at h
    omega
  refine ⟨{ s with poison := Sp.put false s.poison (pa / 256 * 256) true }, ?_, ?_, rfl, rfl⟩
  · show execPoison pa s = _
    simp only [execPoison, hb, hr, if_false]
    rfl
  · have hr' : region { s with poison := Sp.put false s.poison (pa / 256 * 256) true } pa = .hbm := if_pos h
    simp [poisoned, hr', poisonUnit]

/-- The machine once the tasks of a die are killed and its cores fenced. -/
def fenceCores (die : Nat) : State :=
  (((s.tasks.filter fun t => t.cores.any fun n => coreDie n == die).map (·.id)).foldl killTask s).modCores
    ((List.range 24).map fun i => die * 24 + i) fun _ c => { c.release with run := .fenced }

/-- The machine once what only the die held is gone too. -/
def withoutDie (die : Nat) : State :=
  { s.fenceCores die with
    deadDies := (s.fenceCores die).deadDies ++ [die]
    undo := (s.fenceCores die).undo.filter fun r => (s.fenceCores die).dieOf r.line != die
    held := (s.fenceCores die).held.filter fun h => h.die != die }

/-- The machine once its die is fenced. -/
def dieFenced (die : Nat) : State :=
  ((((s.withoutDie die).dropSealRequests s).linksLost [3 * die, 3 * die + 1, 3 * die + 2]).survivorsArrive).tell (.vector 67)

variable {s} {die : Nat}

theorem execDieFence_next (h4 : die < 4) (hd : die ∉ s.deadDies) :
    exec (.dieFence die) s = .next (s.dieFenced die) := by
  have hc : ¬(decide (4 ≤ die) || s.deadDies.contains die) = true := by simp [hd]; omega
  show execDieFence die s = _
  simp only [execDieFence, if_neg hc, dieFenced, withoutDie, fenceCores]

theorem mem_withoutDie_deadDies : die ∈ (s.withoutDie die).deadDies := List.mem_append_right _ (List.mem_singleton_self die)

theorem getCore_with_deadDies (t : State) (ds us hs) (n : Nat) :
    getCore { t with deadDies := ds, undo := us, held := hs } n = t.getCore n := rfl

/-- Every core of the die is fenced and runs no task. -/
theorem getCore_withoutDie {n : Nat} (h : n / 24 = die) : ((s.withoutDie die).getCore n).Gone := by
  have hn : n ∈ (List.range 24).map fun i => die * 24 + i :=
    List.mem_map.2 ⟨n % 24, List.mem_range.2 (Nat.mod_lt _ (by decide)), by omega⟩
  have hnd : ((List.range 24).map fun i => die * 24 + i).Nodup := List.nodup_range.map (fun a b e => by simpa using e)
  rw [withoutDie, getCore_with_deadDies, fenceCores, getCore_modCores _ _ _ _ hnd, if_pos hn]
  exact ⟨rfl, rfl⟩

/-- No task with a core on the die is left. -/
theorem cores_withoutDie {x : Task} (h : x ∈ (s.withoutDie die).tasks) {n : Nat} (hn : n ∈ x.cores) : n / 24 ≠ die := by
  intro hdie
  simp only [withoutDie] at h
  rw [fenceCores, modCores_tasks] at h
  obtain ⟨hm, hid⟩ := mem_tasks_of_kills s _ h
  refine hid (List.mem_map.2 ⟨x, List.mem_filter.2 ⟨hm, ?_⟩, rfl⟩)
  exact List.any_eq_true.2 ⟨n, hn, by simpa [coreDie] using hdie⟩

/-- What a fenced die's links and the arrivals of the others bring about keeps the fenced cores. -/
theorem keepsFenced_dieFenced : KeepsFenced (s.withoutDie die) (s.dieFenced die) :=
  (((KeepsFenced.dropSealRequests s).trans (KeepsFenced.linksLost _)).trans KeepsFenced.survivorsArrive).trans (KeepsFenced.tell _)

/-- The HBM of a fenced die reads as poison. -/
theorem poisoned_of_dead {a : Nat} (hd : a / 2 ^ 37 ∈ s.deadDies) (ha : a < hbmBytes) : s.poisoned a = true := by
  have hr : s.region a = .hbm := if_pos ha
  have hl : s.lost a = true := by
    simp only [lost, dieOf, hr]
    simpa using hd
  simp [poisoned, hl]

end State

/-- Settles O49: sparing and poison are their events' one change; after the cores of a die are fenced and their tasks killed, what follows
keeps fenced cores, tasks and fenced dies. -/
theorem lanesPoisonAndDies : Obligations.LanesPoisonAndDies := by
  intro s lane pa die
  refine ⟨fun hf hs hl => ?_, fun hf hs hl hr => ?_, fun hf hs => ?_, s.poisoned_execPoison, fun h4 hd => ?_⟩
  · rw [State.execLaneSparing_spare hf hs, if_neg (by tauto)]
  · rw [State.execLaneSparing_spare hf hs, if_pos ⟨hr, hl⟩]
    exact ⟨_, rfl, rfl, rfl, fieldNat_setField _ 2 (by decide), rfl, rfl, rfl⟩
  · show execLaneSparing lane s = _
    simp [execLaneSparing, Nat.not_lt.2 hs]
  · have hk := State.keepsFenced_dieFenced (s := s) (die := die)
    have hdead : die ∈ (s.dieFenced die).deadDies := by
      rw [hk.dead]
      exact State.mem_withoutDie_deadDies
    refine ⟨_, State.execDieFence_next h4 hd, hdead, fun n hn => hk.gone n (State.getCore_withoutDie hn), fun x hx n hn => ?_,
      fun a ha hdie => State.poisoned_of_dead (by rwa [hdie]) ha⟩
    rw [hk.tasks] at hx
    exact State.cores_withoutDie hx hn

end Sys2Proof.Machine

end

section
/-! PROOFS. The frame of the scalar instructions that touch no memory (O55). -/

namespace Sys2Proof.Machine

open Sys2Proof.Safety

variable {s t : State}

/-! ### What a scalar instruction without memory leaves (R84) -/

/-- The second state differs from the first at most in the x registers, the pc, INSTRET and the machine checks not yet retired past. -/
structure KeepsRest (s t : State) : Prop where
  outside : SameOutside s t
  beside : SameBeside s.core t.core
  flags : t.core.flags = s.core.flags

theorem SameBeside.trans {c d e : Core} (h : SameBeside c d) (g : SameBeside d e) : SameBeside c e := by
  unfold SameBeside at *
  rw [g, h]

theorem Core.sameBeside_setReg (c : Core) (n : Nat) (v : Word) : SameBeside c (c.setReg n v) := by
  unfold Core.setReg
  split <;> rfl

namespace KeepsRest

theorem refl (s : State) : KeepsRest s s := ⟨rfl, rfl, rfl⟩

/-- A change of the core keeps the rest when it keeps the rest of the core. -/
theorem updCore (h : KeepsRest s t) {f : Core → Core} (hb : SameBeside t.core (f t.core)) (hf : (f t.core).flags = t.core.flags) :
    KeepsRest s (t.updCore f) where
  outside := by
    have ho := h.outside
    unfold SameOutside at *
    rw [ho]
    rfl
  beside := SameBeside.trans h.beside hb
  flags := hf.trans h.flags

theorem setReg (h : KeepsRest s t) (d : Reg) (v : Word) : KeepsRest s (t.setReg d v) :=
  h.updCore (t.core.sameBeside_setReg _ v) (t.core.setReg_flags _ v)

theorem setPc (h : KeepsRest s t) (v : Word) : KeepsRest s (t.setPc v) := h.updCore rfl rfl

theorem retire (h : KeepsRest s t) : KeepsRest s t.retire := h.updCore rfl rfl

theorem advance (h : KeepsRest s t) (n : Nat) : KeepsRest s (t.advance n) := h.updCore rfl rfl

/-- Memory and the held stores lie outside the core, and no byte is read from elsewhere. -/
theorem byte_eq (h : KeepsRest s t) (a : Nat) : byte t a = byte s a := by
  rw [h.outside]
  rfl

end KeepsRest

theorem State.reg_setReg_ne {d r : Reg} (h : r ≠ d) (v : Word) : (s.setReg d v).reg r = s.reg r :=
  s.core.getReg_setReg_ne _ _ v fun e => h (BitVec.eq_of_toNat_eq e)

/-! ### The forms (R91 to R96) -/

/-- An instruction of the ALU, MULDIV and immediate forms writes its register and moves on; jal and jalr write it and jump. -/
theorem exec_of_writesOnly {i : Instr} {d : Reg} (hd : writesOnly i = some d) :
    (∃ rs v len, exec i s = s.slotAWrite rs d v len) ∨
    ∃ (rs : List Reg) (target : State → Word), exec i s = s.slotA rs fun s => s.jump d (target s) := by
  unfold writesOnly at hd
  split at hd
  case h_43 | h_44 => -- jal and jalr
    cases hd
    unfold exec
    exact .inr ⟨_, _, rfl⟩
  case h_47 => cases hd -- another instruction
  all_goals
    cases hd
    exact .inl ⟨_, _, _, rfl⟩

/-- A branch looks at its two registers, h.bz and h.bnz at one and h.j at none. -/
theorem exec_of_onlyBranches {i : Instr} (hb : onlyBranches i = true) :
    (∃ a b imm f, exec i s = s.branch2 a b imm f) ∨
    (∃ (a : Reg) (taken : State → Bool) (off : Word), exec i s = s.slotA [a] fun s => s.branch (taken s) off 2) ∨
    ∃ off, exec i s = s.branch true off 2 := by
  unfold onlyBranches at hb
  split at hb
  case h_7 | h_8 => -- h.bz and h.bnz
    unfold exec
    exact .inr (.inl ⟨_, _, _, rfl⟩)
  case h_9 => -- h.j
    exact .inr (.inr ⟨_, rfl⟩)
  case h_10 => cases hb -- no branch
  all_goals
    unfold exec
    exact .inl ⟨_, _, _, _, rfl⟩

/-- The next state of a write: the same, or the register written and the pc moved on or at a target. -/
theorem next_of_writesOnly {i : Instr} {d : Reg} (hd : writesOnly i = some d) (h : exec i s = .next t) :
    t = s ∨ (∃ v len, t = (s.setReg d v).advance len) ∨ ∃ v target, t = ((s.setReg d v).setPc target).retire := by
  obtain ⟨rs, v, len, e⟩ | ⟨rs, target, e⟩ := exec_of_writesOnly (s := s) hd <;> rw [e] at h
  · exact (State.slotAWrite_cases s h).imp_right fun ht => .inl ⟨v, len, ht⟩
  · obtain e | e := s.slotA_cases rs fun s => s.jump d (target s) <;> rw [e] at h <;> cases h
    · exact .inl rfl
    · exact .inr (.inr ⟨_, _, rfl⟩)

/-- The next state of a branch: the same where it stalls, or the pc at its target or moved on. -/
def Branched (s t : State) : Prop := t = s ∨ (∃ target, t = (s.setPc target).retire) ∨ ∃ len, t = s.advance len

theorem branched_of_branch {taken : Bool} {off : Word} {len : Nat} (h : s.branch taken off len = .next t) : Branched s t := by
  cases h
  cases taken
  · exact .inr (.inr ⟨len, rfl⟩)
  · exact .inr (.inl ⟨_, rfl⟩)

theorem branched_of_slotA {rs : List Reg} {taken : State → Bool} {off : Word} {len : Nat}
    (h : (s.slotA rs fun s => s.branch (taken s) off len) = .next t) : Branched s t := by
  obtain e | e := s.slotA_cases rs fun s => s.branch (taken s) off len <;> rw [e] at h
  · cases h
    exact .inl rfl
  · exact branched_of_branch h

theorem branched_of_onlyBranches {i : Instr} (hb : onlyBranches i = true) (h : exec i s = .next t) : Branched s t := by
  obtain ⟨a, b, imm, f, e⟩ | ⟨a, taken, off, e⟩ | ⟨off, e⟩ := exec_of_onlyBranches (s := s) hb <;> rw [e] at h
  · exact branched_of_slotA h
  · exact branched_of_slotA h
  · exact branched_of_branch h

theorem keepsRest_of_writesOnly {i : Instr} {d : Reg} (hd : writesOnly i = some d) (h : exec i s = .next t) :
    KeepsRest s t ∧ ∀ r, r ≠ d → t.reg r = s.reg r := by
  obtain rfl | ⟨v, len, rfl⟩ | ⟨v, target, rfl⟩ := next_of_writesOnly hd h
  · exact ⟨.refl t, fun _ _ => rfl⟩
  · exact ⟨((KeepsRest.refl s).setReg d v).advance len, fun r hr => State.reg_setReg_ne hr v⟩
  · exact ⟨(((KeepsRest.refl s).setReg d v).setPc target).retire, fun r hr => State.reg_setReg_ne hr v⟩

theorem keepsRest_of_onlyBranches {i : Instr} (hb : onlyBranches i = true) (h : exec i s = .next t) :
    KeepsRest s t ∧ t.core.regs = s.core.regs := by
  obtain rfl | ⟨target, rfl⟩ | ⟨len, rfl⟩ := branched_of_onlyBranches hb h
  · exact ⟨.refl t, rfl⟩
  · exact ⟨((KeepsRest.refl s).setPc target).retire, rfl⟩
  · exact ⟨(KeepsRest.refl s).advance len, rfl⟩

/-- Settles O55: each form stalls, or it writes at most its register, the pc and INSTRET, and each of these writes keeps the rest. -/
theorem scalarFrame : Obligations.ScalarFrame := by
  intro s t i h
  refine ⟨fun d hd => ?_, fun hb => ?_⟩
  · obtain ⟨hk, hr⟩ := keepsRest_of_writesOnly hd h
    exact ⟨hk.outside, hk.beside, hk.flags, hr, hk.byte_eq⟩
  · obtain ⟨hk, hr⟩ := keepsRest_of_onlyBranches hb h
    exact ⟨hk.outside, hk.beside, hk.flags, hr, hk.byte_eq⟩

end Sys2Proof.Machine

end

section
/-! PROOFS. The machine at reset (O59). -/

namespace Sys2Proof.Machine

open Sys2Proof.Safety

/-! ### What reset holds, accessor by accessor -/

/-- A vector of copies of the default reads it at every index, in bounds or not. -/
theorem vector_getD_replicate {α : Type} (n i : Nat) (x : α) : (Vector.replicate n x).getD i x = x := by
  simp only [Vector.getD, Vector.toArray_replicate, Array.getD_eq_getD_getElem?, Array.getElem?_replicate]
  split <;> rfl

namespace State

theorem getCore_reset (n : Nat) : State.reset.getCore n = Core.init := by
  unfold getCore
  split <;> rfl

theorem getPart_reset (p : Nat) : State.reset.getPart p = Partition.init :=
  vector_getD_replicate 16 p Partition.init

theorem getQueue_reset (p q : Nat) : State.reset.getQueue p q = LQueue.init := by
  rw [getQueue, getPart_reset]
  exact vector_getD_replicate 8 q LQueue.init

theorem linkstat_reset (l : Nat) : linkstat (State.reset.links.getD l Link.init) = 0 := by
  have h : State.reset.links.getD l Link.init = Link.init := vector_getD_replicate 12 l Link.init
  rw [h]
  rfl

/-- A share of 0 MiB counts as full (assumption log 68). -/
theorem fullest_reset : State.reset.fullest = 100 := by
  simp [fullest, share, getPart_reset, Partition.init]

theorem sealstat_reset : State.reset.sealstat = 0x640000 := by
  simp only [sealstat, fullest_reset, getPart_reset]
  rfl

end State

theorem runsInDomain_reset : RunsInDomain State.reset := fun _ _ _ => rfl

theorem coreLevels_init : CoreLevels Core.init := by
  unfold CoreLevels
  decide

theorem levelsLegal_reset : LevelsLegal State.reset :=
  ⟨fun n => by rw [State.getCore_reset]; exact coreLevels_init, fun _ ht => absurd ht List.not_mem_nil⟩

/-- Settles O59: the registers of the core are those of its initial record, and so are those of every partition, queue and link; SEALSTAT follows
from shares of 0 MiB, and the domain is in RUN. -/
theorem resetValues : Obligations.ResetValues := by
  unfold Obligations.ResetValues
  refine ⟨rfl, rfl, rfl, rfl, rfl, rfl, rfl, rfl, rfl, rfl, rfl, rfl, rfl, rfl, rfl, rfl, rfl, rfl, rfl, rfl, rfl, rfl, rfl, rfl, rfl, rfl,
    State.sealstat_reset, rfl, rfl, fun p _ => ?_, fun l _ => State.linkstat_reset l, rfl, runsInDomain_reset, levelsLegal_reset,
    memoryWf_reset, fun _ => rfl⟩
  simp [State.getPart_reset, State.getQueue_reset, Partition.init, LQueue.init]

end Sys2Proof.Machine

end

section
/-! PROOFS. The grid: what the writes of rows, of single cells and of the vectors of a window leave in each cell (R114 to R124). -/

namespace Sys2Proof.Machine

open Sys2Proof.Safety

namespace Grid

variable (g : Grid) (h r c k q d : Nat)

theorem key_eq_iff : key h r = key k q ↔ h % 2 = k % 2 ∧ r % 128 = q % 128 := by
  unfold key
  omega

theorem row_setRow (x : GridRow) :
    (g.setRow h r x).row k q = if k % 2 = h % 2 ∧ q % 128 = r % 128 then x else g.row k q := by
  unfold row setRow
  split
  case isTrue e => rw [(key_eq_iff k q h r).2 e, Sp.get_put_same]
  case isFalse e => exact Sp.get_put_other _ _ _ fun he => e ((key_eq_iff k q h r).1 he)

/-- The cell of a row that has been set is that of the new row. -/
theorem cell_setRow (x : GridRow) : (g.setRow h r x).cell k q c =
    if k % 2 = h % 2 ∧ q % 128 = r % 128 then (if x.valid then x.cells.getD (c % 128) 0 else 0) else g.cell k q c := by
  unfold cell
  rw [row_setRow]
  split <;> rfl

/-- A row counts by its number modulo 128 and its half modulo 2, a cell by its column modulo 128. -/
theorem cell_congr (hk : k % 2 = h % 2) (hq : q % 128 = r % 128) (hd : d % 128 = c % 128) : g.cell k q d = g.cell h r c := by
  unfold cell row
  rw [(key_eq_iff k q h r).2 ⟨hk, hq⟩, hd]

/-- The cells of a row that is set valid. -/
theorem cell_setRow_ofFn (x y : Bool) (f : Fin 128 → Cell) : (g.setRow h r ⟨true, x, y, Vector.ofFn f⟩).cell k q c =
    if k % 2 = h % 2 ∧ q % 128 = r % 128 then f ⟨c % 128, Nat.mod_lt _ (by decide)⟩ else g.cell k q c := by
  have hc : c % 128 < 128 := Nat.mod_lt _ (by decide)
  rw [cell_setRow]
  refine if_congr Iff.rfl ?_ rfl
  simp [Vector.getD, Array.getD_eq_getD_getElem?, hc]

/-- What a row holds at a column, zero where it is invalid. -/
theorem cells_eq_cell :
    (if (g.row h r).valid then (g.row h r).cells[(⟨c % 128, Nat.mod_lt _ (by decide)⟩ : Fin 128)] else 0) = g.cell h r c := by
  have hc : c % 128 < 128 := Nat.mod_lt _ (by decide)
  simp [cell, Vector.getD, Array.getD_eq_getD_getElem?, hc]

/-- A row write gives the cells that it names and leaves every other (R124). -/
theorem cell_writeRow (f : Nat → Option Cell) : (g.writeRow h r f).cell k q c =
    if k % 2 = h % 2 ∧ q % 128 = r % 128 then (f (c % 128)).getD (g.cell k q c) else g.cell k q c := by
  have hc : c % 128 < 128 := Nat.mod_lt _ (by decide)
  unfold writeRow
  split
  case isTrue =>
    simp only [cell_setRow_ofFn, cells_eq_cell]
    split
    case isTrue e => rw [cell_congr g h r c k q c e.1 e.2 rfl]
    case isFalse => rfl
  case isFalse hn =>
    have hf : f (c % 128) = none := by
      by_contra he
      exact hn (List.any_eq_true.2 ⟨c % 128, List.mem_range.2 hc, Option.isSome_iff_ne_none.2 he⟩)
    simp [hf]

/-- A cell write changes that cell alone. -/
theorem cell_writeCell (v : Cell) : (g.writeCell h r c v).cell k q d =
    if (k % 2 = h % 2 ∧ q % 128 = r % 128) ∧ d % 128 = c % 128 then v else g.cell k q d := by
  simp only [writeCell, cell_setRow_ofFn, cells_eq_cell, ite_and (k % 2 = h % 2 ∧ q % 128 = r % 128)]
  split
  case isTrue e => rw [cell_congr g h r d k q d e.1 e.2 rfl]
  case isFalse => rfl

end Grid

namespace Window

variable (w : Window) (g : Grid) (v h r c j : Nat)

theorem base_lt : w.base v < 128 := by
  unfold base
  omega

/-- The element of vector `v` that stands at a row and a column of the window's half (R117). -/
def elemAt : Option Nat :=
  match w.mode with
  | .row => if r = w.base v then some c else none
  | .col => if c = w.base v then some r else none
  | .diag => if c = (r + w.base v) % 128 then some r else none

theorem elemAt_of_not_row (hm : w.mode ≠ .row) : w.elemAt v r c = if c = w.colOf v r then some r else none := by
  unfold elemAt colOf
  cases h : w.mode
  case row => exact absurd h hm
  case col => rfl
  case diag => rfl

/-- Where element `j` stands. -/
theorem elemAt_place : w.elemAt v (w.rowOf v j) (w.colOf v j) = some j := by
  unfold elemAt rowOf colOf
  cases w.mode <;> simp

theorem rowOf_lt (hj : j < 128) : w.rowOf v j < 128 := by
  have := w.base_lt v
  unfold rowOf
  cases w.mode <;> assumption

theorem colOf_lt (hj : j < 128) : w.colOf v j < 128 := by
  have := w.base_lt v
  unfold colOf
  cases w.mode
  case diag => exact Nat.mod_lt _ (by decide)
  all_goals assumption

/-- One element of a vector whose elements are written cell by cell. -/
def putElem (f : Nat → Option Cell) (g : Grid) (j : Nat) : Grid :=
  match f j with
  | some x => g.writeCell w.half (w.rowOf v j) (w.colOf v j) x
  | none => g

theorem write_of_row (f : Nat → Option Cell) (hm : w.mode = .row) : w.write g v f = g.writeRow w.half (w.base v) f := by
  unfold write
  simp only [hm]

theorem write_of_not_row (f : Nat → Option Cell) (hm : w.mode ≠ .row) : w.write g v f = (List.range 128).foldl (w.putElem v f) g := by
  unfold write
  cases h : w.mode
  case row => exact absurd h hm
  case col => rfl
  case diag => rfl

theorem rowOf_of_not_row (hm : w.mode ≠ .row) : w.rowOf v j = j := by
  unfold rowOf
  cases h : w.mode
  case row => exact absurd h hm
  case col => rfl
  case diag => rfl

theorem cell_putElem (f : Nat → Option Cell) (hm : w.mode ≠ .row) (hj : j < 128) (hr : r < 128) (hc : c < 128) :
    (w.putElem v f g j).cell h r c =
      if h % 2 = w.half % 2 ∧ r = j ∧ c = w.colOf v j then (f j).getD (g.cell h r c) else g.cell h r c := by
  have hcol := w.colOf_lt v j hj
  unfold putElem
  cases f j with
  | none => exact (ite_self _).symm
  | some x =>
    simp only [Grid.cell_writeCell, w.rowOf_of_not_row v j hm, Nat.mod_eq_of_lt hr, Nat.mod_eq_of_lt hc, Nat.mod_eq_of_lt hcol,
      Nat.mod_eq_of_lt hj, and_assoc]
    rfl

/-- The first `n` elements of a vector whose elements stand in rows of their own. -/
theorem cell_foldl_putElem (f : Nat → Option Cell) (n : Nat) (hm : w.mode ≠ .row) (hn : n ≤ 128) (hr : r < 128) (hc : c < 128) :
    ((List.range n).foldl (w.putElem v f) g).cell h r c =
      if h % 2 = w.half % 2 ∧ r < n ∧ c = w.colOf v r then (f r).getD (g.cell h r c) else g.cell h r c := by
  induction n with
  | zero => simp
  | succ n ih =>
    rw [List.range_succ, List.foldl_concat, cell_putElem _ _ _ _ _ _ _ _ hm hn hr hc, ih (by omega)]
    rcases Nat.lt_trichotomy r n with hlt | rfl | hgt
    · have h1 : r ≠ n := by omega
      have h2 : r < n + 1 := by omega
      simp [hlt, h1, h2]
    · simp
    · have h1 : r ≠ n := by omega
      have h2 : ¬r < n + 1 := by omega
      have h3 : ¬r < n := by omega
      simp [h1, h2, h3]

/-- A vector write gives the cells of the elements that it names and leaves every other (R117, R124). -/
theorem cell_write (f : Nat → Option Cell) (hr : r < 128) (hc : c < 128) : (w.write g v f).cell h r c =
    if h % 2 = w.half % 2 then ((w.elemAt v r c).bind f).getD (g.cell h r c) else g.cell h r c := by
  by_cases hm : w.mode = .row
  · have hb := w.base_lt v
    have e : w.elemAt v r c = if r = w.base v then some c else none := by simp [elemAt, hm]
    rw [e, w.write_of_row g v f hm, Grid.cell_writeRow, Nat.mod_eq_of_lt hc, Nat.mod_eq_of_lt hr, Nat.mod_eq_of_lt hb, ite_and]
    by_cases hrb : r = w.base v <;> simp [hrb]
  · rw [w.write_of_not_row g v f hm, cell_foldl_putElem w g v h r c f 128 hm (Nat.le_refl _) hr hc, w.elemAt_of_not_row v r c hm, ite_and]
    by_cases hcr : c = w.colOf v r <;> simp [hcr, hr]

/-- The cell behind element `j` of vector `n` (R117). -/
def cellAt (n : Nat) : Cell := g.cell w.half (w.rowOf n j) (w.colOf n j)

theorem read_eq_cellAt : w.read g v j = w.cellAt g j (if w.count = 1 then 0 else v) := rfl

/-- What a vector write names reads back, and its other elements stay (R124). -/
theorem cellAt_write (f : Nat → Option Cell) (hj : j < 128) : w.cellAt (w.write g v f) j v = (f j).getD (w.cellAt g j v) := by
  unfold cellAt
  rw [cell_write _ _ _ _ _ _ _ (w.rowOf_lt v j hj) (w.colOf_lt v j hj), if_pos rfl, elemAt_place]
  rfl

end Window

end Sys2Proof.Machine

end

section
/-! PROOFS. Masks, bit by bit (R133, R135, R138). -/

namespace Sys2Proof.Machine

open Sys2Proof.Safety

theorem bitNat_eq_testBit (w i : Nat) : bitNat w i = w.testBit i := by
  rw [bitNat, Nat.testBit_eq_decide_div_mod_eq, Nat.shiftRight_eq_div_pow]
  rfl

theorem active_eq (m : Mask) (j : Nat) : active m j = m.getLsbD j := bitNat_eq_testBit m.toNat j

theorem testBit_packBits_one (l : List Bool) (j : Nat) : (packBits 1 (l.map natOfBool)).testBit j = l.getD j false := by
  induction l generalizing j with
  | nil => simp [packBits]
  | cons b l ih =>
    have hb : natOfBool b % 2 ^ 1 = natOfBool b := by cases b <;> rfl
    have hs : packBits 1 (l.map natOfBool) <<< 1 = 2 * packBits 1 (l.map natOfBool) := by rw [Nat.shiftLeft_eq]; omega
    have hl : natOfBool b < 2 := by cases b <;> decide
    simp only [List.map_cons, packBits, hb, hs]
    cases j with
    | zero => cases b <;> simp [natOfBool, Nat.testBit_zero]
    | succ j =>
      rw [Nat.testBit_succ, Nat.add_mul_div_left _ _ Nat.two_pos, Nat.div_eq_of_lt hl, Nat.zero_add, ih]
      rfl

theorem testBit_packBits_range (f : Nat → Bool) (n j : Nat) :
    (packBits 1 ((List.range n).map fun i => natOfBool (f i))).testBit j = (decide (j < n) && f j) := by
  have h := testBit_packBits_one ((List.range n).map f) j
  rw [List.map_map] at h
  rw [show ((List.range n).map fun i => natOfBool (f i)) = (List.range n).map (natOfBool ∘ f) from rfl, h]
  by_cases hj : j < n <;> simp [List.getD_eq_getElem?_getD, hj]

theorem getLsbD_maskOf (f : Nat → Bool) (j : Nat) : (maskOf f).getLsbD j = (decide (j < 128) && f j) := by
  rw [maskOf, BitVec.getLsbD_ofNat, testBit_packBits_range]
  cases decide (j < 128) <;> rfl

theorem countBits_eq (w n : Nat) : countBits w n = ((List.range n).filter fun i => w.testBit i).length := by
  induction n with
  | zero => rfl
  | succ n ih =>
    rw [countBits, ih, List.range_succ, List.filter_append, List.length_append, bitNat_eq_testBit]
    cases h : w.testBit n <;> simp [natOfBool, h]

/-- The search finds the first bit that is set. -/
theorem lowestBit_eq (w fuel j i : Nat) (hi : i ≤ fuel) (h0 : ∀ k < i, w.testBit (j + k) = false)
    (h1 : i < fuel → w.testBit (j + i) = true) : lowestBit w fuel j = if i < fuel then some (j + i) else none := by
  induction fuel generalizing j i with
  | zero => simp [lowestBit]
  | succ fuel ih =>
    rw [lowestBit, bitNat_eq_testBit]
    cases i with
    | zero =>
      have h := h1 (by omega)
      simp only [Nat.add_zero] at h
      simp [h]
    | succ i =>
      have h := h0 0 (by omega)
      simp only [Nat.add_zero] at h
      rw [if_neg (by simp [h]), ih (j + 1) i (by omega)]
      · simp only [Nat.add_lt_add_iff_right, show j + 1 + i = j + (i + 1) by omega]
      · intro k hk
        rw [show j + 1 + k = j + (k + 1) by omega]
        exact h0 _ (by omega)
      · intro hk
        rw [show j + 1 + i = j + (i + 1) by omega]
        exact h1 (by omega)

/-- The active elements of a vector, by position. -/
theorem getD_gather (m : Mask) (f : Nat → Nat × Fl) (j : Nat) :
    (gather m f).getD j none = if m.getLsbD j then some (f j) else none := by
  unfold gather
  by_cases hj : j < 128
  · simp [List.getD_eq_getElem?_getD, hj, active_eq]
  · have : m.getLsbD j = false := BitVec.getLsbD_of_ge m j (by omega)
    simp [List.getD_eq_getElem?_getD, hj, this]

/-! ### What a mask instruction gives (R135) -/

theorem getLsbD_kopMask_bound (a b : Mask) (x y : Word) {j : Nat} (hj : j < 128) :
    (kopMask .bound a b x y).getLsbD j = decide (x.toInt + (j : Int) < y.toInt) := by
  rw [kopMask, getLsbD_maskOf, decide_eq_true hj, Bool.true_and]

theorem kopWord_pop (m : Mask) : kopWord .pop m = BitVec.ofNat 64 ((List.range 128).filter fun i => m.getLsbD i).length := by
  rw [kopWord, countBits_eq]
  rfl

/-- kfirst gives the first set bit, and 128 where there is none. -/
theorem kopWord_first {m : Mask} {i : Nat} (hi : i ≤ 128) (h0 : ∀ j < i, m.getLsbD j = false) (h1 : i < 128 → m.getLsbD i = true) :
    kopWord .first m = BitVec.ofNat 64 i := by
  have h := lowestBit_eq m.toNat 128 0 i hi (fun k hk => by rw [Nat.zero_add]; exact h0 k hk) fun hk => by rw [Nat.zero_add]; exact h1 hk
  rw [kopWord, h, Nat.zero_add]
  split
  · rfl
  · rw [show i = 128 by omega]
    rfl

theorem kopWord_getl (m : Mask) : kopWord .getl m = m.setWidth 64 := by
  apply BitVec.eq_of_getLsbD_eq
  intro i hi
  simp [kopWord, bits, hi]

theorem kopWord_geth (m : Mask) : kopWord .geth m = (m >>> 64).setWidth 64 := by
  apply BitVec.eq_of_getLsbD_eq
  intro i hi
  simp [kopWord, bits, hi]

end Sys2Proof.Machine

end

section
/-! PROOFS. One unit of the only entry outside the GIQ, in the window pipe and at the port; the mask instructions where the grid side moves at
once (O19). -/

namespace Sys2Proof.Machine

open Sys2Proof.Safety

/-! ### One unit of the only entry outside the GIQ (R19 to R22, R125) -/

section Unit

variable {s t : State} {e e0 e1 : Entry} {p : GOp → Bool}

/-- Where no row is absent, none is fetched. -/
theorem State.fetchRows_of_noAbsent (hn : NoAbsent s) (l : List Nat) : s.fetchRows l = (s, none) := by
  induction l with
  | nil => rfl
  | cons k l ih => simp [State.fetchRows, State.fetchRow, hn (k / 128) (k % 128), ih]

/-- An entry that nothing stopped does its unit behind the fetch of its rows. -/
theorem State.stepEntry_of_fetchRows {g : Bool} {chk : Check} (hs : e.stop = .none)
    (hf : s.fetchRows (if isSave e.op then [] else e.demands) = (s, none)) : s.stepEntry [] g chk e = s.runUnit [] g chk e := by
  have he : ({ e with stop := if e.stop == .wait then .none else e.stop } : Entry) = e := by
    rw [hs]
    exact congrArg (fun x => ({ e with stop := x } : Entry)) hs.symm
  simp only [State.stepEntry, he, hf]

theorem State.stepEntry_of_noAbsent {g : Bool} {chk : Check} (hs : e.stop = .none) (hn : NoAbsent s) :
    s.stepEntry [] g chk e = s.runUnit [] g chk e :=
  stepEntry_of_fetchRows hs (fetchRows_of_noAbsent hn _)

theorem State.stepEntry_of_demands {g : Bool} {chk : Check} (hs : e.stop = .none) (hd : e.demands = []) :
    s.stepEntry [] g chk e = s.runUnit [] g chk e :=
  stepEntry_of_fetchRows hs (by rw [hd, ite_self]; rfl)

/-- The event of its kind does one unit of it, and what has completed retires. -/
theorem State.runKind_of_stepEntry {r : RunRes} (h : Alone s e) (hp : p e.op = true) (hu : s.stepEntry [] true .pass e = (t, r))
    (hr : ∀ e1 f, r ≠ .fault e1 f) : s.runKind p = .next ((t.noteRun 0 r).updCore Core.retireFin) := by
  have hf : s.core.flight = [e] := h.1
  simp only [State.runKind, State.runOldest, State.oldest_alone h hp, hf, List.getElem?_cons_zero, State.goesOn_alone h, glsCheck_pass,
    List.take_zero, hu, Bool.not_true, Bool.false_eq_true, if_false]
  cases r with
  | fault e1 f => exact absurd rfl (hr e1 f)
  | done e1 | more e1 | wait e1 => rfl

/-- The flags of the only entry, as its last unit leaves it, merge, and it is gone. -/
theorem Core.retireFin_completed {c : Core} (hf : c.flight = [e0]) :
    (c.setFlight 0 { e with fin := true }).retireFin = { c.retireEntry e with flight := [] } := by
  simp [Core.retireFin, Core.setFlight, Core.popFin, hf, Core.retireEntry, Core.mergeFlags]

theorem Core.retireFin_unfinished {c : Core} (hf : c.flight = [e0]) (hn : e1.fin = false) :
    (c.setFlight 0 e1).retireFin = { c with flight := [e1] } := by
  simp [Core.retireFin, Core.setFlight, Core.popFin, hf, hn]

theorem State.runKind_completes (h : Alone s e) (hp : p e.op = true) (hu : s.stepEntry [] true .pass e = (t, .done e1))
    (hf : t.core.flight = [e]) : s.runKind p = .next (retired t e1) := by
  rw [State.runKind_of_stepEntry h hp hu (by simp)]
  exact congrArg (fun c => Host.Outcome.next { t with core := c }) (Core.retireFin_completed hf)

theorem State.runKind_goesOn (h : Alone s e) (hp : p e.op = true) (hu : s.stepEntry [] true .pass e = (t, .more e1))
    (hf : t.core.flight = [e]) (hn : e1.fin = false) : s.runKind p = .next (still t e1) := by
  rw [State.runKind_of_stepEntry h hp hu (by simp)]
  exact congrArg (fun c => Host.Outcome.next { t with core := c }) (Core.retireFin_unfinished hf hn)

/-- The window pipe completes the entry. -/
theorem windowPipe_done (h : Alone s e) (hn : NoAbsent s) (hp : e.op.pipe = 1) (hu : s.runUnit [] true .pass e = (t, .done e1))
    (hf : t.core.flight = [e]) : exec (.windowPipeVector .pass) s = .next (retired t e1) :=
  State.runKind_completes (p := fun o => o.pipe == 1) h (by rw [hp]; rfl) ((State.stepEntry_of_noAbsent h.2.2.1 hn).trans hu) hf

/-- The window pipe leaves more of the entry to do. -/
theorem windowPipe_more (h : Alone s e) (hn : NoAbsent s) (hp : e.op.pipe = 1) (hu : s.runUnit [] true .pass e = (t, .more e1))
    (hf : t.core.flight = [e]) (hx : e1.fin = false) : exec (.windowPipeVector .pass) s = .next (still t e1) :=
  State.runKind_goesOn (p := fun o => o.pipe == 1) h (by rw [hp]; rfl) ((State.stepEntry_of_noAbsent h.2.2.1 hn).trans hu) hf hx

/-- A retired entry counts by its instruction, its address and its flags alone. -/
theorem retired_congr (ho : e1.op = e.op) (hc : e1.pc = e.pc) (hl : e1.fl = e.fl) : retired t e1 = retired t e := by
  simp only [retired, Core.retireEntry, ho, hc, hl]

end Unit

/-! ### The grid side moves at once (R14, R19, R20) -/

section Pump

variable {s : State} {e : Entry} {n : Nat}

theorem State.pumpCmds_of_no_cmds (h : s.cmds = []) : s.pumpCmds = s := by simp [State.pumpCmds, h]

theorem State.fillAll_of_no_streams (h : s.core.streams = []) : s.fillAll = s := by simp [State.fillAll, h]

theorem Core.retireFin_of_no_flight {c : Core} (h : c.flight = []) : c.retireFin = c := by simp [Core.retireFin, h, Core.popFin]

/-- The state once the only entry of the GIQ has left it. -/
def State.withFlight (s : State) (e : Entry) : State := s.updCore fun c => { c with giq := [], flight := [e] }

/-- The round in which the head of the GIQ leaves an empty grid side. -/
theorem State.pumpGiq_departs (hs : s.core.streams = []) (hf : s.core.flight = []) (hg : s.core.giq = [e]) :
    s.pumpGiq true false (n + 1) = (s.withFlight e).pumpGiq true false n := by
  have hl : (s.withFlight e).core.left ≠ s.core.left := by simp [State.withFlight, Core.left, hf, hg]
  have hd : s.departHead false = s.withFlight e := State.departHead_of_empty hg hf
  have hr : s.updCore Core.retireFin = s := by
    rw [State.updCore, Core.retireFin_of_no_flight hf]
  simp only [State.pumpGiq, State.fillAll_of_no_streams hs, hf, List.length_nil, State.runFlight, hr, if_true,
    hd, beq_eq_false_iff_ne.2 hl, Bool.false_eq_true, if_false]

/-- A round with nothing to do is the last. -/
theorem State.pumpGiq_idle (hs : s.core.streams = []) (hf : s.core.flight = []) (hg : s.core.giq = []) :
    s.pumpGiq true false (n + 1) = (s, none) := by
  have hr : s.updCore Core.retireFin = s := by
    rw [State.updCore, Core.retireFin_of_no_flight hf]
  simp [State.pumpGiq, State.fillAll_of_no_streams hs, hf, State.runFlight, hr, State.departHead, hg]

/-- The only entry outside the GIQ, with no stream outstanding, goes on whether or not a trap drains. -/
theorem State.canStart_of_no_streams (h : s.core.streams = []) : s.canStart [] e = true := by
  simp [State.canStart, claimsFree, State.streamAhead, h]

/-- The round in which the only entry completes. -/
theorem State.pumpGiq_completes {t : State} (hs : s.core.streams = []) (hf : s.core.flight = [e]) (hg : s.core.giq = []) (hfin : e.fin = false)
    (hstop : e.stop = .none) (hu : s.stepEntry [] (!s.lagEng) .pass e = (t, .done e)) (htf : t.core.flight = [e]) (htg : t.core.giq = []) :
    s.pumpGiq true false (n + 1) = (retired t e).pumpGiq true false n := by
  have hcan : s.canStart [] e = true := State.canStart_of_no_streams hs
  have hgo : s.goesOn 0 e = true := by simp [State.goesOn, hfin, Entry.faulted, hstop, hcan]
  have hrun : s.runEntry [] (!s.lagEng) e (259 + 1) = (t, .done e) := by simp only [State.runEntry, hcan, if_true, hu]
  have hflight : s.runFlight false 0 1 = (t.noteRun 0 (.done e), none) := by simp [State.runFlight, hf, hgo, State.unitFuel, hrun]
  have hret : (t.noteRun 0 (.done e)).updCore Core.retireFin = retired t e :=
    congrArg (fun c => { t with core := c }) (Core.retireFin_completed htf)
  have hdep : (retired t e).departHead false = retired t e := by
    have : (retired t e).core.giq = [] := htg
    simp [State.departHead, this]
  have hl : (retired t e).core.left ≠ s.core.left := by simp [Core.left, retired, hf, hfin, hg]
  simp only [State.pumpGiq, State.fillAll_of_no_streams hs, hf, List.length_cons, List.length_nil, Nat.zero_add, hflight, hret, if_true, hdep,
    beq_eq_false_iff_ne.2 hl, Bool.false_eq_true, if_false]

/-- Where nothing else is outstanding and the grid side moves at once, an entry of the GIQ leaves it, does its work and retires before its
dispatch is over. -/
theorem State.andPump_completes {t : State} (hl : s.lagGrid = false) (hs : s.core.streams = []) (hf : s.core.flight = [])
    (hg : s.core.giq = [e]) (hc : s.cmds = []) (hfin : e.fin = false) (hstop : e.stop = .none)
    (hu : (s.withFlight e).stepEntry [] (!s.lagEng) .pass e = (t, .done e))
    (htf : t.core.flight = [e]) (htg : t.core.giq = []) (hts : t.core.streams = []) (htc : t.cmds = []) :
    s.andPump = .next (retired t e) := by
  have hfuel : s.pumpFuel = 1 + 1 + 1 + 1 := by simp [State.pumpFuel, hf, hg]
  have hpump : s.pumpGiq true false s.pumpFuel = (retired t e, none) := by
    rw [hfuel, State.pumpGiq_departs hs hf hg, State.pumpGiq_completes (s := s.withFlight e) hs rfl rfl hfin hstop hu htf htg]
    exact State.pumpGiq_idle hts rfl htg
  simp [State.andPump, State.pumpAll, State.pumpCmds_of_no_cmds hc, hl, hpump, State.pumpCmds_of_no_cmds (s := retired t e) htc]

end Pump

/-! ### The mask instructions (R135) -/

theorem kop_demands {e : Entry} {op : KOp} {d a b : Nat} {x y : Word} (h : e.op = .kop op d a b x y) : e.demands = [] := by
  have hw : ∀ k ∈ e.unitWrites ++ e.unitReads, ¬k < 256 := by
    simp only [Entry.unitWrites, Entry.unitReads, Entry.writes, Entry.reads, h]
    cases op <;> simp [KOp.toReg, maskClaim]
  simp only [Entry.demands, h]
  exact List.filter_eq_nil_iff.2 fun k hk => by simpa using hw k hk

/-- The entry of a mask instruction that writes a mask does so as its only unit. -/
theorem State.runUnit_kop {s : State} {e : Entry} {op : KOp} {d a b : Nat} {x y : Word} (ho : e.op = .kop op d a b x y)
    (h : op.toReg = false) (g : Bool) : s.runUnit [] g .pass e = (s.updCore fun c =>
      { c with masks := c.masks.setIfInBounds d (kopMask op (s.core.masks.read a) (s.core.masks.read b) x y) }, .done e) := by
  simp [State.runUnit, ho, State.runKop, h, Masks.write]

/-- The entry that a dispatch writes (R14, R15). -/
def State.entryFor (s : State) (op : GOp) (i : Instr) : Entry :=
  { op := op, ord := s.nextCmd, pc := s.core.pc, word := BitVec.ofNat 32 (rawBits i).toNat, st := s.core.vstat, pl := s.pl }

theorem dispatched_giq (s : State) (op : GOp) (i : Instr) (len : Nat) :
    (dispatched s op i len).core.giq = s.core.giq ++ [s.entryFor op i] := rfl

/-- The mask instruction has written `m` to mask `d` and is done with its dispatch, and nothing else of the task has changed. -/
abbrev WritesMask (i : Instr) (s : State) (d : Reg) (m : Mask) : Prop :=
  ∃ t, exec i s = .next t ∧ t.core.masks = s.core.masks.setIfInBounds d.toNat m ∧ t.core.giq = [] ∧ t.core.flight = [] ∧
    t.core.pc = s.core.pc + 4 ∧ t.core.regs = s.core.regs ∧ t.core.grid = s.core.grid ∧ t.core.flags = s.core.flags ∧ t.mem = s.mem

theorem writesMask_of_slotB {s : State} {i : Instr} {rs : List Reg} {op : KOp} {d : Reg} {a b : Nat} {x y : Word} (hi : Idle s)
    (hl : s.lagGrid = false) (hc : Clear s rs) (h : op.toReg = false)
    (e : exec i s = s.slotB i rs 4 (some (.kop op d.toNat a b x y))) :
    WritesMask i s d (kopMask op (s.core.masks.read a) (s.core.masks.read b) x y) := by
  obtain ⟨hg, hf, hs, hcm⟩ := hi
  have hmay : MayDispatch s rs := ⟨hc, by simp [Core.giqFull, Core.outstanding, hg, hf]⟩
  have hq := dispatched_giq s (.kop op d.toNat a b x y) i 4
  rw [hg, List.nil_append] at hq
  refine ⟨_, (e.trans (s.slotB_of_mayDispatch hmay i 4 _)).trans
    (State.andPump_completes hl hs hf hq hcm rfl rfl
      ((State.stepEntry_of_demands rfl (kop_demands rfl)).trans (State.runUnit_kop rfl h _)) rfl rfl hs hcm), rfl, rfl, rfl, rfl, rfl, rfl, ?_, rfl⟩
  exact BitVec.or_zero

/-- Settles O19: each form is `slotB` with the operation whose mask the statement names, and its entry is done before its dispatch is over. -/
theorem maskInstructionsWriteTheirMasks : Obligations.MaskInstructionsWriteTheirMasks := by
  intro s d a b hi hl hc
  have h0 : Clear s [] := List.forall_mem_nil _
  refine ⟨fun i m hm => ?_, _, writesMask_of_slotB (op := .bound) hi hl hc rfl rfl, fun j hj => getLsbD_kopMask_bound _ _ _ _ hj⟩
  simp only [List.mem_cons, List.not_mem_nil, or_false, Prod.mk.injEq] at hm
  rcases hm with ⟨rfl, rfl⟩ | ⟨rfl, rfl⟩ | ⟨rfl, rfl⟩ | ⟨rfl, rfl⟩ | ⟨rfl, rfl⟩ | ⟨rfl, rfl⟩ | ⟨rfl, rfl⟩ | ⟨rfl, rfl⟩ | ⟨rfl, rfl⟩
  · exact writesMask_of_slotB (op := .and) hi hl h0 rfl rfl
  · exact writesMask_of_slotB (op := .or) hi hl h0 rfl rfl
  · exact writesMask_of_slotB (op := .xor) hi hl h0 rfl rfl
  · exact writesMask_of_slotB (op := .andn) hi hl h0 rfl rfl
  · exact writesMask_of_slotB (op := .not) hi hl h0 rfl rfl
  · exact writesMask_of_slotB (op := .mov) hi hl h0 rfl rfl
  · exact writesMask_of_slotB (op := .zero) hi hl h0 rfl rfl
  · exact writesMask_of_slotB (op := .one) hi hl h0 rfl rfl
  · exact writesMask_of_slotB (op := .set) hi hl hc rfl rfl

end Sys2Proof.Machine

end

section
/-! PROOFS. Patterns and integers of the element types, and one vector of element-wise integer arithmetic (O27). -/

namespace Sys2Proof.Machine

open Sys2Proof.Safety

/-! ### Two's complement (R58, R69, R141) -/

theorem two_pow_eq {w : Nat} (hw : 0 < w) : 2 ^ w = 2 * 2 ^ (w - 1) := by
  obtain ⟨k, rfl⟩ : ∃ k, w = k + 1 := ⟨w - 1, by omega⟩
  rw [Nat.pow_succ, Nat.add_sub_cancel, Nat.mul_comm]

theorem signedNat_toNat {w : Nat} (hw : 0 < w) (x : BitVec w) : signedNat w x.toNat = x.toInt := by
  have h2 := two_pow_eq hw
  rw [signedNat, BitVec.toInt_eq_toNat_cond]
  by_cases h : x.toNat < 2 ^ (w - 1)
  · rw [if_pos h, if_pos (by omega)]
  · rw [if_neg h, if_neg (by omega)]
    push_cast
    rfl

theorem wrapInt_natCast {w p : Nat} (hp : p < 2 ^ w) : wrapInt w (p : Int) = p := by
  rw [wrapInt, ← Int.natCast_mod, Nat.mod_eq_of_lt hp, Int.toNat_natCast]

theorem wrapInt_signedNat {w p : Nat} (hp : p < 2 ^ w) : wrapInt w (signedNat w p) = p := by
  unfold signedNat
  split
  · exact wrapInt_natCast hp
  · have h : ((p : Int) - 2 ^ w) % ((2 ^ w : Nat) : Int) = (p : Int) % ((2 ^ w : Nat) : Int) := by
      push_cast
      exact Int.sub_emod_right _ _
    rw [wrapInt, h]
    exact wrapInt_natCast hp

theorem wrapInt_eq_toNat (w : Nat) (v : Int) : wrapInt w v = (BitVec.ofInt w v).toNat := by
  rw [BitVec.toNat_ofInt]
  rfl

theorem patInt_of_wrapInt {t : ETy} {p : Nat} (hp : p < 2 ^ t.width) : wrapInt t.width (patInt t p) = p := by
  unfold patInt
  split
  · exact wrapInt_signedNat hp
  · exact wrapInt_natCast hp

theorem cellPat_lt {t : ETy} (h : t.isFloat = false) (c : Cell) : cellPat t c < 2 ^ t.width := by
  cases t
  case f19 => cases h
  all_goals exact Nat.mod_lt _ (Nat.two_pow_pos _)

/-! ### Cells of i32 (R115) -/

theorem cellPat_i32 (c : Cell) : cellPat .i32 c = c.toNat := Nat.mod_eq_of_lt c.isLt

theorem patCell_i32_toNat (c : Cell) : patCell .i32 c.toNat = c := by
  have h : patCell .i32 c.toNat = BitVec.ofInt 32 (signedNat 32 (c.toNat % 2 ^ 32)) := rfl
  rw [h, Nat.mod_eq_of_lt c.isLt, signedNat_toNat (by decide), BitVec.ofInt_toInt]

theorem patCell_i32_wrapInt (v : Int) : patCell .i32 (wrapInt 32 v) = BitVec.ofInt 32 v := by
  rw [wrapInt_eq_toNat, patCell_i32_toNat]

theorem patInt_i32 (c : Cell) : patInt .i32 c.toNat = c.toInt := signedNat_toNat (by decide) c

/-- The element functions of R144 and R147 on i32 are those of the 32-bit words. -/
theorem elemF_i32 {o : EOp} {f : Cell → Cell → Cell}
    (h : (o, f) ∈ [(EOp.add, fun x y => x + y), (.sub, fun x y => x - y), (.mul, fun x y => x * y), (.and, fun x y => x &&& y),
      (.or, fun x y => x ||| y), (.xor, fun x y => x ^^^ y)]) (st : VStat) (z : Nat) (x y : Cell) :
    patCell .i32 (elemF o .i32 st z (cellPat .i32 x) (cellPat .i32 y)).1 = f x y := by
  rw [cellPat_i32, cellPat_i32]
  have arith (e : EOp) : patCell .i32 (finishI .i32 (intArith e (patInt .i32 z) (patInt .i32 x.toNat) (patInt .i32 y.toNat))).1 =
      BitVec.ofInt 32 (intArith e (patInt .i32 z) x.toInt y.toInt) := by
    rw [patInt_i32, patInt_i32]
    exact patCell_i32_wrapInt _
  simp only [List.mem_cons, List.not_mem_nil, or_false, Prod.mk.injEq] at h
  rcases h with ⟨rfl, rfl⟩ | ⟨rfl, rfl⟩ | ⟨rfl, rfl⟩ | ⟨rfl, rfl⟩ | ⟨rfl, rfl⟩ | ⟨rfl, rfl⟩
  · exact (arith .add).trans (BitVec.eq_of_toInt_eq ((BitVec.toInt_ofInt _).trans (BitVec.toInt_add x y).symm))
  · exact (arith .sub).trans (BitVec.eq_of_toInt_eq ((BitVec.toInt_ofInt _).trans BitVec.toInt_sub.symm))
  · exact (arith .mul).trans (BitVec.eq_of_toInt_eq ((BitVec.toInt_ofInt _).trans (BitVec.toInt_mul x y).symm))
  · exact (congrArg (patCell .i32) (BitVec.toNat_and x y).symm).trans (patCell_i32_toNat (x &&& y))
  · exact (congrArg (patCell .i32) (BitVec.toNat_or x y).symm).trans (patCell_i32_toNat (x ||| y))
  · exact (congrArg (patCell .i32) (BitVec.toNat_xor x y).symm).trans (patCell_i32_toNat (x ^^^ y))

/-! ### One vector of an element-wise operation (R138, R139) -/

section Elem

variable {a : WinArgs} {d : Window} {st : VStat} {m : Mask} {g : Grid} {pr : VProg} {fl : FlagRec} {v : Nat}

/-- The first argument of an element function: a vcvt reads its source type, and vmov of forms 01 and 10 its second operand (R154, R159). -/
def elemSrc (e : EOp) (a : WinArgs) (g : Grid) (v j : Nat) : Nat :=
  match e with
  | .cvt src => cellPat src (rdWin a.w1 g v j)
  | _ => if movFromOp2 e a.op2 then op2Pat a (usesIntCol (.elem e)) g v j else cellPat a.ty (rdWin a.w1 g v j)

theorem elemSrc_of_not_cvt {e : EOp} (h : ∀ src, e ≠ .cvt src) (hm : e ≠ .mov ∨ a.op2 = .window) (j : Nat) :
    elemSrc e a g v j = cellPat a.ty (rdWin a.w1 g v j) := by
  have hn : movFromOp2 e a.op2 = false := by
    rcases hm with hm | hm
    · simp [movFromOp2, hm]
    · simp [movFromOp2, hm]
  cases e
  case cvt src => exact absurd rfl (h src)
  all_goals simp [elemSrc, hn]

/-- The active elements of a vector as the cells that it writes. -/
theorem map_gather (t : ETy) (f : Nat → Nat × Fl) :
    (fun j => ((gather m f).getD j none).map fun x => patCell t x.1) = fun j => if m.getLsbD j then some (patCell t (f j).1) else none := by
  funext j
  rw [getD_gather]
  cases m.getLsbD j <;> rfl

/-- What an element-wise operation does with its vector. -/
theorem vecStep_elem (hd : a.wd = some d) (e : EOp) :
    let f j := elemF e a.ty st (cellPat a.ty (d.read g v j)) (elemSrc e a g v j) (op2Pat a (usesIntCol (.elem e)) g v j)
    vecStep (.elem e) a st m g pr fl v =
      ⟨d.write g v fun j => if m.getLsbD j then some (patCell a.ty (f j).1) else none, gatherFlags v (gather m f) fl, pr⟩ := by
  intro f
  rw [← map_gather]
  cases e <;> simp only [vecStep, hd, wrWin, rdWin] <;> rfl

end Elem

/-- Settles O27: the vector writes the cells of its active elements, and their 32-bit words are those that R144 and R147 give. -/
theorem integerVectorWritesItsRow : Obligations.IntegerVectorWritesItsRow := by
  intro o f d a b km st m g p fl v hof hd ha hb r
  have ho : (∀ src, o ≠ .cvt src) ∧ o ≠ .mov ∧ usesIntCol (.elem o) = false := by
    simp only [List.mem_cons, List.not_mem_nil, or_false, Prod.mk.injEq] at hof
    rcases hof with ⟨rfl, -⟩ | ⟨rfl, -⟩ | ⟨rfl, -⟩ | ⟨rfl, -⟩ | ⟨rfl, -⟩ | ⟨rfl, -⟩ <;> simp [usesIntCol]
  obtain ⟨hcvt, hmov, hcol⟩ := ho
  have hr : r.grid = d.write g v fun j => if m.getLsbD j then some (f (a.read g v j) (b.read g v j)) else none := by
    simp only [r]
    rw [vecStep_elem (d := d) rfl]
    refine congrArg (d.write g v) (funext fun j => ?_)
    simp only [elemSrc_of_not_cvt hcvt (.inl hmov), hcol]
    exact if_congr Iff.rfl (congrArg some (elemF_i32 hof st _ _ _)) rfl
  have hbase := d.base_lt v
  refine ⟨fun j hj => ?_, fun h hh row hrow hne c => ?_⟩
  · rw [hr, Window.cell_write _ _ _ _ _ _ _ hbase hj, if_pos rfl]
    simp only [Window.elemAt, hd, if_true, Option.bind_some]
    cases m.getLsbD j <;> rfl
  · rw [hr, Window.write_of_row _ _ _ _ hd, Grid.cell_writeRow, if_neg]
    rw [Nat.mod_eq_of_lt hh, Nat.mod_eq_of_lt hrow, Nat.mod_eq_of_lt hbase]
    rintro ⟨h1, h2⟩
    omega

end Sys2Proof.Machine

end

section
/-! PROOFS. Rounding to integral values: an integral value of a format's own range is one of its values, so vround gives it exactly (R62, R63). -/

namespace Sys2Proof.Machine

open Sys2Proof.Safety

/-! ### Shifts that round (R62) -/

/-- Does a mode round the magnitude `q + rem / d` up (R62). -/
def roundsUp (mode : RMode) (neg : Bool) (d q rem : Nat) : Bool :=
  match mode with
  | .rne => decide (d < 2 * rem) || (decide (2 * rem = d) && q % 2 == 1)
  | .rtz => false
  | .rdn => neg && rem != 0
  | .rup => !neg && rem != 0
  | .rmm => decide (d ≤ 2 * rem)

theorem roundsUp_zero (mode : RMode) (neg : Bool) {d : Nat} (q : Nat) (hd : 0 < d) : roundsUp mode neg d q 0 = false := by
  have h0 : ¬0 = d := by omega
  cases mode <;> simp [roundsUp, h0]
  omega

/-- `roundShift` divides and rounds by what is left. -/
theorem roundShift_eq (mode : RMode) (neg : Bool) (m : Nat) (e : Int) :
    let d := 2 ^ (-e).toNat
    let q := m * 2 ^ e.toNat / d
    let rem := m * 2 ^ e.toNat % d
    roundShift mode neg m e = (q + if roundsUp mode neg d q rem then 1 else 0, rem != 0) := by
  intro d q rem
  cases e with
  | ofNat k =>
    have hd : d = 1 := by
      have : (-Int.ofNat k).toNat = 0 := Int.toNat_neg_natCast k
      simp only [d, this, Nat.pow_zero]
    have hrem : rem = 0 := by simp only [rem, hd, Nat.mod_one]
    have hq : q = m <<< k := by simp [q, hd, Nat.shiftLeft_eq]
    rw [hrem, roundsUp_zero mode neg q (by omega), hq]
    rfl
  | negSucc k =>
    have hd : d = 2 ^ (k + 1) := rfl
    have hq : q = m >>> (k + 1) := by simp [q, hd, Nat.shiftRight_eq_div_pow]
    have hrem : rem = m % 2 ^ (k + 1) := by simp [rem, hd]
    have hhalf : 2 ^ (k + 1) = 2 * 2 ^ k := by rw [Nat.pow_succ, Nat.mul_comm]
    have hup : (match mode with
        | .rne => decide (m % 2 ^ (k + 1) > 2 ^ k) || (m % 2 ^ (k + 1) == 2 ^ k && m >>> (k + 1) % 2 == 1)
        | .rtz => false
        | .rdn => neg && m % 2 ^ (k + 1) != 0
        | .rup => !neg && m % 2 ^ (k + 1) != 0
        | .rmm => decide (m % 2 ^ (k + 1) ≥ 2 ^ k)) = roundsUp mode neg d q rem := by
      rw [hd, hq, hrem]
      generalize m % 2 ^ (k + 1) = r
      cases mode
      case rne =>
        have h1 : (r > 2 ^ k) ↔ 2 ^ (k + 1) < 2 * r := by omega
        have h2 : (r == 2 ^ k) = decide (2 * r = 2 ^ (k + 1)) := by
          rw [Bool.eq_iff_iff]
          simp
          omega
        simp only [roundsUp, h1, h2]
      case rmm =>
        have h1 : (r ≥ 2 ^ k) ↔ 2 ^ (k + 1) ≤ 2 * r := by omega
        simp only [roundsUp, h1]
      all_goals rfl
    have hs : roundShift mode neg m (.negSucc k) =
        (if roundsUp mode neg d q rem then m >>> (k + 1) + 1 else m >>> (k + 1), m % 2 ^ (k + 1) != 0) := by
      rw [← hup]
      rfl
    rw [hs, hq, hrem]
    split <;> rfl

/-! ### Values of a format (R59) -/

namespace FFmt

variable {f : FFmt} {n : Bool} {r m : Nat} {q e : Int}

/-- The fields of a magnitude and its sign. -/
theorem decode_fields (f : FFmt) (n : Bool) {c m : Nat} (hm : m < 2 ^ f.mbits) (hc : c < 2 ^ f.ebits) :
    bitNat (f.signBit n + (c * 2 ^ f.mbits + m)) (f.ebits + f.mbits) = n ∧
    ((f.signBit n + (c * 2 ^ f.mbits + m)) >>> f.mbits) % 2 ^ f.ebits = c ∧ (f.signBit n + (c * 2 ^ f.mbits + m)) % 2 ^ f.mbits = m := by
  have hsign : f.signBit n = (natOfBool n * 2 ^ f.ebits) * 2 ^ f.mbits := by
    cases n <;> simp [signBit, natOfBool, Nat.pow_add]
  have hM := Nat.two_pow_pos f.mbits
  have hw : f.signBit n + (c * 2 ^ f.mbits + m) = (natOfBool n * 2 ^ f.ebits + c) * 2 ^ f.mbits + m := by
    rw [hsign, Nat.add_mul, Nat.add_assoc]
  have hdiv : ((natOfBool n * 2 ^ f.ebits + c) * 2 ^ f.mbits + m) / 2 ^ f.mbits = natOfBool n * 2 ^ f.ebits + c := by
    rw [Nat.mul_comm, Nat.mul_add_div hM, Nat.div_eq_of_lt hm, Nat.add_zero]
  have hdiv2 : (natOfBool n * 2 ^ f.ebits + c) / 2 ^ f.ebits = natOfBool n := by
    rw [Nat.mul_comm, Nat.mul_add_div (Nat.two_pow_pos _), Nat.div_eq_of_lt hc, Nat.add_zero]
  rw [hw]
  refine ⟨?_, ?_, ?_⟩
  · rw [bitNat, Nat.add_comm f.ebits, Nat.shiftRight_add, Nat.shiftRight_eq_div_pow, Nat.shiftRight_eq_div_pow, hdiv, hdiv2]
    cases n <;> rfl
  · rw [Nat.shiftRight_eq_div_pow, hdiv, Nat.mul_comm, Nat.mul_add_mod, Nat.mod_eq_of_lt hc]
  · rw [Nat.mul_comm, Nat.mul_add_mod, Nat.mod_eq_of_lt hm]

/-- What the formats of the float element types have in common: a fraction, an exponent of two bits at least, and integers up to more than twice
the largest significand. -/
structure Regular (f : FFmt) : Prop where
  exp : 1 < 2 ^ f.ebits
  frac : 2 ≤ 2 ^ f.mbits
  bias : 1 ≤ f.bias
  range : (f.bias + f.mbits + 1) * 2 ^ f.mbits ≤ f.maxFinite + 1

/-- A finite value in the form in which it is encoded: a significand of the format, subnormal only at the least exponent, and no magnitude
above the largest. -/
structure Canon (f : FFmt) (m : Nat) (e : Int) : Prop where
  lt : m < 2 ^ (f.mbits + 1)
  le : f.qmin ≤ e
  sub : m < 2 ^ f.mbits → e = f.qmin
  max : f.pack m e ≤ f.maxFinite

/-- What decoding gives has that form (R59). -/
theorem canon_of_decode {w : Nat} (hf : f.Regular) (h : f.decode w = .fin n m e) : f.Canon m e := by
  have hE := hf.exp
  have hM := Nat.two_pow_pos f.mbits
  have hM2 : 2 ^ (f.mbits + 1) = 2 * 2 ^ f.mbits := by rw [Nat.pow_succ, Nat.mul_comm]
  have hm := Nat.mod_lt w hM
  have hc := Nat.mod_lt (w >>> f.mbits) (Nat.two_pow_pos f.ebits)
  simp only [decode] at h
  generalize w % 2 ^ f.mbits = a at *
  generalize (w >>> f.mbits) % 2 ^ f.ebits = c at *
  -- the encoding of a finite value does not exceed that of the largest
  have hmax (hi : ¬(f.nan == .ieee && c == 2 ^ f.ebits - 1) = true)
      (ht : ¬(f.nan == .top && c == 2 ^ f.ebits - 1 && a == 2 ^ f.mbits - 1) = true) : c * 2 ^ f.mbits + a ≤ f.maxFinite := by
    have step (k : Nat) (hk : c ≤ k) : c * 2 ^ f.mbits ≤ k * 2 ^ f.mbits := Nat.mul_le_mul_right _ hk
    unfold maxFinite
    cases hn : f.nan
    case ieee =>
      simp [hn] at hi
      have := step (2 ^ f.ebits - 1 - 1) (by omega)
      simp only
      omega
    case top =>
      simp [hn] at ht
      simp only
      by_cases hc' : c = 2 ^ f.ebits - 1
      · have := step (2 ^ f.ebits - 1) (by omega)
        have := ht hc'
        omega
      · have := step (2 ^ f.ebits - 1 - 1) (by omega)
        have : (2 ^ f.ebits - 1 - 1) * 2 ^ f.mbits + 2 ^ f.mbits = (2 ^ f.ebits - 1) * 2 ^ f.mbits := by
          rw [← Nat.succ_mul]
          congr 1
          omega
        omega
    case absent =>
      have := step (2 ^ f.ebits - 1) (by omega)
      simp only
      omega
  split at h
  · split at h <;> cases h
  next hi =>
    split at h
    · cases h
    next ht =>
      specialize hmax hi ht
      split at h
      next h0 =>
        cases h
        rw [beq_iff_eq] at h0
        refine ⟨by omega, Int.le_refl _, fun _ => rfl, ?_⟩
        rw [pack, if_pos hm]
        simpa [h0] using hmax
      next h0 =>
        cases h
        have h1 : c ≠ 0 := by simpa using h0
        refine ⟨by omega, by omega, fun h => by omega, ?_⟩
        have hq : (f.qmin + (c : Int) - 1 - f.qmin).toNat + 1 = c := by omega
        rw [pack, if_neg (by omega), ← Nat.add_assoc, ← Nat.succ_mul, Nat.succ_eq_add_one, hq]
        exact hmax

/-- A normal value that is packed decodes to itself. -/
theorem decode_pack (hf : f.Regular) (hlo : 2 ^ f.mbits ≤ m) (hc : f.Canon m e) : f.decode (f.signBit n + f.pack m e) = .fin n m e := by
  have hE := hf.exp
  have hM' := hf.frac
  have hM := Nat.two_pow_pos f.mbits
  have hM2 : 2 ^ (f.mbits + 1) = 2 * 2 ^ f.mbits := by rw [Nat.pow_succ, Nat.mul_comm]
  obtain ⟨hlt, hle, -, hmax⟩ := hc
  obtain ⟨a, rfl⟩ : ∃ a, m = 2 ^ f.mbits + a := ⟨m - 2 ^ f.mbits, by omega⟩
  obtain ⟨k, rfl⟩ : ∃ k : Nat, e = f.qmin + k := ⟨(e - f.qmin).toNat, by omega⟩
  have ha : a < 2 ^ f.mbits := by omega
  have hp : f.pack (2 ^ f.mbits + a) (f.qmin + k) = (k + 1) * 2 ^ f.mbits + a := by
    have : (f.qmin + (k : Int) - f.qmin).toNat = k := by omega
    rw [pack, if_neg (by omega), this, Nat.succ_mul, Nat.add_assoc]
  rw [hp] at hmax ⊢
  -- the exponent field is that of a normal number, and the largest fraction of a format whose all-ones pattern is a NaN stays below it
  have hfield : k + 1 < 2 ^ f.ebits ∧ (f.nan = .ieee → k + 1 ≠ 2 ^ f.ebits - 1) ∧
      (f.nan = .top → k + 1 = 2 ^ f.ebits - 1 → a ≠ 2 ^ f.mbits - 1) := by
    have step (j : Nat) (hj : j ≤ k + 1) : j * 2 ^ f.mbits ≤ (k + 1) * 2 ^ f.mbits := Nat.mul_le_mul_right _ hj
    have htop : (2 ^ f.ebits - 1 - 1) * 2 ^ f.mbits + 2 ^ f.mbits = (2 ^ f.ebits - 1) * 2 ^ f.mbits := by
      rw [← Nat.succ_mul]
      congr 1
      omega
    have hall : (2 ^ f.ebits - 1) * 2 ^ f.mbits + 2 ^ f.mbits = 2 ^ f.ebits * 2 ^ f.mbits := by
      rw [← Nat.succ_mul]
      congr 1
      omega
    unfold maxFinite at hmax
    cases hn : f.nan <;> simp only [hn] at hmax
    case ieee =>
      have hlt : k + 1 < 2 ^ f.ebits - 1 := by
        by_contra h
        have := step (2 ^ f.ebits - 1) (by omega)
        omega
      exact ⟨by omega, fun _ => by omega, by simp⟩
    case top =>
      have hlt : k + 1 < 2 ^ f.ebits := by
        by_contra h
        have := step (2 ^ f.ebits) (by omega)
        omega
      refine ⟨hlt, by simp, fun _ hk => ?_⟩
      rw [hk] at hmax
      omega
    case absent =>
      have hlt : k + 1 < 2 ^ f.ebits := by
        by_contra h
        have := step (2 ^ f.ebits) (by omega)
        omega
      exact ⟨hlt, by simp, by simp⟩
  obtain ⟨hk, hi, ht⟩ := hfield
  obtain ⟨h1, h2, h3⟩ := decode_fields f n ha hk
  simp only [decode, h1, h2, h3]
  have hi' : ¬(f.nan == .ieee && k + 1 == 2 ^ f.ebits - 1) = true := by simpa using hi
  have ht' : ¬(f.nan == .top && k + 1 == 2 ^ f.ebits - 1 && a == 2 ^ f.mbits - 1) = true := by simpa using ht
  rw [if_neg hi', if_neg ht', if_neg (by simp)]
  congr 1
  omega

/-- A zero decodes to itself. -/
theorem decode_signBit (hf : f.Regular) : f.decode (f.signBit n) = .fin n 0 f.qmin := by
  obtain ⟨h1, h2, h3⟩ := decode_fields f n (c := 0) (m := 0) (Nat.two_pow_pos _) (Nat.two_pow_pos _)
  simp only [Nat.zero_mul, Nat.add_zero] at h1 h2 h3
  have hE := hf.exp
  have h0 : (0 == 2 ^ f.ebits - 1) = false := beq_false_of_ne (by omega)
  simp [decode, h1, h2, h3, h0]

/-- The significand of `mbits + 1` bits of an integer, and its exponent. -/
theorem log2_significand {N : Nat} (hN : 0 < N) (hd : 2 ^ ((Nat.log2 N : Int) - f.mbits).toNat ∣ N) :
    let q : Int := (Nat.log2 N : Int) - f.mbits
    let r := N * 2 ^ (-q).toNat / 2 ^ q.toNat
    r * 2 ^ q.toNat = N * 2 ^ (-q).toNat ∧ 2 ^ f.mbits ≤ r ∧ r < 2 ^ (f.mbits + 1) := by
  intro q r
  have hr : r * 2 ^ q.toNat = N * 2 ^ (-q).toNat := Nat.div_mul_cancel (Dvd.dvd.mul_right hd _)
  have hlo : 2 ^ N.log2 ≤ N := Nat.log2_self_le (by omega)
  have hhi : N < 2 ^ (N.log2 + 1) := Nat.lt_log2_self
  have hexp : N.log2 + (-q).toNat = f.mbits + q.toNat := by omega
  refine ⟨hr, Nat.le_of_mul_le_mul_right (c := 2 ^ q.toNat) ?_ (Nat.two_pow_pos _), Nat.lt_of_mul_lt_mul_right (a := 2 ^ q.toNat) ?_⟩
  · rw [hr, ← Nat.pow_add, ← hexp, Nat.pow_add]
    exact Nat.mul_le_mul_right _ hlo
  · rw [hr, ← Nat.pow_add, Nat.add_right_comm, ← hexp, Nat.add_right_comm, Nat.pow_add]
    exact Nat.mul_lt_mul_of_pos_right hhi (Nat.two_pow_pos _)

end FFmt

/-- An integer whose significand fits, and whose magnitude is none above the largest, rounds to itself. -/
theorem roundTo_integer {f : FFmt} (hf : f.Regular) (rule : OvfRule) (flush n : Bool) {N : Nat} (hN : 0 < N)
    (hd : 2 ^ ((Nat.log2 N : Int) - f.mbits).toNat ∣ N) :
    let q : Int := (Nat.log2 N : Int) - f.mbits
    let r := N * 2 ^ (-q).toNat / 2 ^ q.toNat
    f.pack r q ≤ f.maxFinite → (roundTo f rule .rne flush (.num n N 0 false)).1 = f.signBit n + f.pack r q := by
  intro q r hp
  have hs : r * 2 ^ q.toNat = N * 2 ^ (-q).toNat ∧ 2 ^ f.mbits ≤ r ∧ r < 2 ^ (f.mbits + 1) := FFmt.log2_significand hN hd
  obtain ⟨-, hlo, hhi⟩ := hs
  have hq : ¬q < f.qmin := by
    have := hf.bias
    simp only [FFmt.qmin, q]
    omega
  have hs : (roundShift .rne n N (0 - q)).1 = r := by
    have hrem : N * 2 ^ (-q).toNat % 2 ^ q.toNat = 0 := Nat.mod_eq_zero_of_dvd (Dvd.dvd.mul_right hd _)
    rw [roundShift_eq, show (-(0 - q)).toNat = q.toNat by omega, show (0 - q).toNat = (-q).toNat by omega, hrem,
      roundsUp_zero _ _ _ (Nat.two_pow_pos _)]
    rfl
  have hm0 : (N == 0) = false := beq_false_of_ne (by omega)
  have hqu : (N.log2 : Int) + 0 - f.mbits = q := by omega
  have hfl : ¬(flush && r != 0 && decide (r < 2 ^ f.mbits)) = true := by
    simp
    omega
  simp only [roundTo, Bool.false_eq_true, if_false, hm0, hqu, hq, hs, if_pos hhi]
  rw [if_neg (by omega : ¬f.pack r q > f.maxFinite)]
  simp only [hfl]
  rfl

namespace FFmt

variable {f : FFmt} {n : Bool} {k : Nat} {e : Int}

/-- An integer that a value of the format rounds to is one of its values: where the exponent is not negative it is the value itself, and else it is
no greater than the significand. -/
theorem Canon.integer (hf : f.Regular) (hc : f.Canon k e) {N : Nat} (hN : 0 < N) (h0 : 0 ≤ e → N = k * 2 ^ e.toNat) (h1 : e < 0 → N ≤ k) :
    let q : Int := (Nat.log2 N : Int) - f.mbits
    2 ^ q.toNat ∣ N ∧ f.Canon (N * 2 ^ (-q).toNat / 2 ^ q.toNat) q := by
  intro q
  have hM := hf.frac
  have hmb : 1 ≤ f.mbits := by
    by_contra h
    rw [show f.mbits = 0 by omega] at hM
    omega
  have hb := hf.bias
  by_cases he : 0 ≤ e
  · have hk : 2 ^ f.mbits ≤ k := by
      by_contra h
      have := hc.sub (by omega)
      simp only [FFmt.qmin] at this
      omega
    have hlog : N.log2 = f.mbits + e.toNat := by
      rw [Nat.log2_eq_iff (by omega), h0 he, Nat.add_right_comm, Nat.pow_add, Nat.pow_add]
      exact ⟨Nat.mul_le_mul_right _ hk, Nat.mul_lt_mul_of_pos_right hc.lt (Nat.two_pow_pos _)⟩
    have hq : q = e := by omega
    have hr : N * 2 ^ (-e).toNat / 2 ^ e.toNat = k := by
      rw [show (-e).toNat = 0 by omega, Nat.pow_zero, Nat.mul_one, h0 he, Nat.mul_div_cancel _ (Nat.two_pow_pos _)]
    rw [hq, hr]
    exact ⟨⟨k, by rw [h0 he, Nat.mul_comm]⟩, hc⟩
  · have hNk := h1 (by omega)
    have hlog : N.log2 < f.mbits + 1 := (Nat.log2_lt (by omega)).2 (Nat.lt_of_le_of_lt hNk hc.lt)
    have hd : 2 ^ q.toNat ∣ N := by
      rw [show q.toNat = 0 by omega]
      exact Nat.one_dvd N
    obtain ⟨-, hlo, hhi⟩ := log2_significand (f := f) hN hd
    have hlo' : ¬N * 2 ^ (-q).toNat / 2 ^ q.toNat < 2 ^ f.mbits := Nat.not_lt.2 hlo
    refine ⟨hd, hhi, ?_, fun h => absurd h hlo', ?_⟩
    · simp only [FFmt.qmin, q]
      omega
    · rw [pack, if_neg hlo']
      have hexp : (q - f.qmin).toNat + 1 ≤ f.bias + f.mbits := by
        simp only [FFmt.qmin, q]
        omega
      have hmul : ((q - f.qmin).toNat + 1) * 2 ^ f.mbits ≤ (f.bias + f.mbits) * 2 ^ f.mbits := Nat.mul_le_mul_right _ hexp
      have hrange := hf.range
      have h2 : 2 ^ (f.mbits + 1) = 2 * 2 ^ f.mbits := by rw [Nat.pow_succ, Nat.mul_comm]
      rw [Nat.succ_mul] at hmul hrange
      have hhi' : N * 2 ^ (-q).toNat / 2 ^ q.toNat < 2 ^ (f.mbits + 1) := hhi
      omega

end FFmt

/-- An integral magnitude that a value of the format rounds to decodes to itself once it is encoded. -/
theorem decode_roundTo_integer {f : FFmt} (hf : f.Regular) {k : Nat} {e : Int} (hc : f.Canon k e) (rule : OvfRule) (flush n : Bool) {N : Nat}
    (h0 : 0 ≤ e → N = k * 2 ^ e.toNat) (h1 : e < 0 → N ≤ k) :
    ∃ k1 e1, f.decode (roundTo f rule .rne flush (.num n N 0 false)).1 = .fin n k1 e1 ∧ k1 * 2 ^ e1.toNat = N * 2 ^ (-e1).toNat := by
  by_cases hN : N = 0
  · subst hN
    exact ⟨0, f.qmin, FFmt.decode_signBit hf, by simp⟩
  · have hN' : 0 < N := by omega
    obtain ⟨hd, hr⟩ := hc.integer hf hN' h0 h1
    obtain ⟨hmul, hlo, -⟩ := FFmt.log2_significand (f := f) hN' hd
    rw [roundTo_integer hf rule flush n hN' hd hr.max]
    exact ⟨_, _, FFmt.decode_pack hf hlo hr, hmul⟩

/-! ### vround (R63, R155) -/

section Round

variable {t : ETy} {f : FFmt}

theorem regular_of_fmt (h : t.fmt = some f) : f.Regular := by
  cases t <;> cases h <;> exact ⟨by decide, by decide, by decide, by decide⟩

theorem patFV_encPat (h : t.fmt = some f) (w : Nat) : patFV t (encPat t w) = f.decode w := by
  simp only [patFV, h]
  by_cases ht : t = .f19
  · simp [ht, encPat, Nat.shiftLeft_eq, Nat.shiftRight_eq_div_pow]
  · simp [ht, encPat]

/-- What an element reads as has the form of its format's values. -/
theorem canon_readF (h : t.fmt = some f) {flush : Bool} {x k : Nat} {n : Bool} {e : Int} (hu : readF t flush x = .fin n k e) : f.Canon k e := by
  have hf := regular_of_fmt h
  have hp : ∃ w, patFV t x = f.decode w := by simp only [patFV, h, exists_apply_eq_apply']
  obtain ⟨w, hw⟩ := hp
  simp only [readF, h, hw] at hu
  cases hd : f.decode w with
  | nan => rw [hd] at hu; cases hu
  | inf b => rw [hd] at hu; cases hu
  | fin b m e' =>
    have hc := FFmt.canon_of_decode hf hd
    rw [hd, FV.flushIn] at hu
    split at hu <;> cases hu
    next hfl =>
      rw [Bool.and_eq_true, decide_eq_true_eq] at hfl
      have hs := hc.sub hfl.2
      refine ⟨Nat.two_pow_pos _, hc.le, fun _ => hs, ?_⟩
      rw [FFmt.pack, if_pos (Nat.two_pow_pos _)]
      exact Nat.zero_le _
    next => exact hc

/-- vround rounds in the mode that it names, or in that of STATUS. -/
theorem elemF_round (h : t.fmt = some f) {st : VStat} {m : Nat} {mode : RMode} (hm : RMode.ofCode (if m = 5 then st.vrm else m) = some mode)
    (z x y : Nat) :
    elemF (.round m) t st z x y = (encPat t (roundTo f (if f.hasInf then .ieee else .saturate) .rne st.flush
      (roundIntegral mode (readF t st.flush x)).1).1, { nx := (roundIntegral mode (readF t st.flush x)).2 }) := by
  simp [elemF, h, hm]

/-- The integral value of a finite element, by what its division leaves. -/
theorem elemF_round_fin (h : t.fmt = some f) {st : VStat} {m : Nat} {mode : RMode}
    (hm : RMode.ofCode (if m = 5 then st.vrm else m) = some mode) (z y : Nat) {x k : Nat} {n : Bool} {e : Int}
    (hu : readF t st.flush x = .fin n k e) :
    let d := 2 ^ (-e).toNat
    let q := k * 2 ^ e.toNat / d
    let rem := k * 2 ^ e.toNat % d
    let r := elemF (.round m) t st z x y
    r.2 = { nx := rem != 0 } ∧ ∃ k1 e1, patFV t r.1 = .fin n k1 e1 ∧
      k1 * 2 ^ e1.toNat = (q + if roundsUp mode n d q rem then 1 else 0) * 2 ^ (-e1).toNat := by
  intro d q rem r
  have hd : 0 < d := Nat.two_pow_pos _
  have hround : roundIntegral mode (.fin n k e) = (.num n (q + if roundsUp mode n d q rem then 1 else 0) 0 false, rem != 0) := by
    rw [roundIntegral, roundShift_eq]
  have hr : r = _ := elemF_round h hm z x y
  rw [hu, hround] at hr
  rw [hr]
  refine ⟨rfl, ?_⟩
  rw [patFV_encPat h]
  refine decode_roundTo_integer (regular_of_fmt h) (canon_readF h hu) _ _ _ (fun he => ?_) fun he => ?_
  · have hd1 : d = 1 := by simp only [d, show (-e).toNat = 0 by omega, Nat.pow_zero]
    have hrem : rem = 0 := by simp only [rem, hd1, Nat.mod_one]
    rw [hrem, roundsUp_zero mode n q hd]
    simp [q, hd1]
  · have he0 : e.toNat = 0 := by omega
    have hd2 : 2 ≤ d := by
      simp only [d]
      exact Nat.le_self_pow (by omega) 2
    have hk : k = d * q + rem := by
      simp only [q, rem, he0, Nat.pow_zero, Nat.mul_one]
      exact (Nat.div_add_mod k d).symm
    have hq : 2 * q ≤ d * q := Nat.mul_le_mul_right q hd2
    by_cases hrem : rem = 0
    · rw [hrem, roundsUp_zero mode n q hd]
      simp only [Bool.false_eq_true, if_false]
      omega
    · split <;> omega

end Round

end Sys2Proof.Machine

end

section
/-! PROOFS. The tree of a reduction: what every level keeps, and so what its root is (R79, R152). -/

namespace Sys2Proof.Machine

open Sys2Proof.Safety

/-! ### The levels of the tree (R79) -/

/-- One level on the values that are there: neighbours are combined, or a value passes. -/
inductive Merges (r : Red) : List RVal → List RVal → Prop where
  | nil : Merges r [] []
  | pass (a : RVal) {l k : List RVal} : Merges r l k → Merges r (a :: l) (a :: k)
  | pair (a b : RVal) {l k : List RVal} : Merges r l k → Merges r (a :: b :: l) ((redOp r a b).1 :: k)

theorem merges_redLevel (r : Red) : ∀ xs : List (Option RVal), Merges r (xs.filterMap id) ((redLevel r xs).1.filterMap id)
  | [] => .nil
  | [none] => .nil
  | [some a] => .pass a .nil
  | none :: none :: l => merges_redLevel r l
  | none :: some b :: l => .pass b (merges_redLevel r l)
  | some a :: none :: l => .pass a (merges_redLevel r l)
  | some a :: some b :: l => .pair a b (merges_redLevel r l)

theorem length_redLevel (r : Red) : ∀ xs : List (Option RVal), (redLevel r xs).1.length = (xs.length + 1) / 2
  | [] => rfl
  | [x] => by cases x <;> simp [redLevel]
  | x :: y :: l => by
    have h : (redLevel r (x :: y :: l)).1.length = (redLevel r l).1.length + 1 := by cases x <;> cases y <;> rfl
    rw [h, length_redLevel r l]
    simp only [List.length_cons]
    omega

/-- What every level keeps, the tree keeps. -/
theorem redTree_keeps {r : Red} {P : List RVal → Prop} (hP : ∀ l k, Merges r l k → P l → P k) (n : Nat) (xs : List (Option RVal))
    (h : P (xs.filterMap id)) : P ((redTree r n xs).1.filterMap id) := by
  induction n generalizing xs with
  | zero => exact h
  | succ n ih => exact ih _ (hP _ _ (merges_redLevel r xs) h)

theorem length_redTree (r : Red) (n : Nat) (xs : List (Option RVal)) (h : xs.length = 2 ^ n) : (redTree r n xs).1.length = 1 := by
  induction n generalizing xs with
  | zero => exact h
  | succ n ih =>
    refine ih _ ?_
    rw [length_redLevel, h, Nat.pow_succ]
    omega

/-! ### The root (R79, R152) -/

section Root

variable {r : Red} {t : ETy} {st : VStat} {m : Mask} {pat : Nat → Nat}

/-- The active leaves of a row reduction, in order. -/
def redLeaves (r : Red) (t : ETy) (m : Mask) (pat : Nat → Nat) : List RVal :=
  ((List.range 128).filter fun j => m.getLsbD j).map fun j => (redLeaf r t (pat j)).1

theorem filterMap_leaves : (((List.range 128).map fun j => if active m j then some (redLeaf r t (pat j)) else none).map
    fun x => x.map (·.1)).filterMap id = redLeaves r t m pat := by
  unfold redLeaves
  generalize List.range 128 = l
  induction l with
  | nil => rfl
  | cons j l ih =>
    simp only [List.map_cons, List.filterMap_cons, List.filter_cons, active_eq] at ih ⊢
    cases m.getLsbD j
    · simpa using ih
    · simpa using ih

/-- The result of a row reduction is the root of its tree, the identity where no element is active; what every level keeps holds of it. -/
theorem rowReduce_root {P : List RVal → Prop} (hP : ∀ l k, Merges r l k → P l → P k) (h : P (redLeaves r t m pat)) :
    ∃ o : Option RVal, P o.toList ∧ (rowReduce r t st m pat).1 = (redRoot t st (o.getD (redIdentity r t))).1 := by
  have hlen := length_redTree r 7
    (((List.range 128).map fun j => if active m j then some (redLeaf r t (pat j)) else none).map fun x => x.map (·.1)) (by simp)
  obtain ⟨o, ho⟩ := List.length_eq_one_iff.1 hlen
  refine ⟨o, ?_, ?_⟩
  · have hk := redTree_keeps hP 7 _ (by rw [filterMap_leaves]; exact h)
    rw [ho] at hk
    cases o <;> exact hk
  · simp only [rowReduce, ho]
    rfl

/-- With one active element the root is its leaf. -/
theorem rowReduce_single {x : RVal} (h : redLeaves r t m pat = [x]) : (rowReduce r t st m pat).1 = (redRoot t st x).1 := by
  have hP : ∀ l k, Merges r l k → l = [x] → k = [x] := by
    rintro _ _ (_ | @⟨_, _, _, hm⟩ | _) hl
    · exact hl
    · cases hl
      cases hm
      rfl
    · cases hl
  obtain ⟨o, ho, he⟩ := rowReduce_root (st := st) hP h
  cases o with
  | none => cases ho
  | some v => cases ho; exact he

/-- With two active elements the root is their node, the lesser position first. -/
theorem rowReduce_pair {x y : RVal} (h : redLeaves r t m pat = [x, y]) : (rowReduce r t st m pat).1 = (redRoot t st (redOp r x y).1).1 := by
  have hP : ∀ l k, Merges r l k → l = [x, y] ∨ l = [(redOp r x y).1] → k = [x, y] ∨ k = [(redOp r x y).1] := by
    rintro _ _ (_ | @⟨_, _, _, hm⟩ | @⟨_, _, _, _, hm⟩) (hl | hl) <;> cases hl
    · cases hm with
      | pass _ hm => cases hm; exact .inl rfl
    · cases hm
      exact .inr rfl
    · cases hm
      exact .inr rfl
  obtain ⟨o, ho, he⟩ := rowReduce_root (st := st) hP (.inl h)
  cases o with
  | none => rcases ho with ho | ho <;> cases ho
  | some v => rcases ho with ho | ho <;> cases ho; exact he

end Root

/-! ### Integer reductions (R69, R79, R80) -/

section Integers

variable {r : Red} {t : ETy} {st : VStat} {m : Mask} {pat : Nat → Nat}

/-- The integers of the active elements. -/
def activeInts (t : ETy) (m : Mask) (pat : Nat → Nat) : List Int :=
  ((List.range 128).filter fun j => m.getLsbD j).map fun j => patInt t (pat j)

theorem redLeaves_of_int (h : t.isFloat = false) (hr : r ≠ .sumsq) : redLeaves r t m pat = (activeInts t m pat).map .i := by
  rw [redLeaves, activeInts, List.map_map]
  refine List.map_congr_left fun j _ => ?_
  cases r <;> simp_all [redLeaf]

theorem redLeaves_sumsq_of_int (h : t.isFloat = false) :
    redLeaves .sumsq t m pat = ((activeInts t m pat).map fun x => x * x).map .i := by
  rw [redLeaves, activeInts, List.map_map, List.map_map]
  refine List.map_congr_left fun j _ => ?_
  simp [redLeaf, h]

/-- The levels of a sum of integers keep the sum. -/
theorem merges_sum {S : Int} (hr : r = .sum ∨ r = .sumsq) (l k : List RVal) (h : Merges r l k) :
    (∃ zs : List Int, l = zs.map .i ∧ zs.sum = S) → ∃ zs : List Int, k = zs.map .i ∧ zs.sum = S := by
  induction h generalizing S with
  | nil => exact id
  | pass a _ ih =>
    rintro ⟨zs, hz, hs⟩
    cases zs with
    | nil => cases hz
    | cons z zs =>
      simp only [List.map_cons, List.cons.injEq] at hz
      obtain ⟨ys, rfl, hy⟩ := ih ⟨zs, hz.2, rfl⟩
      exact ⟨z :: ys, by rw [hz.1]; rfl, by rw [List.sum_cons, hy, ← List.sum_cons, hs]⟩
  | pair a b _ ih =>
    rintro ⟨zs, hz, hs⟩
    match zs with
    | [] => cases hz
    | [z] => simp at hz
    | z :: y :: zs =>
      simp only [List.map_cons, List.cons.injEq] at hz
      obtain ⟨ys, rfl, hy⟩ := ih ⟨zs, hz.2.2, rfl⟩
      have ho : (redOp r a b).1 = .i (z + y) := by rcases hr with rfl | rfl <;> simp [redOp, hz.1, hz.2.1]
      exact ⟨(z + y) :: ys, by rw [ho]; rfl, by rw [List.sum_cons, hy, ← hs]; simp [Int.add_assoc]⟩

theorem sum_active (f : Nat → Int) (n : Nat) :
    (((List.range n).filter fun j => m.getLsbD j).map f).sum = ((List.range n).map fun j => if m.getLsbD j then f j else 0).sum := by
  induction n with
  | zero => rfl
  | succ n ih =>
    rw [List.range_succ, List.filter_append, List.map_append, List.map_append, List.sum_append, List.sum_append, ih]
    cases h : m.getLsbD n <;> simp [h]

/-- An integer sum is the sum of the active elements, or of their squares, wrapped. -/
theorem rowReduce_sum_int (hr : r = .sum ∨ r = .sumsq) {S : Int} (ht : t.isFloat = false)
    (h : ∃ zs : List Int, redLeaves r t m pat = zs.map .i ∧ zs.sum = S) : (rowReduce r t st m pat).1 = wrapInt t.width S := by
  obtain ⟨o, ⟨zs, hz, hs⟩, he⟩ := rowReduce_root (st := st) (merges_sum hr) h
  rw [he]
  cases o with
  | none =>
    have h0 : zs = [] := by simpa using hz.symm
    have hid : redIdentity r t = .i 0 := by rcases hr with rfl | rfl <;> simp [redIdentity, ht]
    rw [Option.getD_none, hid, ← hs, h0]
    rfl
  | some v =>
    cases zs with
    | nil => cases hz
    | cons z zs =>
      cases zs with
      | nil =>
        cases hz
        rw [← hs, List.sum_singleton]
        rfl
      | cons y zs => simp at hz

/-- No value is above the integer `x` in the order of the node operation. -/
def Bounded (le : Int → Int → Prop) (x : Int) (l : List RVal) : Prop := ∀ y ∈ l, ∃ z, y = .i z ∧ le z x

/-- The node operation gives that one of two integers which stands above the other in an order. -/
def Selects (r : Red) (le : Int → Int → Prop) : Prop :=
  (∀ a b, ∃ c, (redOp r (.i a) (.i b)).1 = .i c ∧ (c = a ∨ c = b) ∧ le a c ∧ le b c) ∧ ∀ a b, le a b → le b a → a = b

theorem selects_max : Selects .max (· ≤ ·) := by
  refine ⟨fun a b => ⟨if a < b then b else a, rfl, ?_⟩, fun a b => Int.le_antisymm⟩
  split <;> omega

theorem selects_min : Selects .min (· ≥ ·) := by
  refine ⟨fun a b => ⟨if b < a then b else a, rfl, ?_⟩, fun a b h k => Int.le_antisymm k h⟩
  split <;> omega

/-- The levels of such a tree keep the bound, and the uppermost value where it is among them. -/
theorem merges_extreme {le : Int → Int → Prop} (hs : Selects r le) {x : Int} (l k : List RVal) (h : Merges r l k) :
    (.i x ∈ l ∧ Bounded le x l) → (.i x ∈ k ∧ Bounded le x k) := by
  have key : Bounded le x l → Bounded le x k ∧ (.i x ∈ l → .i x ∈ k) := by
    induction h with
    | nil => exact fun hb => ⟨hb, id⟩
    | pass a _ ih =>
      intro hb
      obtain ⟨ha, hl⟩ := List.forall_mem_cons.1 hb
      obtain ⟨hk, hm⟩ := ih hl
      refine ⟨List.forall_mem_cons.2 ⟨ha, hk⟩, fun hx => ?_⟩
      rcases List.mem_cons.1 hx with rfl | hx
      · exact List.mem_cons_self
      · exact List.mem_cons_of_mem _ (hm hx)
    | pair a b _ ih =>
      intro hb
      obtain ⟨⟨p, rfl, hp⟩, hb'⟩ := List.forall_mem_cons.1 hb
      obtain ⟨⟨q, rfl, hq⟩, hl⟩ := List.forall_mem_cons.1 hb'
      obtain ⟨hk, hm⟩ := ih hl
      obtain ⟨c, hc, hpq, hpc, hqc⟩ := hs.1 p q
      have hcx : le c x := by rcases hpq with rfl | rfl <;> assumption
      rw [hc]
      refine ⟨List.forall_mem_cons.2 ⟨⟨c, rfl, hcx⟩, hk⟩, fun hx => ?_⟩
      simp only [List.mem_cons, RVal.i.injEq] at hx ⊢
      rcases hx with rfl | rfl | hx
      · exact .inl (hs.2 _ _ hpc hcx)
      · exact .inl (hs.2 _ _ hqc hcx)
      · exact .inr (hm hx)
  rintro ⟨hx, hb⟩
  obtain ⟨hk, hm⟩ := key hb
  exact ⟨hm hx, hk⟩

/-- Of a list that is not empty, one integer stands above all. -/
theorem exists_extreme {le : Int → Int → Prop} (hs : Selects r le) (zs : List Int) (h : zs ≠ []) (htot : ∀ a b c, le a b → le b c → le a c) :
    ∃ x ∈ zs, ∀ z ∈ zs, le z x := by
  induction zs with
  | nil => exact absurd rfl h
  | cons z zs ih =>
    have hself (a : Int) : le a a := by
      obtain ⟨c, -, rfl | rfl, h1, -⟩ := hs.1 a a <;> exact h1
    by_cases h0 : zs = []
    · subst h0
      exact ⟨z, List.mem_cons_self, fun y hy => by rw [List.mem_singleton.1 hy]; exact hself z⟩
    · obtain ⟨x, hx, hz⟩ := ih h0
      obtain ⟨c, -, hc, h1, h2⟩ := hs.1 z x
      rcases hc with hc | hc <;> rw [hc] at h1 h2
      · exact ⟨z, List.mem_cons_self, List.forall_mem_cons.2 ⟨h1, fun y hy => htot _ _ _ (hz y hy) h2⟩⟩
      · exact ⟨x, List.mem_cons_of_mem _ hx, List.forall_mem_cons.2 ⟨h1, hz⟩⟩

/-- An integer maximum or minimum is that of an active element, which stands above every active one. -/
theorem rowReduce_extreme {le : Int → Int → Prop} (hs : Selects r le) (hr : r ≠ .sumsq) (htrans : ∀ a b c, le a b → le b c → le a c)
    (ht : t.isFloat = false) (hp : ∀ j, pat j < 2 ^ t.width) (hj : ∃ j < 128, m.getLsbD j = true) :
    let q := (rowReduce r t st m pat).1
    (∃ j < 128, m.getLsbD j = true ∧ q = pat j) ∧ ∀ j < 128, m.getLsbD j = true → le (patInt t (pat j)) (patInt t q) := by
  intro q
  have hmem (x : Int) : x ∈ activeInts t m pat ↔ ∃ j < 128, m.getLsbD j = true ∧ patInt t (pat j) = x := by
    simp [activeInts, and_assoc]
  obtain ⟨j, hj, hm⟩ := hj
  have hne : activeInts t m pat ≠ [] := List.ne_nil_of_mem ((hmem _).2 ⟨j, hj, hm, rfl⟩)
  obtain ⟨x, hx, hall⟩ := exists_extreme hs _ hne htrans
  obtain ⟨i, hi, hmi, rfl⟩ := (hmem x).1 hx
  have h0 : .i (patInt t (pat i)) ∈ redLeaves r t m pat ∧ Bounded le (patInt t (pat i)) (redLeaves r t m pat) := by
    rw [redLeaves_of_int ht hr]
    exact ⟨List.mem_map_of_mem hx, List.forall_mem_map.2 fun z hz => ⟨z, rfl, hall z hz⟩⟩
  obtain ⟨o, ⟨ho, -⟩, he⟩ := rowReduce_root (st := st) (merges_extreme hs) h0
  have hq : q = pat i := by
    cases o with
    | none => cases ho
    | some v =>
      rw [Option.toList_some, List.mem_singleton] at ho
      exact (he.trans (by rw [Option.getD_some, ← ho]; rfl)).trans (patInt_of_wrapInt (hp i))
  exact ⟨⟨i, hi, hmi, hq⟩, fun k hk hmk => hq ▸ hall _ ((hmem _).2 ⟨k, hk, hmk, rfl⟩)⟩

end Integers

end Sys2Proof.Machine

end

section
/-! PROOFS. What the element functions, comparisons and conversions give (R139 to R151, R154, R162, R165). -/

namespace Sys2Proof.Machine

open Sys2Proof.Safety

/-! ### Carry-less products (R150) -/

/-- Bit `n` of a carry-less product over the first `i` bits of the second operand. -/
theorem testBit_clmulNat (x y i n : Nat) : (clmulNat x y i).testBit n =
    (((List.range i).filter fun j => y.testBit j && decide (j ≤ n) && x.testBit (n - j)).length % 2 == 1) := by
  induction i with
  | zero => simp [clmulNat]
  | succ i ih =>
    have hp (k : Nat) : ((k + 1) % 2 == 1) = !(k % 2 == 1) := by
      rcases Nat.mod_two_eq_zero_or_one k with h | h <;> simp [h, Nat.add_mod]
    rw [clmulNat, Nat.testBit_xor, ih, List.range_succ, List.filter_append, List.length_append, bitNat_eq_testBit]
    cases hy : y.testBit i
    · simp [hy]
    · rw [if_pos rfl, Nat.testBit_shiftLeft, List.filter_singleton, hy, Bool.true_and]
      cases decide (i ≤ n) && x.testBit (n - i)
      · simp
      · simp [hp]

theorem clmulNat_lt {x w : Nat} (hx : x < 2 ^ w) (y i : Nat) : clmulNat x y i < 2 ^ (w + i) := by
  induction i with
  | zero => exact Nat.two_pow_pos _
  | succ i ih =>
    refine Nat.xor_lt_two_pow (Nat.lt_of_lt_of_le ih (Nat.pow_le_pow_right Nat.two_pos (by omega))) ?_
    split
    · rw [Nat.shiftLeft_eq, ← Nat.add_assoc, Nat.pow_succ, Nat.pow_add]
      have := Nat.mul_lt_mul_of_pos_right hx (Nat.two_pow_pos i)
      omega
    · exact Nat.two_pow_pos _

/-- The halves of a carry-less product. -/
theorem elemF_clmul (t : ETy) (st : VStat) (z x y : Nat) (hx : x < 2 ^ t.width) :
    let bit (n : Nat) : Bool :=
      ((List.range t.width).filter fun j => y.testBit j && decide (j ≤ n) && x.testBit (n - j)).length % 2 == 1
    let lo := elemF .clmul t st z x y
    let hi := elemF .clmulh t st z x y
    lo.1 < 2 ^ t.width ∧ hi.1 < 2 ^ t.width ∧ lo.2 = {} ∧ hi.2 = {} ∧
      ∀ n < t.width, lo.1.testBit n = bit n ∧ hi.1.testBit n = bit (n + t.width) := by
  intro bit lo hi
  have hlo : lo = (clmulNat x y t.width % 2 ^ t.width, {}) := rfl
  have hhi : hi = (clmulNat x y t.width >>> t.width, {}) := rfl
  rw [hlo, hhi]
  refine ⟨Nat.mod_lt _ (Nat.two_pow_pos _), ?_, rfl, rfl, fun n hn => ⟨?_, ?_⟩⟩
  · rw [Nat.shiftRight_eq_div_pow]
    exact Nat.div_lt_of_lt_mul (by rw [← Nat.pow_add]; exact clmulNat_lt hx y _)
  · rw [Nat.testBit_mod_two_pow, testBit_clmulNat, decide_eq_true hn, Bool.true_and]
  · rw [Nat.testBit_shiftRight, testBit_clmulNat, Nat.add_comm n]

/-! ### Floats (R144 to R149, R165) -/

section Floats

variable {t : ETy} {st : VStat} {e : EOp} {z x y : Nat}

/-- The arithmetic of the float types: e4m3 and e5m2 round to nearest even, the others in the mode of STATUS (R63, R140). -/
theorem elemF_floatArith (ht : t.isFloat = true) (he : e ∈ [EOp.add, .sub, .mul, .fma, .fms]) : elemF e t st z x y =
    finishF t st st.flush (floatArith e (if t.isWide then st.mode else .rne) (readF t st.flush z) (readF t st.flush x) (readF t st.flush y)) := by
  simp only [List.mem_cons, List.not_mem_nil, or_false] at he
  rcases he with rfl | rfl | rfl | rfl | rfl
  all_goals
    simp only [elemF, ht, if_true]
    congr 2
    cases t
    case i32 | n32 | i16 | n16 | i8 | n8 => cases ht
    all_goals rfl

/-- What each float operation gives (R144, R145, R165). -/
theorem elemF_of_float {r : Nat × Fl} (ht : t.isFloat = true) :
    let c := readF t st.flush z
    let u := readF t st.flush x
    let w := readF t st.flush y
    let fin := finishF t st st.flush
    let rne := finishRne t st st.flush
    let mode := if t.isWide then st.mode else .rne
    (e, r) ∈ [(EOp.add, fin (addFV mode u w)), (.sub, fin (addFV mode u w.neg)), (.mul, fin (mulFV u w)), (.fma, fin (fmaFV mode u w c)),
      (.fms, fin (fmaFV mode u.neg w c)), (.min, (exactPat t (minFV u w), {})), (.max, (exactPat t (maxFV u w), {})),
      (.clamp, (exactPat t (minFV (maxFV c u) w), {})), (.rcp, rne (rcpFV u)), (.sqrt, rne (sqrtFV u)), (.rsqrt, rne (rsqrtFV u)),
      (.exp2, rne (exp2FV u)), (.log2, rne (log2FV u))] → elemF e t st z x y = r := by
  intro c u w fin rne mode h
  simp only [List.mem_cons, List.not_mem_nil, or_false, Prod.mk.injEq] at h
  rcases h with ⟨rfl, rfl⟩ | ⟨rfl, rfl⟩ | ⟨rfl, rfl⟩ | ⟨rfl, rfl⟩ | ⟨rfl, rfl⟩ | ⟨rfl, rfl⟩ | ⟨rfl, rfl⟩ | ⟨rfl, rfl⟩ | ⟨rfl, rfl⟩ | ⟨rfl, rfl⟩ |
    ⟨rfl, rfl⟩ | ⟨rfl, rfl⟩ | ⟨rfl, rfl⟩
  -- the five that round in the mode, the three that give an operand, and the special functions
  iterate 5 · exact elemF_floatArith ht (by simp)
  iterate 3 · simp only [elemF, ht, if_true, c, u, w]
  all_goals rfl

theorem elemF_scale2 : elemF .scale2 t st z x y =
    let u := readF t st.flush x
    if u.isNaN then (nanPat t, {}) else if u.isInf then (exactPat t u, {}) else finishF t st st.flush (u.scale (signedNat t.width y)).exact := by
  simp only [elemF]
  cases readF t st.flush x <;> rfl

/-- The bitwise operations and vmov work on the pattern (R147, R159). -/
theorem elemF_of_bits {r : Nat × Fl}
    (h : (e, r) ∈ [(EOp.and, (x &&& y, ({} : Fl))), (.or, (x ||| y, {})), (.xor, (x ^^^ y, {})), (.mov, (x, {}))]) : elemF e t st z x y = r := by
  simp only [List.mem_cons, List.not_mem_nil, or_false, Prod.mk.injEq] at h
  rcases h with ⟨rfl, rfl⟩ | ⟨rfl, rfl⟩ | ⟨rfl, rfl⟩ | ⟨rfl, rfl⟩ <;> rfl

/-- The sign operations are those of the pattern (R146). -/
theorem elemF_signOp (ht : t.isFloat = true) (he : e ∈ [EOp.abs, .neg, .cpsgn]) : elemF e t st z x y = (signOp e t x y, {}) := by
  simp only [List.mem_cons, List.not_mem_nil, or_false] at he
  rcases he with rfl | rfl | rfl <;> simp only [elemF, ht, if_true]

theorem width_pos (t : ETy) : 0 < t.width := by cases t <;> decide

/-- The sign of a pattern that is no NaN is its top bit, and the rest is its magnitude. -/
theorem signOp_of_not_nan {v : Nat} (hn : (patFV t x).isNaN = false) (hx : x < 2 ^ t.width) (hy : y < 2 ^ t.width) :
    let top := 2 ^ (t.width - 1)
    (e, v) ∈ [(EOp.abs, x % top), (.neg, (x + top) % (2 * top)), (.cpsgn, x % top + y / top * top)] → signOp e t x y = v := by
  intro top h
  have htop : 2 ^ t.width = 2 * top := two_pow_eq (width_pos t)
  have hpos : 0 < top := Nat.two_pow_pos _
  simp only [List.mem_cons, List.not_mem_nil, or_false, Prod.mk.injEq] at h
  simp only [signOp, hn, signPat, Bool.false_eq_true, if_false]
  rcases h with ⟨rfl, rfl⟩ | ⟨rfl, rfl⟩ | ⟨rfl, rfl⟩
  · rfl
  · by_cases hge : x ≥ top
    · have h1 : x % top = x - top := by rw [Nat.mod_eq_sub_mod hge, Nat.mod_eq_of_lt (by omega)]
      have h2 : (x + top) % (2 * top) = x - top := by
        rw [Nat.mod_eq_sub_mod (by omega), Nat.mod_eq_of_lt (by omega)]
        omega
      exact (if_pos hge).trans (h1.trans h2.symm)
    · have h1 : x % top = x := Nat.mod_eq_of_lt (by omega)
      have h2 : (x + top) % (2 * top) = x + top := Nat.mod_eq_of_lt (by omega)
      exact (if_neg hge).trans (by rw [h1, h2])
  · by_cases hge : y ≥ top
    · have h1 : y / top = 1 := Nat.div_eq_of_lt_le (by omega) (by omega)
      exact (if_pos hge).trans (by rw [h1, Nat.one_mul])
    · have h1 : y / top = 0 := Nat.div_eq_of_lt (by omega)
      exact (if_neg hge).trans (by rw [h1, Nat.zero_mul, Nat.add_zero])

end Floats

/-! ### Integers (R141, R144 to R147) -/

theorem intArith_min (p i k : Int) : intArith .min p i k = min i k := by
  simp only [intArith]
  omega

theorem intArith_max (p i k : Int) : intArith .max p i k = max i k := by
  simp only [intArith]
  omega

theorem intArith_clamp (p i k : Int) : intArith .clamp p i k = min (max p i) k := by
  simp only [intArith]
  omega

theorem intArith_abs (p i k : Int) : intArith .abs p i k = (i.natAbs : Int) := by
  simp only [intArith]
  omega

/-- What each integer operation gives (R144 to R147). -/
theorem elemF_of_int {t : ETy} {st : VStat} {e : EOp} {z x y : Nat} {r : Nat × Fl} (ht : t.isFloat = false) :
    let p := patInt t z
    let i := patInt t x
    let k := patInt t y
    let wrap (n : Int) : Nat × Fl := (wrapInt t.width n, {})
    (e, r) ∈ [(EOp.add, finishI t (i + k)), (.sub, finishI t (i - k)), (.mul, finishI t (i * k)), (.fma, finishI t (p + i * k)),
      (.fms, finishI t (p - i * k)), (.min, wrap (min i k)), (.max, wrap (max i k)), (.clamp, wrap (min (max p i) k)),
      (.abs, finishI t (i.natAbs : Int)), (.neg, finishI t (-i)),
      (.shl, (if y < t.width then (x <<< y) % 2 ^ t.width else 0, {})), (.shr, (if y < t.width then x >>> y else 0, {})),
      (.sra, wrap (signedNat t.width x / ((2 ^ min y t.width : Nat) : Int)))] → elemF e t st z x y = r := by
  intro p i k wrap h
  have hmin : (if y ≥ t.width then t.width else y) = min y t.width := by split <;> omega
  have hshift (a b : Nat) : (if y ≥ t.width then a else b) = if y < t.width then b else a := by
    by_cases hy : y < t.width
    · rw [if_pos hy, if_neg (by omega)]
    · rw [if_neg hy, if_pos (by omega)]
  simp only [List.mem_cons, List.not_mem_nil, or_false, Prod.mk.injEq] at h
  rcases h with ⟨rfl, rfl⟩ | ⟨rfl, rfl⟩ | ⟨rfl, rfl⟩ | ⟨rfl, rfl⟩ | ⟨rfl, rfl⟩ | ⟨rfl, rfl⟩ | ⟨rfl, rfl⟩ | ⟨rfl, rfl⟩ | ⟨rfl, rfl⟩ | ⟨rfl, rfl⟩ |
    ⟨rfl, rfl⟩ | ⟨rfl, rfl⟩ | ⟨rfl, rfl⟩ <;> simp only [elemF, ht, Bool.false_eq_true, if_false]
  iterate 5 · rfl
  · rw [intArith_min]
  · rw [intArith_max]
  · rw [intArith_clamp]
  · rw [intArith_abs]
  · rfl
  · rw [shiftPat, hshift]
  · rw [shiftPat, hshift]
  · rw [shiftPat, hmin] <;> simp

/-! ### Comparisons (R151) -/

theorem ltFV_nan {u w : FV} (h : u.isNaN = true ∨ w.isNaN = true) : ltFV u w = false := by
  have : ltTotal u w = false := by
    rcases h with h | h
    · cases u
      case nan => rfl
      all_goals cases h
    · cases w
      case nan => cases u <;> rfl
      all_goals cases h
  simp [ltFV, this]

theorem cmpPred_of_ordered {p : Pred} {t : ETy} {flush b : Bool} {x y : Nat} (ht : t.isFloat = true) :
    let u := readF t flush x
    let w := readF t flush y
    u.isNaN = false → w.isNaN = false →
    (p, b) ∈ [(Pred.eq, eqFV u w), (.ne, !eqFV u w), (.lt, ltFV u w), (.le, !ltFV w u), (.gt, ltFV w u), (.ge, !ltFV u w),
      (.unord, false), (.ord, true)] → cmpPred p t flush x y = (b, {}) := by
  intro u w hu hw h
  simp only [List.mem_cons, List.not_mem_nil, or_false, Prod.mk.injEq] at h
  rcases h with ⟨rfl, rfl⟩ | ⟨rfl, rfl⟩ | ⟨rfl, rfl⟩ | ⟨rfl, rfl⟩ | ⟨rfl, rfl⟩ | ⟨rfl, rfl⟩ | ⟨rfl, rfl⟩ | ⟨rfl, rfl⟩ <;>
    simp only [cmpPred, ht, if_true, u, w, hu, hw, Bool.or_false, Bool.not_false, Bool.true_and]

/-- A NaN is unordered: all but eq, ne, unord and ord raise NV. -/
theorem cmpPred_of_nan {p : Pred} {t : ETy} {flush : Bool} {x y : Nat} (ht : t.isFloat = true)
    (h : (readF t flush x).isNaN = true ∨ (readF t flush y).isNaN = true) :
    cmpPred p t flush x y = (p == .ne || p == .unord, { nv := p == .lt || p == .le || p == .gt || p == .ge }) := by
  have hor : ((readF t flush x).isNaN || (readF t flush y).isNaN) = true := by simpa using h
  have heq : eqFV (readF t flush x) (readF t flush y) = false := by
    rcases h with h | h <;> simp [eqFV, h]
  cases p <;> simp only [cmpPred, ht, if_true, hor, heq, ltFV_nan h, ltFV_nan h.symm] <;> rfl

theorem cmpPred_of_int {p : Pred} {t : ETy} {flush b : Bool} {x y : Nat} (ht : t.isFloat = false)
    (h : (p, b) ∈ [(Pred.eq, decide (patInt t x = patInt t y)), (.ne, decide (patInt t x ≠ patInt t y)), (.lt, decide (patInt t x < patInt t y)),
      (.le, decide (patInt t x ≤ patInt t y)), (.gt, decide (patInt t x > patInt t y)), (.ge, decide (patInt t x ≥ patInt t y))]) :
    cmpPred p t flush x y = (b, {}) := by
  simp only [List.mem_cons, List.not_mem_nil, or_false, Prod.mk.injEq] at h
  rcases h with ⟨rfl, rfl⟩ | ⟨rfl, rfl⟩ | ⟨rfl, rfl⟩ | ⟨rfl, rfl⟩ | ⟨rfl, rfl⟩ | ⟨rfl, rfl⟩ <;>
    simp only [cmpPred, ht, Bool.false_eq_true, if_false]
  · rfl
  · simp [bne, BEq.beq]

/-! ### Conversions (R66 to R68, R154) -/

section Conversions

variable {src dst : ETy} {st : VStat} {x : Nat}

theorem fmt_of_float (h : src.isFloat = true) : ∃ f, src.fmt = some f := Option.isSome_iff_exists.1 h

theorem fmt_of_int (h : src.isFloat = false) : src.fmt = none := by simpa [ETy.isFloat] using h

theorem convert_float_float (hs : src.isFloat = true) (hd : dst.isFloat = true) (h : src ≠ dst) :
    convert src dst st x = finishF dst st st.flush (readF src st.flush x).exact := by
  obtain ⟨f, hf⟩ := fmt_of_float hs
  obtain ⟨g, hg⟩ := fmt_of_float hd
  simp only [convert, hf, hg]
  rw [if_neg (by simpa using h)]

theorem convert_self_nan (hs : src.isFloat = true) (hn : (patFV src x).isNaN = true) : convert src src st x = (nanPat src, {}) := by
  obtain ⟨f, hf⟩ := fmt_of_float hs
  simp [convert, hf, hn]

theorem convert_self (hs : src.isFloat = true) (hn : (patFV src x).isNaN = false) (hfl : st.flush = false) :
    convert src src st x = (x, {}) := by
  obtain ⟨f, hf⟩ := fmt_of_float hs
  simp only [convert, hf, BEq.rfl, if_true, hn, Bool.false_eq_true, if_false, hfl, Bool.false_and]
  cases patFV src x <;> rfl

theorem convert_float_int (hs : src.isFloat = true) (hd : dst.isFloat = false) :
    let q := toIntRange st.mode dst.intLo dst.intHi (readF src st.flush x)
    convert src dst st x = (wrapInt dst.width q.1, q.2) := by
  obtain ⟨f, hf⟩ := fmt_of_float hs
  simp only [convert, hf, fmt_of_int hd]

theorem convert_int_float (hs : src.isFloat = false) (hd : dst.isFloat = true) :
    convert src dst st x = finishF dst st st.flush (intExact (patInt src x)) := by
  obtain ⟨g, hg⟩ := fmt_of_float hd
  simp only [convert, fmt_of_int hs, hg]

theorem intLo_le_intHi (t : ETy) : t.intLo ≤ t.intHi := by cases t <;> decide

theorem convert_int_int (hs : src.isFloat = false) (hd : dst.isFloat = false) :
    let i := patInt src x
    convert src dst st x =
      (wrapInt dst.width (max dst.intLo (min dst.intHi i)), if i < dst.intLo ∨ dst.intHi < i then Fl.saturate else {}) := by
  intro i
  have hr := intLo_le_intHi dst
  simp only [convert, fmt_of_int hs, fmt_of_int hd]
  by_cases h1 : i < dst.intLo
  · rw [if_pos h1, if_pos (.inl h1), show max dst.intLo (min dst.intHi i) = dst.intLo by omega]
  · rw [if_neg h1]
    by_cases h2 : dst.intHi < i
    · rw [if_pos h2, if_pos (.inr h2), show max dst.intLo (min dst.intHi i) = dst.intHi by omega]
    · rw [if_neg h2, if_neg (by omega), show max dst.intLo (min dst.intHi i) = i by omega]

end Conversions

/-! ### vround of what is no number (R155) -/

section Round

variable {t : ETy} {st : VStat} {m : Nat} {mode : RMode} {z x y : Nat}

theorem elemF_round_nan (ht : t.isFloat = true) (hm : RMode.ofCode (if m = 5 then st.vrm else m) = some mode)
    (h : (readF t st.flush x).isNaN = true) : elemF (.round m) t st z x y = (nanPat t, {}) := by
  obtain ⟨f, hf⟩ := fmt_of_float ht
  rw [elemF_round hf hm]
  cases hu : readF t st.flush x with
  | nan => simp only [roundIntegral, roundTo, nanPat, hf]
  | inf _ | fin _ _ _ => rw [hu] at h; cases h

theorem elemF_round_inf (ht : t.isFloat = true) (hm : RMode.ofCode (if m = 5 then st.vrm else m) = some mode)
    (h : (readF t st.flush x).isInf = true) : elemF (.round m) t st z x y = (exactPat t (readF t st.flush x), {}) := by
  obtain ⟨f, hf⟩ := fmt_of_float ht
  rw [elemF_round hf hm]
  cases hu : readF t st.flush x with
  | inf b =>
    simp only [roundIntegral, exactPat, hf, FV.exact]
    cases f.hasInf <;> rfl
  | nan | fin _ _ _ => rw [hu] at h; cases h

end Round

/-- What vext moves (R162). -/
theorem extValue_eq (a : WinArgs) (m : Mask) (g : Grid) :
    let i := op2Pat a true g 0 0 % 128
    let p := cellPat a.ty (rdWin a.w1 g 0 i)
    extValue a m g =
      if m.getLsbD i = false then 0 else if a.ty.isSigned then BitVec.ofInt 64 (signedNat a.ty.width p) else BitVec.ofNat 64 p := by
  intro i p
  simp only [extValue, active_eq]
  cases m.getLsbD (op2Pat a true g 0 0 % 128) <;> simp [i, p]

end Sys2Proof.Machine

end

section
/-! PROOFS. The window pipe: the unit of a window instruction, and what each gives the elements of its vector (O28). -/

namespace Sys2Proof.Machine

open Sys2Proof.Safety

/-! ### The unit of a window instruction (R118, R166, R167, R376) -/

section Unit

variable {s : State} {e : Entry} {op : WOp} {a : WinArgs}

/-- The mask that governs a window instruction. -/
abbrev winMask (s : State) (a : WinArgs) : Mask := s.core.masks.governing a.km

/-- What the pipe computes for the entry's next vector. -/
def vecOut (s : State) (e : Entry) (op : WOp) (a : WinArgs) : VecOut :=
  vecStep op a e.st (winMask s a) s.core.grid e.vp e.fl e.prog

/-- The entry behind that vector. -/
def vecEntry (s : State) (e : Entry) (op : WOp) (a : WinArgs) : Entry :=
  { e with prog := e.prog + 1, vp := (vecOut s e op a).prog, fl := (vecOut s e op a).flags }

/-- The grid behind that vector. -/
def vecState (s : State) (e : Entry) (op : WOp) (a : WinArgs) : State :=
  s.updCore fun c => { c with grid := (vecOut s e op a).grid }

theorem runVec_ext : s.runVec e .pass .ext a = (s.updCore fun c => c.setReg a.xd (extValue a (winMask s a) c.grid), .done e) := rfl

theorem runVec_nothing (hx : op ≠ .ext) (h : winCount op a ≤ e.prog) : s.runVec e .pass op a = (s, .done e) := by
  simp [State.runVec, hx, h]

theorem runVec_more (hx : op ≠ .ext) (h : e.prog + 1 < winCount op a) :
    s.runVec e .pass op a = (vecState s e op a, .more (vecEntry s e op a)) := by
  have hn : ¬winCount op a ≤ e.prog := by omega
  cases op
  case ext => exact absurd rfl hx
  all_goals
    simp only [State.runVec, State.runVecAt, hn, decide_false, Bool.and_false, Bool.false_eq_true, if_false]
    exact if_pos h

/-- With the last vector of a comparison its mask is written. -/
theorem runVec_cmp {p : Pred} (h : e.prog + 1 = winCount (.cmp p) a) : s.runVec e .pass (.cmp p) a =
    ((vecState s e (.cmp p) a).updCore fun c => { c with
      masks := c.masks.write a.kd (State.cmpMask (c.masks.read a.kd) (winMask s a) (vecOut s e (.cmp p) a).prog.acc) },
     .done (vecEntry s e (.cmp p) a)) := by
  have hn : ¬winCount (.cmp p) a ≤ e.prog := by omega
  simp only [State.runVec, State.runVecAt, hn, decide_false, Bool.and_false, Bool.false_eq_true, if_false]
  exact if_neg (by omega)

/-- With the last vector of a column reduction its row is written. -/
theorem runVec_colRed {k : Red} (h : e.prog + 1 = winCount (.colRed k) a) : s.runVec e .pass (.colRed k) a =
    (let z := colFinish k a e.st (winMask s a) s.core.grid (vecOut s e (.colRed k) a).prog (vecOut s e (.colRed k) a).flags
     (s.updCore fun c => { c with grid := z.1 }, .done { vecEntry s e (.colRed k) a with fl := z.2 })) := by
  have hn : ¬winCount (.colRed k) a ≤ e.prog := by omega
  simp only [State.runVec, State.runVecAt, hn, decide_false, Bool.and_false, Bool.false_eq_true, if_false]
  exact if_neg (by omega)

/-- With the last vector of any other the instruction is done. -/
theorem runVec_last (hx : op ≠ .ext) (hc : ∀ p, op ≠ .cmp p) (hr : ∀ k, op ≠ .colRed k) (h : e.prog + 1 = winCount op a) :
    s.runVec e .pass op a = (vecState s e op a, .done (vecEntry s e op a)) := by
  have hn : ¬winCount op a ≤ e.prog := by omega
  cases op
  case ext => exact absurd rfl hx
  case cmp p => exact absurd rfl (hc p)
  case colRed k => exact absurd rfl (hr k)
  all_goals
    simp only [State.runVec, State.runVecAt, hn, decide_false, Bool.and_false, Bool.false_eq_true, if_false]
    exact if_neg (by omega)

/-- One vector of the oldest window entry. -/
theorem windowPipe_win (h : Alone s e) (hn : NoAbsent s) (ho : e.op = .win op a) :
    let m := s.core.masks.governing a.km
    let r := vecStep op a e.st m s.core.grid e.vp e.fl e.prog
    let t := s.updCore fun c => { c with grid := r.grid }
    let e1 : Entry := { e with prog := e.prog + 1, vp := r.prog, fl := r.flags }
    let went := exec (.windowPipeVector .pass) s
    (op = .ext → went = .next (retired (s.updCore fun c => c.setReg a.xd (extValue a m c.grid)) e)) ∧
    (op ≠ .ext → winCount op a ≤ e.prog → went = .next (retired s e)) ∧
    (op ≠ .ext → e.prog + 1 < winCount op a → went = .next (still t e1)) ∧
    (op ≠ .ext → e.prog + 1 = winCount op a →
      (∀ p, op = .cmp p → went = .next (retired (t.updCore fun c =>
        { c with masks := c.masks.write a.kd ((c.masks.read a.kd &&& ~~~m) ||| (r.prog.acc &&& m)) }) e1)) ∧
      (∀ k, op = .colRed k →
        let z := colFinish k a e.st m s.core.grid r.prog r.flags
        went = .next (retired (s.updCore fun c => { c with grid := z.1 }) { e1 with fl := z.2 })) ∧
      ((∀ p, op ≠ .cmp p) → (∀ k, op ≠ .colRed k) → went = .next (retired t e1))) := by
  have hf : s.core.flight = [e] := h.1
  have hp : e.op.pipe = 1 := by rw [ho]; rfl
  have hu : s.runUnit [] true .pass e = s.runVec e .pass op a := by rw [State.runUnit, ho]
  refine ⟨?_, fun hx hc => ?_, fun hx hc => ?_, fun hx hc => ⟨?_, ?_, fun hnc hnr => ?_⟩⟩
  · rintro rfl
    exact windowPipe_done h hn hp (hu.trans runVec_ext) (by simpa using hf)
  · exact windowPipe_done h hn hp (hu.trans (runVec_nothing hx hc)) hf
  · exact windowPipe_more h hn hp (hu.trans (runVec_more hx hc)) hf h.2.1
  · rintro p rfl
    exact windowPipe_done h hn hp (hu.trans (runVec_cmp hc)) hf
  · rintro k rfl
    exact windowPipe_done h hn hp (hu.trans (runVec_colRed hc)) hf
  · exact windowPipe_done h hn hp (hu.trans (runVec_last hx hnc hnr hc)) hf

end Unit

/-! ### The cells of a vector (R117, R119, R124) -/

theorem window_read_write (w : Window) (g : Grid) (v j : Nat) (f : Nat → Option Cell) (hj : j < 128) :
    let here (h : Grid) (n : Nat) : Cell :=
      let b := (((w.origin : Int) + (n : Int) * w.stride) % 128).toNat
      match w.mode with
      | .row => h.cell w.half b j
      | .col => h.cell w.half j b
      | .diag => h.cell w.half j ((j + b) % 128)
    w.read g v j = here g (if w.count = 1 then 0 else v) ∧ here (w.write g v f) v = (f j).getD (here g v) := by
  intro here
  have hh (h : Grid) (n : Nat) : here h n = w.cellAt h j n := by
    simp only [here, Window.cellAt, Window.rowOf, Window.colOf, Window.base]
    cases w.mode <;> rfl
  rw [hh, hh, hh, Window.read_eq_cellAt]
  exact ⟨rfl, w.cellAt_write g v j f hj⟩

/-! ### The elements of a vector (R138 to R165) -/

section Vector

variable {a : WinArgs} {d : Window} {st : VStat} {m : Mask} {g : Grid} {pr : VProg} {fl : FlagRec} {v : Nat}

/-- A list of positions that is written down in order. -/
theorem filter_range_single {n i : Nat} (hi : i < n) : (List.range n).filter (fun k => k == i) = [i] := by
  induction n with
  | zero => omega
  | succ n ih =>
    rw [List.range_succ, List.filter_append]
    by_cases h : i = n
    · subst h
      have : (List.range i).filter (fun k => k == i) = [] := List.filter_eq_nil_iff.2 fun k hk => by
        have := List.mem_range.1 hk
        simp
        omega
      simp [this]
    · rw [ih (by omega)]
      have : (n == i) = false := beq_false_of_ne fun e => h e.symm
      simp [this]

theorem filter_range_pair {n i j : Nat} (hij : i < j) (hj : j < n) : (List.range n).filter (fun k => k == i || k == j) = [i, j] := by
  induction n with
  | zero => omega
  | succ n ih =>
    rw [List.range_succ, List.filter_append]
    by_cases h : j = n
    · subst h
      have : (List.range j).filter (fun k => k == i || k == j) = [i] := by
        rw [← filter_range_single hij]
        refine List.filter_congr fun k hk => ?_
        have hk := List.mem_range.1 hk
        rw [beq_false_of_ne (Nat.ne_of_lt hk), Bool.or_false]
      simp [this]
    · rw [ih (by omega)]
      have h1 : (n == i) = false := beq_false_of_ne (by omega)
      have h2 : (n == j) = false := beq_false_of_ne (by omega)
      simp [h1, h2]

theorem redLeaves_single {r : Red} {t : ETy} {pat : Nat → Nat} {i : Nat} (hi : i < 128) (h : ∀ n < 128, m.getLsbD n = (n == i)) :
    redLeaves r t m pat = [(redLeaf r t (pat i)).1] := by
  rw [redLeaves, List.filter_congr fun n hn => h n (List.mem_range.1 hn), filter_range_single hi]
  rfl

theorem redLeaves_pair {r : Red} {t : ETy} {pat : Nat → Nat} {i j : Nat} (hij : i < j) (hj : j < 128)
    (h : ∀ n < 128, m.getLsbD n = (n == i || n == j)) : redLeaves r t m pat = [(redLeaf r t (pat i)).1, (redLeaf r t (pat j)).1] := by
  rw [redLeaves, List.filter_congr fun n hn => h n (List.mem_range.1 hn), filter_range_pair hij hj]
  rfl

/-- A row reduction: sums of integers are exact before they wrap, an integer maximum or minimum is that of an active element, and one or two active
elements leave one leaf or one node (R79, R152). -/
theorem rowReduce_eq (k : Red) (t : ETy) (st : VStat) (m : Mask) (x : Nat → Nat) (hx : t.isFloat = false → ∀ j, x j < 2 ^ t.width) :
    let q := rowReduce k t st m x
    (t.isFloat = false → k = .sum →
      q.1 = wrapInt t.width ((List.range 128).map fun j => if m.getLsbD j then patInt t (x j) else 0).sum) ∧
    (t.isFloat = false → k = .max → (∃ j < 128, m.getLsbD j = true) →
      (∃ j < 128, m.getLsbD j = true ∧ q.1 = x j) ∧ ∀ j < 128, m.getLsbD j = true → patInt t (x j) ≤ patInt t q.1) ∧
    (t.isFloat = false → k = .min → (∃ j < 128, m.getLsbD j = true) →
      (∃ j < 128, m.getLsbD j = true ∧ q.1 = x j) ∧ ∀ j < 128, m.getLsbD j = true → patInt t q.1 ≤ patInt t (x j)) ∧
    (t.isFloat = false → k = .sumsq →
      q.1 = wrapInt t.width ((List.range 128).map fun j => if m.getLsbD j then patInt t (x j) * patInt t (x j) else 0).sum) ∧
    (∀ i < 128, (∀ n < 128, m.getLsbD n = (n == i)) → t.isFloat = true →
      let u := patFV t (x i)
      let leaf := if k = .sumsq then fmtF32.decode (roundTo fmtF32 .ieee .rne false (mulFV u u)).1 else u
      q.1 = (finishRne t st false leaf.exact).1) ∧
    (∀ i j, i < j → j < 128 → (∀ n < 128, m.getLsbD n = (n == i || n == j)) →
      q.1 = (redRoot t st (redOp k (redLeaf k t (x i)).1 (redLeaf k t (x j)).1).1).1) := by
  intro q
  refine ⟨?_, ?_, ?_, ?_, fun i hi h ht => ?_, fun i j hij hj h => rowReduce_pair (redLeaves_pair hij hj h)⟩
  · rintro ht rfl
    exact rowReduce_sum_int (.inl rfl) ht ⟨_, redLeaves_of_int ht (by simp), sum_active _ 128⟩
  · rintro ht rfl hj
    exact rowReduce_extreme selects_max (by simp) (fun _ _ _ => Int.le_trans) ht (hx ht) hj
  · rintro ht rfl hj
    exact rowReduce_extreme selects_min (by simp) (fun _ _ _ h k => Int.le_trans k h) ht (hx ht) hj
  · rintro ht rfl
    refine rowReduce_sum_int (.inr rfl) ht ⟨_, redLeaves_sumsq_of_int ht, ?_⟩
    rw [activeInts, List.map_map]
    exact sum_active _ 128
  · intro u leaf
    have hl : (redLeaf k t (x i)).1 = .f leaf := by
      simp only [redLeaf, ht, if_true, leaf]
      cases k <;> rfl
    rw [show q.1 = _ from rowReduce_single (redLeaves_single hi h), hl]
    rfl

/-- Nothing is merged of an element that raises no flag. -/
theorem addLowest_none (r : FlagRec) (v j : Nat) : r.addLowest Fl.none v j = r := by
  have hl (o : Option (Nat × Nat)) : FlagRec.lowest o none = o := by cases o <;> rfl
  simp only [FlagRec.addLowest, Fl.none, Bool.false_eq_true, if_false, hl]
  simp [Fl.or]

/-- An element-wise operation whose element function gives `f` (R139). -/
theorem vecStep_elem_eq (hd : a.wd = some d) {e : EOp} {f : Nat → Nat × Fl} (hf : ∀ j, elemF e a.ty st (cellPat a.ty (d.read g v j))
    (elemSrc e a g v j) (op2Pat a (usesIntCol (.elem e)) g v j) = f j) :
    (vecStep (.elem e) a st m g pr fl v).grid = d.write g v (fun j => if m.getLsbD j then some (patCell a.ty (f j).1) else none) ∧
    (vecStep (.elem e) a st m g pr fl v).flags = gatherFlags v (gather m f) fl := by
  rw [vecStep_elem hd, funext hf]
  exact ⟨rfl, rfl⟩

/-- vmov of forms 01 and 10 takes its element from the second operand (R159). -/
theorem elemSrc_mov (h : a.op2 ≠ .window) (j : Nat) : elemSrc .mov a g v j = op2Pat a (usesIntCol (.elem .mov)) g v j := by
  have hm : movFromOp2 .mov a.op2 = true := by simpa [movFromOp2] using h
  simp [elemSrc, hm]

theorem vecStep_sel (hd : a.wd = some d) : (vecStep .sel a st m g pr fl v).grid =
    d.write g v fun j => some (patCell a.ty (if m.getLsbD j then cellPat a.ty (rdWin a.w1 g v j) else op2Pat a (usesIntCol .sel) g v j)) := by
  simp only [vecStep, wrWin, hd, active_eq]

theorem vecStep_perm (hd : a.wd = some d) : (vecStep .perm a st m g pr fl v).grid = d.write g v fun j =>
    if m.getLsbD j then some (patCell a.ty (cellPat a.ty (rdWin a.w1 g v ((rdWin a.w2 g v j).toNat % 128)))) else none := by
  simp only [vecStep, wrWin, hd, active_eq]

theorem vecStep_slide (hd : a.wd = some d) : (vecStep .slide a st m g pr fl v).grid = d.write g v fun j =>
    if m.getLsbD j then
      let k : Int := (j : Int) - signedNat a.ty.width (op2Pat a (usesIntCol .slide) g v j)
      some (if 0 ≤ k ∧ k ≤ 127 then patCell a.ty (cellPat a.ty (rdWin a.w1 g v k.toNat)) else 0)
    else none := by
  simp only [vecStep, wrWin, hd, active_eq, Bool.and_eq_true, decide_eq_true_eq]

theorem vecStep_iota (hd : a.wd = some d) : (vecStep .iota a st m g pr fl v).grid = d.write g v fun j =>
    if m.getLsbD j then some (patCell a.ty (if a.ty.isFloat then exactPat a.ty (.fin false j 0) else j)) else none := by
  simp only [vecStep, wrWin, hd, active_eq]

theorem vecStep_rowi (hd : a.wd = some d) : (vecStep .rowi a st m g pr fl v).grid = d.write g v fun j =>
    if m.getLsbD j then some (patCell a.ty (if a.ty.isFloat then exactPat a.ty (.fin false (d.rowOf v j) 0) else d.rowOf v j)) else none := by
  simp only [vecStep, wrWin, hd, active_eq]

/-- The active elements move to the front, and zeros follow them (R164). -/
theorem vecStep_compress (hd : a.wd = some d) : (vecStep .compress a st m g pr fl v).grid = d.write g v fun j =>
    some (match ((List.range 128).filter fun n => m.getLsbD n)[j]? with
      | some n => patCell a.ty (cellPat a.ty (rdWin a.w1 g v n))
      | none => 0) := by
  have ha : actives m = (List.range 128).filter fun n => m.getLsbD n := List.filter_congr fun n _ => active_eq m n
  simp only [vecStep, wrWin, hd, ha] <;> rfl

theorem vecStep_quant (hd : a.wd = some d) (k : Nat) : (vecStep (.quant k) a st m g pr fl v).grid = d.write g v fun j =>
    some (if 4 * j < (packFmt k).vecBytes 128 then
      BitVec.ofNat 32 ((quantize (packFmt k) ((List.range 128).map fun n =>
        if m.getLsbD n then patFV a.ty (cellPat a.ty (rdWin a.w1 g v n)) else .fin false 0 0)).1 >>> (32 * j)) else 0) := by
  simp only [vecStep, wrWin, hd, active_eq, imageCell]

/-- The value of an element of a block vector in the element type (R156, R158). -/
theorem vecStep_dequant (hd : a.wd = some d) (k : Nat) :
    let img := packBits 32 ((List.range ((packFmt k).vecBytes 128 / 4)).map fun p => (rdWin a.w1 g v p).toNat)
    let f (j : Nat) : Nat × Fl := match blockElem (packFmt k) 128 img j with
      | some (.f u) => finishF a.ty st false u.exact
      | _ => (0, {})
    (vecStep (.dequant k) a st m g pr fl v).grid = d.write g v (fun j => if m.getLsbD j then some (patCell a.ty (f j).1) else none) ∧
    (vecStep (.dequant k) a st m g pr fl v).flags = gatherFlags v (gather m f) fl := by
  intro img f
  rw [← map_gather]
  simp only [vecStep, wrWin, hd]
  exact ⟨rfl, rfl⟩

/-- The folds of a column reduction behind a vector (R80, R153). -/
theorem vecStep_colRed (k : Red) {j : Nat} (hj : j < 128) (hm : m.getLsbD j = true) :
    (vecStep (.colRed k) a st m g pr fl v).prog.fold.getD j 0 =
      foldInt (if v = 0 then (redLeaf k a.ty (cellPat a.ty (rdWin a.w1 g v j))).1
        else (redOp k (foldVal a.ty (pr.fold.getD j 0)) (redLeaf k a.ty (cellPat a.ty (rdWin a.w1 g v j))).1).1) := by
  simp only [vecStep, List.map_map, List.getD_eq_getElem?_getD, List.getElem?_map, List.getElem?_range hj, Option.map_some, Option.getD_some,
    Function.comp_apply, active_eq, hm, Bool.not_true, Bool.false_eq_true, if_false]
  split <;> rfl

theorem colFinish_grid (hd : a.wd = some d) (k : Red) : (colFinish k a st m g pr fl).1 = d.write g 0 fun j =>
    if m.getLsbD j then some (patCell a.ty (redRoot a.ty st (foldVal a.ty (pr.fold.getD j 0))).1) else none := by
  simp only [colFinish, wrWin, hd, map_gather]

/-- The flags of one column join the record. -/
def addColumn (p : Nat × FlagRec) (x : Option (Nat × Fl)) : Nat × FlagRec :=
  (p.1 + 1, match x with
    | some y => p.2.addLowest y.2 0 p.1
    | none => p.2)

theorem foldl_addColumn_of_none (l : List (Option (Nat × Fl))) (hl : ∀ y, some y ∈ l → y.2 = Fl.none) (n : Nat) :
    (l.foldl addColumn (n, fl)).2 = fl := by
  induction l generalizing n with
  | nil => rfl
  | cons o l ih =>
    have ih := ih (fun y h => hl y (List.mem_cons_of_mem _ h)) (n + 1)
    cases o with
    | none => exact ih
    | some y =>
      have hy : addColumn (n, fl) (some y) = (n + 1, fl) := by simp only [addColumn, hl y List.mem_cons_self, addLowest_none]
      rw [List.foldl_cons, hy]
      exact ih

theorem colFinish_snd (k : Red) : (colFinish k a st m g pr fl).2 = ((gather m fun j =>
    ((redRoot a.ty st (foldVal a.ty (pr.fold.getD j 0))).1, if k.rounds then (redRoot a.ty st (foldVal a.ty (pr.fold.getD j 0))).2 else Fl.none)).foldl
    addColumn (0, fl)).2 := by
  unfold colFinish
  dsimp only
  generalize gather m _ = l
  rfl

/-- A maximum or minimum merges no flag of the conversion (R142). -/
theorem colFinish_flags (k : Red) (hk : k = .max ∨ k = .min) : (colFinish k a st m g pr fl).2 = fl := by
  have hr : k.rounds = false := by rcases hk with rfl | rfl <;> rfl
  rw [colFinish_snd]
  refine foldl_addColumn_of_none _ (fun y h => ?_) 0
  simp only [gather, hr, Bool.false_eq_true, if_false, List.mem_map] at h
  obtain ⟨j, -, h⟩ := h
  split at h
  · cases h
    rfl
  · cases h

/-- The bits of a comparison: one of an inactive element stays, and one of an active element stays where its predicate holds (R151). -/
theorem vecStep_cmp (p : Pred) {j : Nat} (hj : j < 128) : (vecStep (.cmp p) a st m g pr fl v).prog.acc.getLsbD j =
    (pr.acc.getLsbD j && (!m.getLsbD j || (cmpPred p a.ty st.flush (cellPat a.ty (rdWin a.w1 g v j)) (op2Pat a false g v j)).1)) := by
  simp only [vecStep, getLsbD_maskOf, decide_eq_true hj, Bool.true_and, active_eq, getD_gather, usesIntCol]
  cases m.getLsbD j
  · rfl
  · cases (cmpPred p a.ty st.flush (cellPat a.ty (rdWin a.w1 g v j)) (op2Pat a false g v j)).1 <;> rfl

end Vector

/-- Settles O28: the unit of the entry, and for each instruction and element function the lemma that says what it gives. -/
theorem windowPipeDoesOneVector : Obligations.WindowPipeDoesOneVector := by
  refine ⟨fun s e op a h hn ho => windowPipe_win h hn ho, fun w g v j f hj => window_read_write w g v j f hj, ?_, ?_, ?_, ?_, ?_, ?_, ?_⟩
  · intro op a d st m g pr fl v hd t r x y z put each
    refine ⟨?_, ?_, ?_, ?_, ?_, ?_, ?_, ?_, ?_, ?_, ?_, ?_, ?_⟩
    · rintro e rfl hcvt hmov
      exact vecStep_elem_eq hd fun j => by rw [elemSrc_of_not_cvt hcvt hmov]
    · rintro src rfl
      exact vecStep_elem_eq hd fun j => rfl
    · rintro rfl ho2
      exact vecStep_elem_eq hd fun j => by rw [elemSrc_mov ho2]; rfl
    · rintro rfl
      exact vecStep_sel hd
    · rintro rfl
      exact vecStep_perm hd
    · rintro rfl
      exact vecStep_slide hd
    · rintro rfl
      exact vecStep_iota hd
    · rintro rfl
      exact vecStep_rowi hd
    · rintro rfl
      exact vecStep_compress hd
    · rintro k rfl
      exact vecStep_quant hd k
    · rintro k rfl
      exact vecStep_dequant hd k
    · rintro k rfl q
      refine ⟨?_, rfl, rowReduce_eq k t st m x fun ht j => cellPat_lt ht _⟩
      simp only [put, r, vecStep, wrWin, hd]
      rfl
    · rintro k rfl
      exact ⟨rfl, fun j hj hm => vecStep_colRed k hj hm, colFinish_grid hd k, colFinish_flags k⟩
  · exact fun p a st m g pr fl v j hj => ⟨rfl, vecStep_cmp p hj⟩
  · exact fun p t flush b x y => ⟨cmpPred_of_ordered, cmpPred_of_nan, cmpPred_of_int⟩
  · exact extValue_eq
  · intro e t st z x y r
    refine ⟨elemF_of_float, elemF_of_bits, fun _ => elemF_scale2, fun ht hn he => ?_, fun ht hn hx hy => ?_, elemF_of_int,
      fun hx _ => elemF_clmul t st z x y hx⟩
    · rw [elemF_signOp ht he, signOp, if_pos hn]
    · intro top h
      have he : e ∈ [EOp.abs, .neg, .cpsgn] := by
        simp only [List.mem_cons, List.not_mem_nil, or_false, Prod.mk.injEq] at h ⊢
        exact h.imp (·.1) (Or.imp (·.1) (·.1))
      have hr : r.2 = ({} : Fl) := by
        simp only [List.mem_cons, List.not_mem_nil, or_false, Prod.mk.injEq] at h
        rcases h with ⟨-, rfl⟩ | ⟨-, rfl⟩ | ⟨-, rfl⟩ <;> rfl
      have hs : signOp e t x y = r.1 := by
        refine signOp_of_not_nan hn hx hy ?_
        simp only [List.mem_cons, List.not_mem_nil, or_false, Prod.mk.injEq] at h ⊢
        rcases h with ⟨rfl, rfl⟩ | ⟨rfl, rfl⟩ | ⟨rfl, rfl⟩ <;> simp [top]
      rw [elemF_signOp ht he, hs, ← hr]
  · intro t st z x y m mode ht hm u r
    refine ⟨elemF_round_nan ht hm, elemF_round_inf ht hm, fun n k e hu => ?_⟩
    obtain ⟨f, hf⟩ := fmt_of_float ht
    intro d q rem up
    have hup : up = roundsUp mode n d q rem := by cases mode <;> rfl
    rw [hup]
    exact elemF_round_fin hf hm z y hu
  · exact fun src dst st x => ⟨convert_float_float, convert_self_nan, convert_self, convert_float_int, convert_int_float, convert_int_int⟩

end Sys2Proof.Machine

end

section
/-! PROOFS. The window pipe does masks, fills and copies (R122, R126, R127, R135). -/

namespace Sys2Proof.Machine

open Sys2Proof.Safety

/-! ### One unit of a mask or tile instruction -/

section MaskUnit

variable {s : State} {e : Entry} (h : Alone s e) (hn : NoAbsent s)

include h hn

/-- An instruction of the window pipe whose only unit changes the core by `f`. -/
theorem windowPipe_updCore (f : Core → Core) (hf : ∀ c, (f c).flight = c.flight) (hp : e.op.pipe = 1)
    (hu : s.runUnit [] true .pass e = (s.updCore f, .done e)) : exec (.windowPipeVector .pass) s = .next (retired (s.updCore f) e) :=
  windowPipe_done h hn hp hu ((hf s.core).trans h.1)

theorem windowPipe_kop_mask {op : KOp} {d a b : Nat} {x y : Word} (ho : e.op = .kop op d a b x y) (hr : op.toReg = false) :
    exec (.windowPipeVector .pass) s = .next (retired (s.updCore fun c =>
      { c with masks := c.masks.setIfInBounds d (kopMask op (s.core.masks.read a) (s.core.masks.read b) x y) }) e) :=
  windowPipe_updCore h hn _ (fun _ => rfl) (by rw [ho]; rfl) (State.runUnit_kop ho hr true)

theorem windowPipe_kop_reg {op : KOp} {d a b : Nat} {x y : Word} (ho : e.op = .kop op d a b x y) (hr : op.toReg = true) :
    exec (.windowPipeVector .pass) s = .next (retired (s.updCore fun c => c.setReg d (kopWord op (s.core.masks.read a))) e) :=
  windowPipe_updCore h hn _ (fun _ => by simp) (by rw [ho]; rfl) (by simp [State.runUnit, ho, State.runKop, hr])

theorem windowPipe_wrd {d : Nat} {v : Word} (ho : e.op = .wrd d v) :
    exec (.windowPipeVector .pass) s = .next (retired (s.updCore fun c => c.setReg d v) e) :=
  windowPipe_updCore h hn _ (fun _ => by simp) (by rw [ho]; rfl) (by rw [State.runUnit, ho])

theorem windowPipe_copy {tr : Bool} {f : CopyF} (ho : e.op = .copy tr f) :
    exec (.windowPipeVector .pass) s = .next (retired (s.updCore fun c => { c with grid := copyGrid tr f c.grid }) e) :=
  windowPipe_updCore h hn _ (fun _ => rfl) (by rw [ho]; rfl) (by rw [State.runUnit, ho])

/-- A fill does one vector, or none where nothing is left of it. -/
theorem windowPipe_ofill {w : Window} {km : KField} {v : Cell} (ho : e.op = .ofill w km v) {t : State} {e1 : Entry}
    (ht : t = s.updCore fun c => { c with grid := fillVec w (s.core.masks.governing km) v c.grid e.prog })
    (he : e1 = { e with prog := e.prog + 1 }) :
    exec (.windowPipeVector .pass) s = .next (if w.count ≤ e.prog then retired s e
      else if e.prog + 1 < w.count then still t e1 else retired t e1) := by
  have hp : e.op.pipe = 1 := by rw [ho]; rfl
  have hu : s.runUnit [] true .pass e = if w.count ≤ e.prog then (s, .done e) else
      (t, if e.prog + 1 < w.count then .more e1 else .done e1) := by
    have hrun : s.runUnit [] true .pass e = s.runOfill e w km v := by rw [State.runUnit, ho]
    rw [hrun, ht, he, State.runOfill]
    unfold State.updCore
    rfl
  have hf : t.core.flight = [e] := by rw [ht]; exact h.1
  by_cases hc : w.count ≤ e.prog
  · rw [if_pos hc] at hu ⊢
    exact windowPipe_done h hn hp hu h.1
  · rw [if_neg hc] at hu ⊢
    by_cases hm : e.prog + 1 < w.count
    · rw [if_pos hm] at hu ⊢
      exact windowPipe_more h hn hp hu hf (by rw [he]; exact h.2.1)
    · rw [if_neg hm] at hu ⊢
      exact windowPipe_done h hn hp hu hf

end MaskUnit

/-! ### Fills and copies, cell by cell -/

/-- A fill gives its value to the cell of each active element of a vector, and to no other (R126). -/
theorem cell_fillVec (w : Window) (m : Mask) (x : Cell) (g : Grid) {v h r c : Nat} (hh : h < 2) (hr : r < 128) (hc : c < 128) :
    (fillVec w m x g v).cell h r c =
      (w.elemAt v r c).elim (g.cell h r c) fun j => if h = w.half % 2 ∧ m.getLsbD j = true then x else g.cell h r c := by
  rw [fillVec, w.cell_write g v h r c _ hr hc, Nat.mod_eq_of_lt hh]
  cases w.elemAt v r c with
  | none => exact ite_self _
  | some j =>
    rw [Option.bind_some, active_eq, Option.elim_some]
    by_cases hj : m.getLsbD j = true
    · simp only [hj, if_true, Option.getD_some, and_true]
    · simp only [hj, if_false, Option.getD_none, ite_self, and_false, Bool.false_eq_true]

/-- What a copy writes to row `i` of its destination rectangle, at column `c`. -/
def copyCell (tr : Bool) (b : CopyBox) (cols : Nat) (g : Grid) (i c : Nat) : Option Cell :=
  if b.dc ≤ c && c < b.dc + cols then
    some (if tr then g.cell b.sh (b.sr + (c - b.dc)) (b.sc + i) else g.cell b.sh (b.sr + i) (b.sc + (c - b.dc)))
  else none

theorem copyCell_getD (tr : Bool) (b : CopyBox) (cols : Nat) (g : Grid) (i c : Nat) (x : Cell) :
    (copyCell tr b cols g i c).getD x = if b.dc ≤ c ∧ c - b.dc < cols then
      g.cell b.sh (b.sr + if tr then c - b.dc else i) (b.sc + if tr then i else c - b.dc) else x := by
  unfold copyCell
  by_cases hc : b.dc ≤ c ∧ c - b.dc < cols
  · rw [if_pos hc, if_pos (by simp; omega)]
    cases tr <;> rfl
  · rw [if_neg hc, if_neg (by simp; omega)]
    rfl

/-- The first `n` rows of a destination rectangle, written from a row `d` on. -/
theorem cell_foldl_writeRow (f : Nat → Nat → Option Cell) (g : Grid) {dh d h r c : Nat} (hr : r < 128) (hc : c < 128) (n : Nat)
    (hn : d + n ≤ 128) : ((List.range n).foldl (fun acc i => acc.writeRow dh (d + i) (f i)) g).cell h r c =
      if h % 2 = dh % 2 ∧ d ≤ r ∧ r - d < n then (f (r - d) c).getD (g.cell h r c) else g.cell h r c := by
  induction n with
  | zero => simp
  | succ n ih =>
    rw [List.range_succ, List.foldl_concat, Grid.cell_writeRow, ih (by omega), Nat.mod_eq_of_lt hc, Nat.mod_eq_of_lt hr,
      Nat.mod_eq_of_lt (show d + n < 128 by omega)]
    rcases Nat.lt_trichotomy r (d + n) with hlt | rfl | hgt
    · have h1 : r ≠ d + n := by omega
      have h2 : (d ≤ r ∧ r - d < n + 1) ↔ (d ≤ r ∧ r - d < n) := by omega
      simp only [h1, and_false, if_false, h2]
    · simp only [Nat.le_add_right, Nat.add_sub_cancel_left, Nat.lt_irrefl, Nat.lt_succ_self, and_true, and_false, if_false]
    · have h1 : r ≠ d + n := by omega
      have h2 : ¬r - d < n + 1 := by omega
      have h3 : ¬r - d < n := by omega
      simp only [h1, h2, h3, and_false, if_false]

/-- A copy gives each cell of the destination rectangle what the source cell, or the transposed one, held before it (R127). -/
theorem cell_copyGrid {tr : Bool} {f : CopyF} (g : Grid) {h r c : Nat} (hok : copyOk tr f = true) (hh : h < 2) (hr : r < 128) (hc : c < 128) :
    (copyGrid tr f g).cell h r c =
      if h = f.dh.toNat ∧ 8 * f.dr.toNat ≤ r ∧ r - 8 * f.dr.toNat < (if tr then 8 * (f.cols.toNat + 1) else 8 * (f.rows.toNat + 1)) ∧
          8 * f.dc.toNat ≤ c ∧ c - 8 * f.dc.toNat < (if tr then 8 * (f.rows.toNat + 1) else 8 * (f.cols.toNat + 1)) then
        g.cell f.sh.toNat (8 * f.sr.toNat + if tr then c - 8 * f.dc.toNat else r - 8 * f.dr.toNat)
          (8 * f.sc.toNat + if tr then r - 8 * f.dr.toNat else c - 8 * f.dc.toNat)
      else g.cell h r c := by
  have hrows : (copyBox f).dr + (if tr then (copyBox f).m else (copyBox f).n) ≤ 128 := by
    simp only [copyOk, Bool.and_eq_true, decide_eq_true_eq] at hok
    exact hok.1.2
  have key := cell_foldl_writeRow (copyCell tr (copyBox f) (if tr then (copyBox f).n else (copyBox f).m) g) g (dh := (copyBox f).dh)
    (h := h) hr hc _ hrows
  rw [copyCell_getD, Nat.mod_eq_of_lt hh, Nat.mod_eq_of_lt (show (copyBox f).dh < 2 from f.dh.isLt)] at key
  refine (show (copyGrid tr f g).cell h r c = _ from key).trans ?_
  rw [← ite_and]
  refine if_congr ?_ rfl rfl
  simp only [and_assoc]
  exact Iff.rfl

end Sys2Proof.Machine

end

section
/-! PROOFS. The elements of a grid load or store: their addresses and order, and the probe pass over them (R201 to R203, R205). -/

namespace Sys2Proof.Machine

open Sys2Proof.Safety

/-! ### Addresses (R201) -/

theorem ofNat_wrap64 (v : Int) : BitVec.ofNat 64 (wrap64 v) = BitVec.ofInt 64 v := by
  rw [wrap64, wrapInt_eq_toNat, BitVec.ofNat_toNat, BitVec.setWidth_eq]

theorem signedNat_fieldNat (x : Word) (lo : Nat) : signedNat 32 (fieldNat x lo 32) = (x.extractLsb' lo 32).toInt := by
  rw [← signedNat_toNat (by decide), BitVec.extractLsb'_toNat]
  rfl

theorem ofInt_natCast_mul_toInt (n : Nat) (x : BitVec 32) : BitVec.ofInt 64 (n * x.toInt) = BitVec.ofNat 64 n * x.signExtend 64 := by
  rw [BitVec.ofInt_mul, BitVec.ofInt_natCast]
  rfl

theorem ofInt_toNat (x : Word) : BitVec.ofInt 64 (x.toNat : Int) = x := by rw [BitVec.ofInt_natCast, BitVec.ofNat_toNat, BitVec.setWidth_eq]

theorem ofNat_glsAddr_none (g : Grid) (z v j : Nat) (base str : Word) : BitVec.ofNat 64 (glsAddr g z base str none v j) =
    base + BitVec.ofNat 64 v * (str.extractLsb' 32 32).signExtend 64 + BitVec.ofNat 64 j * (str.extractLsb' 0 32).signExtend 64 := by
  rw [glsAddr, ofNat_wrap64, BitVec.ofInt_add, BitVec.ofInt_add, signedNat_fieldNat, signedNat_fieldNat, ofInt_natCast_mul_toInt,
    ofInt_natCast_mul_toInt, ofInt_toNat]

theorem ofNat_glsAddr_some (g : Grid) (z v j : Nat) (base str : Word) (w : Window) :
    BitVec.ofNat 64 (glsAddr g z base str (some w) v j) = base + (w.read g v j).signExtend 64 * BitVec.ofNat 64 z := by
  rw [glsAddr, ofNat_wrap64, BitVec.ofInt_add, Int.mul_comm, signedNat_toNat (by decide), ofInt_natCast_mul_toInt, ofInt_toNat, BitVec.mul_comm]

/-! ### Elements in order (R201, R202) -/

section Items

variable (g : Grid) (z : Nat) (m : Mask) (base str : Word) (wi : Option Window) (start v : Nat)

theorem mem_vecItems {n a : Nat} : (n, a) ∈ vecItems g z m base str wi start v ↔
    start ≤ n ∧ n / 128 = v ∧ m.getLsbD (n % 128) = true ∧ a = glsAddr g z base str wi v (n % 128) := by
  simp only [vecItems, List.mem_map, List.mem_filter, List.mem_range, Prod.mk.injEq, active_eq, Bool.and_eq_true, decide_eq_true_eq]
  constructor
  · rintro ⟨j, ⟨hj, hm, hs⟩, rfl, rfl⟩
    rw [show (v * 128 + j) % 128 = j by omega]
    exact ⟨hs, by omega, hm, rfl⟩
  · rintro ⟨hs, rfl, hm, rfl⟩
    exact ⟨n % 128, ⟨Nat.mod_lt _ (by decide), hm, by omega⟩, by omega, rfl⟩

theorem vecItems_pairwise : ((vecItems g z m base str wi start v).map fun p => p.1).Pairwise (· < ·) := by
  rw [vecItems, List.map_map, List.pairwise_map]
  exact (List.pairwise_lt_range.filter _).imp fun h => Nat.add_lt_add_left h _

theorem mem_glsItems (w : Window) {n a : Nat} : (n, a) ∈ glsItems g z w m base str wi start ↔
    start ≤ n ∧ n / 128 < w.count ∧ m.getLsbD (n % 128) = true ∧ a = glsAddr g z base str wi (n / 128) (n % 128) := by
  simp only [glsItems, List.mem_flatMap, List.mem_range, mem_vecItems]
  constructor
  · rintro ⟨v, hv, hs, rfl, hm, ha⟩
    exact ⟨hs, hv, hm, ha⟩
  · rintro ⟨hs, hv, hm, ha⟩
    exact ⟨n / 128, hv, hs, rfl, hm, ha⟩

end Items

/-! ### The probe pass (R203) -/

namespace State

variable {s s1 : State} {w : Who} {z n a pa : Nat} {k : Acc} {m rest : List (Nat × Nat)}

theorem probeItems_misaligned (ha : a % z ≠ 0) :
    s.probeItems w z k m ((n, a) :: rest) = (s, m, some (some (n, { code := 0x03, tval := BitVec.ofNat 64 a }))) := by
  rw [probeItems, if_pos ha]

theorem probeItems_found (ha : a % z = 0) (hm : ∃ p ∈ m, p.1 = a / 2 ^ 17) :
    s.probeItems w z k m ((n, a) :: rest) = s.probeItems w z k m rest := by
  rw [probeItems, if_neg (not_not.2 ha), if_pos (by simpa using hm)]

theorem probeItems_access (ha : a % z = 0) (hm : ∀ p ∈ m, p.1 ≠ a / 2 ^ 17) (hg : s.gridAccess w k (BitVec.ofNat 64 a) z = (s1, .ok pa)) :
    s.probeItems w z k m ((n, a) :: rest) = s1.probeItems w z k (m ++ [(a / 2 ^ 17, pa - a % 2 ^ 17)]) rest := by
  rw [probeItems, if_neg (not_not.2 ha), if_neg fun h => ?_, hg]
  obtain ⟨p, hp, he⟩ := List.any_eq_true.1 h
  exact hm p hp (by simpa using he)

/-- The probe pass is over where no element fails, and for a gldff where one behind the first does (R205). -/
theorem glsProbe_passes {e : Entry} {g : GlsKind} {items : List (Nat × Nat)} {pf : Option (Nat × GFault)}
    (h : s.probeItems (s.entryWho e 2) z (if g.isLoad then .load else .store) e.maps items = (s1, m, some pf))
    (hp : pf = none ∨ (g = .ldff ∧ pf.map (·.1) ≠ items.head?.map (·.1))) :
    ∃ e1, s.glsProbe e g z items = (s1, .ok e1) ∧ e1.maps = m ∧ e1.probed = true ∧ e1.prog = e.prog ∧ e1.op = e.op ∧
      (g.isLoad = true → e1.stopItem = pf.map (·.1)) ∧ (g.isLoad = false → e1.pend = []) := by
  rw [glsProbe, h]
  cases pf with
  | none =>
    refine ⟨_, rfl, rfl, rfl, rfl, rfl, fun hl => ?_, fun hl => by simp [hl]⟩
    cases items <;> simp [hl, Entry.stopItem]
  | some p =>
    obtain ⟨i, f⟩ := p
    obtain ⟨rfl, hne⟩ := hp.resolve_left (by simp)
    cases items with
    | nil => cases h
    | cons x xs =>
      have hi : x.1 ≠ i := fun he => hne (by simp [he])
      refine ⟨{ e with maps := m, probed := true, pend := [(x.1, x.2, (e.pend.head?.map (·.2.2)).getD []), (i, 0, [])] }, ?_,
        rfl, rfl, rfl, rfl, fun _ => rfl, nofun⟩
      simp [hi, GlsKind.isLoad]

end State

end Sys2Proof.Machine

end

section
/-! PROOFS. What reads and writes of memory leave of the core and of the machine (R234, R246, R307, R309, R384). -/

namespace Sys2Proof.Machine

open Sys2Proof.Safety

/-! ### Writes: a core loses at most its reservation and gains older bytes and the seal request -/

/-- The cores differ at most in their reservation, their older bytes and their seal request. -/
def Core.SameWork (c d : Core) : Prop := d = { c with resv := d.resv, older := d.older, sealReq := d.sealReq }

namespace Core.SameWork

variable {c d x : Core}

theorem refl (c : Core) : c.SameWork c := rfl

theorem trans (h : c.SameWork d) (h' : d.SameWork x) : c.SameWork x :=
  Eq.trans h' (congrArg (fun y : Core => { y with resv := x.resv, older := x.older, sealReq := x.sealReq }) h)

theorem flight (h : c.SameWork d) : d.flight = c.flight := by rw [h]
theorem grid (h : c.SameWork d) : d.grid = c.grid := by rw [h]
theorem giq (h : c.SameWork d) : d.giq = c.giq := by rw [h]
theorem regs (h : c.SameWork d) : d.regs = c.regs := by rw [h]
theorem drn (h : c.SameWork d) : d.drn = c.drn := by rw [h]

end Core.SameWork

namespace State

variable {s : State}

theorem modCore_sameWork (n : Nat) (f : Core → Core) (hf : ∀ c, Core.SameWork c (f c)) : s.core.SameWork (s.modCore n f).core := by
  unfold modCore setCore getCore
  by_cases h : n = s.cur
  · simp only [h, if_true]
    exact hf _
  · simp only [h, if_false]
    exact .refl _

theorem modCores_sameWork (ns : List Nat) (f : Nat → Core → Core) (hf : ∀ n c, Core.SameWork c (f n c)) :
    s.core.SameWork (s.modCores ns f).core := by
  unfold modCores
  induction ns generalizing s with
  | nil => exact .refl _
  | cons n ns ih => exact (modCore_sameWork n (f n) (hf n)).trans ih

theorem sealThreshold_sameWork (p die n : Nat) : s.core.SameWork (s.sealThreshold p die n).core := by
  unfold sealThreshold
  split
  · exact modCores_sameWork _ _ fun _ _ => rfl
  · exact .refl _

theorem logLine_core (w : Wr) (l : Nat) : (s.logLine w l).core = s.core := by
  unfold logLine
  split <;> rfl

theorem meterMem_core (p pa n wr : Nat) : (s.meterMem p pa n wr).core = s.core := by
  unfold meterMem
  split <;> rfl

/-- A write logs the lines that it touches and raises the seal request where a share fills (R307, R309). -/
theorem logLines_sameWork (w : Wr) (p : Nat) (die occ : State → Nat → Nat) (ls : List Nat) :
    s.core.SameWork (ls.foldl (fun s l => (s.logLine w l).sealThreshold p (die s l) (occ s l)) s).core := by
  induction ls generalizing s with
  | nil => exact .refl _
  | cons l ls ih =>
    have h := sealThreshold_sameWork (s := s.logLine w l) p (die s l) (occ s l)
    rw [logLine_core] at h
    exact h.trans ih

theorem landBytes_sameWork (pa : Nat) (bs : List Byte) : s.core.SameWork (s.landBytes pa bs).core := by
  unfold landBytes breakResv
  dsimp only
  split
  · exact rfl
  · exact .refl _

theorem landFrom_sameWork (w : Wr) (pa : Nat) (bs : List Byte) : s.core.SameWork (s.landFrom w pa bs).core := by
  have h := s.landBytes_sameWork pa bs
  unfold landFrom
  split
  · exact h
  · split
    · exact h.trans (modCore_sameWork _ _ fun _ => rfl)
    · exact h

theorem write_sameWork (w : Wr) (pa : Nat) (bs : List Byte) : s.core.SameWork (s.write w pa bs).core := by
  unfold write
  split
  · exact .refl _
  · split
    · dsimp only
      rw [meterMem_core]
      exact (logLines_sameWork w w.part (fun s l => s.dieOf l) (fun s l => s.occupancy w.part (s.dieOf l)) _).trans (landFrom_sameWork w pa bs)
    · dsimp only
      rw [meterMem_core]
      exact (logLines_sameWork w w.part (fun s l => s.dieOf l) (fun s l => s.occupancy w.part (s.dieOf l)) _).trans (landFrom_sameWork w pa bs)
    · exact landFrom_sameWork w pa bs
    · split
      · exact .refl _
      · exact landFrom_sameWork w pa bs
    · exact .refl _
    · exact .refl _

/-! ### Reads: the machine changes in its meters alone -/

/-- The machines differ at most in the core that moves and in what they count for the partitions. -/
def SameMemory (s t : State) : Prop := t = { s with core := t.core, parts := t.parts }

namespace SameMemory

variable {t u : State}

theorem refl (s : State) : s.SameMemory s := rfl

theorem trans (h : s.SameMemory t) (h' : t.SameMemory u) : s.SameMemory u :=
  Eq.trans h' (congrArg (fun y : State => { y with core := u.core, parts := u.parts }) h)

theorem mem (h : s.SameMemory t) : t.mem = s.mem := by rw [h]
theorem poisoned (h : s.SameMemory t) : t.poisoned = s.poisoned := by rw [h]; rfl
theorem poisonedRange (h : s.SameMemory t) : t.poisonedRange = s.poisonedRange := by rw [h]; rfl
theorem readBytes (h : s.SameMemory t) : t.readBytes = s.readBytes := by rw [h]; rfl

theorem meterMem (p pa n wr : Nat) : s.SameMemory (s.meterMem p pa n wr) := by
  unfold State.meterMem
  split <;> exact rfl

theorem updCore (f : Core → Core) : s.SameMemory (s.updCore f) := rfl

end SameMemory

end State

end Sys2Proof.Machine

end

section
/-! PROOFS. One vector of a grid load or store (R199, R201 to R205, R238). -/

namespace Sys2Proof.Machine

open Sys2Proof.Safety

/-! ### The elements of a load -/

/-- The data window once a load has written the values of its elements (R202). -/
def loadGrid (w : Window) (f : Nat × Nat × Nat → Nat) (xs : List (Nat × Nat × Nat)) (g : Grid) : Grid :=
  xs.foldl (fun g x => w.write g (x.1 / 128) fun j => if j = x.1 % 128 then some (BitVec.ofNat 32 (f x)) else none) g

theorem loadGrid_congr {w : Window} {f f' : Nat × Nat × Nat → Nat} {xs : List (Nat × Nat × Nat)} (h : ∀ x ∈ xs, f x = f' x) (g : Grid) :
    loadGrid w f xs g = loadGrid w f' xs g := by
  unfold loadGrid
  exact List.foldl_ext _ _ _ fun g x hx => by rw [h x hx]

/-- The elements that a load loads: those before the one that stops it. -/
def Entry.served (e : Entry) (xs : List (Nat × Nat × Nat)) : List (Nat × Nat × Nat) :=
  xs.filter fun x => e.stopItem.all fun n => decide (x.1 < n)

theorem loadedCore_congr {c d : Core} {w : Window} {f f' : Nat × Nat × Nat → Nat} {xs : List (Nat × Nat × Nat)}
    (h : d = { c with grid := loadGrid w f xs c.grid }) (hf : ∀ x ∈ xs, f x = f' x) : d = { c with grid := loadGrid w f' xs c.grid } := by
  rw [h, loadGrid_congr hf]

namespace State

variable {s t : State} {e : Entry} {k : GlsKind} {z : Nat} {w : Window}

theorem SameMemory.loadElem (w : Window) (n : Nat) (bs : List Byte) : s.SameMemory (s.loadElem w n bs) := rfl

/-- Elements whose lines are not poisoned, or whose bytes the entry holds, are all loaded (R202, R204). -/
theorem loadItems_all (one : Nat → Bool) (held : List Byte) (xs : List (Nat × Nat × Nat)) (s : State)
    (h : held ≠ [] ∨ ∀ x ∈ xs, s.poisonedRange x.2.2 z = false) :
    ∃ t, s.loadItems w z one held xs = (t, none) ∧ s.SameMemory t ∧ t.core = { s.core with
      grid := loadGrid w (fun x => fromLE (if held = [] then s.readBytes x.2.2 z else held)) xs s.core.grid } := by
  induction xs generalizing s with
  | nil => exact ⟨s, rfl, rfl, rfl⟩
  | cons x xs ih =>
    obtain ⟨n, a, pa⟩ := x
    by_cases hh : held = []
    · have hp := h.resolve_left (not_not.2 hh)
      have hm : s.SameMemory (if one n then s else s.meterMem s.part pa z 0) := by
        split
        · exact .refl s
        · exact .meterMem s.part pa z 0
      have hc : (if one n then s else s.meterMem s.part pa z 0).core = s.core := by
        split
        · rfl
        · exact meterMem_core _ _ _ _
      have hu : s.SameMemory ((if one n then s else s.meterMem s.part pa z 0).loadElem w n (s.readBytes pa z)) := hm.trans (.loadElem w n _)
      obtain ⟨t, ht, hst, htc⟩ := ih _ (.inr fun y hy => by rw [hu.poisonedRange]; exact hp y (List.mem_cons_of_mem _ hy))
      refine ⟨t, ?_, hu.trans hst, ?_⟩
      · rw [loadItems, if_neg (by simp [hh]), if_neg (by simp [hp (n, a, pa) List.mem_cons_self]), ht]
      · rw [htc, hu.readBytes]
        simp only [hh, if_true, loadElem, updCore_core, hc]
        rfl
    · have hu : s.SameMemory (s.loadElem w n held) := .loadElem w n held
      obtain ⟨t, ht, hst, htc⟩ := ih (s.loadElem w n held) (.inl hh)
      refine ⟨t, ?_, hu.trans hst, ?_⟩
      · rw [loadItems, if_pos (by simp [hh]), ht]
      · rw [htc]
        simp only [hh, if_false]
        rfl

/-- The entry keeps the bytes of the read that serves all its elements with its first element. -/
theorem readOnce_cons {x : Nat × Nat × Nat} {r : List (Nat × Nat × Nat)} (hb : e.firstBytes = []) (hp : s.poisonedRange x.2.2 z = false) :
    s.readOnce e z (x :: r) =
      (s.meterMem s.part x.2.2 z 0, { e with pend := e.pend.modifyHead fun p => (p.1, p.2.1, s.readBytes x.2.2 z) }) := by
  rw [readOnce, if_neg (by simp [hb, hp])]
  cases e.pend <;> rfl

theorem readOnce_of_held {xs : List (Nat × Nat × Nat)} (h : e.firstBytes ≠ [] ∨ xs = []) : s.readOnce e z xs = (s, e) := by
  cases xs with
  | nil => rfl
  | cons x r => rw [readOnce, if_pos (by simp [h.resolve_right (List.cons_ne_nil x r)])]

/-- How a load leaves a vector: done before the element that stops it, or at the vector's end (R205). -/
def glsEnd (s : State) (e : Entry) (k : GlsKind) (w : Window) : State × RunRes :=
  if e.stopItem.any fun n => decide (n / 128 = e.prog / 128) then (s.updCore fun c => { c with ffi := ffiWord e.stopItem }, .done e)
  else s.glsNext e k w

theorem glsEnd_stops {n : Nat} (hs : e.stopItem = some n) (hn : n / 128 = e.prog / 128) :
    s.glsEnd e k w = (s.updCore fun c => { c with ffi := ffiWord (some n) }, .done e) := by simp [glsEnd, hs, hn]

theorem glsEnd_next (h : ∀ n, e.stopItem = some n → n / 128 ≠ e.prog / 128) : s.glsEnd e k w = s.glsNext e k w := by
  rw [glsEnd, if_neg]
  simpa [Option.any_eq_true] using h

/-- The loads of one vector (R202 to R205, R238). -/
theorem loadVec_eq {s0 : State} {l : List (Nat × Nat × List Byte)} {whole : Bool} {xs : List (Nat × Nat × Nat)}
    (h0 : (if whole then s.readOnce e z (e.served xs) else (s, e)) = (s0, { e with pend := l })) (hd : l.drop 1 = e.pend.drop 1)
    (hl : s0.loadItems w z (sameAccess (e.served xs)) (if whole then Entry.firstBytes { e with pend := l } else []) (e.served xs) = (t, none)) :
    s.loadVec e k z w whole xs = t.glsEnd { e with pend := l } k w := by
  have hs : Entry.stopItem { e with pend := l } = e.stopItem := by simp only [Entry.stopItem, hd]
  unfold loadVec
  rw [glsEnd, hs]
  cases he : e.stopItem with
  | none =>
    have hm : e.served xs = xs := by simp [Entry.served, he]
    rw [hm] at h0 hl
    simp only [h0, hl, hs, he, Option.any_none, Bool.false_eq_true, if_false]
  | some n =>
    have hm : e.served xs = xs.filter fun x => decide (x.1 < n) := by simp [Entry.served, he]
    rw [hm] at h0 hl
    simp only [h0, hl, hs, he, Option.any_some, decide_eq_true_eq]

/-- What one vector of a load has done: its elements hold the bytes of their addresses, or those that the entry holds for all of them; the entry
holds the bytes that serve them all where it read them (R199, R202, R238). -/
def LoadsVec (s t : State) (e : Entry) (l : List (Nat × Nat × List Byte)) (z : Nat) (w : Window) (whole : Bool)
    (mine : List (Nat × Nat × Nat)) : Prop :=
  s.SameMemory t ∧ t.core = { s.core with
    grid := loadGrid w (fun x => if whole = true ∧ e.firstBytes ≠ [] then fromLE e.firstBytes else s.readNat x.2.2 z) mine s.core.grid } ∧
  l.drop 1 = e.pend.drop 1 ∧ (whole = false ∨ e.firstBytes ≠ [] → l = e.pend) ∧
  (whole = true → e.firstBytes = [] → e.pend ≠ [] → ∀ x, mine.head? = some x → l.head?.map (·.2.2) = some (s.readBytes x.2.2 z))

theorem firstBytes_modifyHead (e : Entry) (bs : List Byte) :
    Entry.firstBytes { e with pend := e.pend.modifyHead fun p => (p.1, p.2.1, bs) } = if e.pend = [] then [] else bs := by
  cases e.pend <;> simp [Entry.firstBytes]

theorem loadVec_reads (k : GlsKind) {whole : Bool} {xs : List (Nat × Nat × Nat)}
    (hr : (whole = true ∧ e.firstBytes ≠ []) ∨ ∀ x ∈ e.served xs, s.poisonedRange x.2.2 z = false)
    (hw : whole = true → ∀ x ∈ e.served xs, ∀ y ∈ e.served xs, x.2.2 = y.2.2) :
    ∃ t l, s.loadVec e k z w whole xs = t.glsEnd { e with pend := l } k w ∧ s.LoadsVec t e l z w whole (e.served xs) := by
  by_cases hwh : whole = true
  case neg =>
    rw [Bool.not_eq_true] at hwh
    subst hwh
    obtain ⟨t, ht, hst, htc⟩ := loadItems_all (w := w) (sameAccess (e.served xs)) [] (e.served xs) s (.inr (hr.resolve_left (by simp)))
    exact ⟨t, e.pend, loadVec_eq rfl rfl ht, hst, loadedCore_congr htc fun x _ => by simp [readNat], rfl, fun _ => rfl, nofun⟩
  subst hwh
  by_cases hb : e.firstBytes = []
  case neg =>
    obtain ⟨t, ht, hst, htc⟩ := loadItems_all (w := w) (z := z) (sameAccess (e.served xs)) e.firstBytes (e.served xs) s (.inl hb)
    exact ⟨t, e.pend, loadVec_eq (readOnce_of_held (.inl hb)) rfl ht, hst, loadedCore_congr htc fun x _ => by simp [hb], rfl, fun _ => rfl,
      fun _ h => absurd h hb⟩
  have hp := hr.resolve_left fun h => h.2 hb
  cases hm : e.served xs with
  | nil =>
    refine ⟨s, e.pend, loadVec_eq (s0 := s) ?_ rfl ?_, .refl s, rfl, rfl, fun _ => rfl, nofun⟩
    · rw [hm]
      rfl
    · rw [hm]
      rfl
  | cons x r =>
    rw [hm] at hp hw
    have h0 : (if true then s.readOnce e z (e.served xs) else (s, e)) = _ := (congrArg (s.readOnce e z) hm).trans
      (readOnce_cons hb (hp x List.mem_cons_self))
    have hs0 : s.SameMemory (s.meterMem s.part x.2.2 z 0) := .meterMem s.part x.2.2 z 0
    obtain ⟨t, ht, hst, htc⟩ := loadItems_all (w := w) (z := z) (sameAccess (x :: r)) (if e.pend = [] then [] else s.readBytes x.2.2 z) (x :: r)
      (s.meterMem s.part x.2.2 z 0) (.inr fun y hy => by rw [hs0.poisonedRange]; exact hp y hy)
    refine ⟨t, _, loadVec_eq h0 (by cases e.pend <;> rfl) ?_, hs0.trans hst, ?_, by cases e.pend <;> rfl, fun h => absurd hb (h.resolve_left nofun),
      fun _ _ hne y hy => ?_⟩
    · rw [hm, firstBytes_modifyHead]
      exact ht
    · simp only [meterMem_core, hs0.readBytes] at htc
      refine loadedCore_congr htc fun y hy => ?_
      have hxy : y.2.2 = x.2.2 := hw rfl y hy x List.mem_cons_self
      by_cases hpe : e.pend = [] <;> simp [hb, hpe, readNat, hxy]
    · obtain rfl : x = y := by simpa using hy
      cases hpe : e.pend with
      | nil => exact absurd hpe hne
      | cons p l => rfl

/-! ### The elements of a store -/

/-- The machine once a store has written its elements in order (R202, R238). -/
def storesOf (s : State) (w : Window) (z : Nat) (g : Grid) (xs : List (Nat × Nat × Nat)) : State :=
  xs.foldl (fun u x => u.write u.gridWriter x.2.2 (leBytes z (w.read g (x.1 / 128) (x.1 % 128)).toNat)) s

theorem storesOf_sameWork (w : Window) (z : Nat) (g : Grid) (xs : List (Nat × Nat × Nat)) (s : State) :
    s.core.SameWork (s.storesOf w z g xs).core := by
  induction xs generalizing s with
  | nil => exact .refl _
  | cons x xs ih => exact (write_sameWork _ _ _).trans (ih _)

/-- Stores that no capacity and no fence stops are all made, in element order where one address has several. -/
theorem storeItems_all {ordered : Bool} {g : Grid} (xs : List (Nat × Nat × Nat)) (seen : List Nat) (s : State) (hg : s.core.grid = g)
    (ho : ordered = true ∨ ((xs.map fun x => x.2.1).Nodup ∧ ∀ x ∈ xs, x.2.1 ∉ seen))
    (hw : ∀ pre x post, xs = pre ++ x :: post → (s.storesOf w z g pre).lost x.2.2 = false ∧
      (s.storesOf w z g pre).writeStalls (s.storesOf w z g pre).gridWriter x.2.2 z = false) :
    s.storeItems ordered w z seen xs = (s.storesOf w z g xs, none) := by
  induction xs generalizing s seen with
  | nil => rfl
  | cons x xs ih =>
    obtain ⟨hl, hst⟩ : s.lost x.2.2 = false ∧ s.writeStalls s.gridWriter x.2.2 z = false := hw [] x xs rfl
    have hfree : (!ordered && seen.contains x.2.1) = false := by
      rcases ho with rfl | ⟨-, hs⟩
      · rfl
      · simp [hs x List.mem_cons_self]
    have ho' : ordered = true ∨ ((xs.map fun x => x.2.1).Nodup ∧ ∀ y ∈ xs, y.2.1 ∉ x.2.1 :: seen) := by
      refine ho.imp_right fun ⟨hn, hs⟩ => ?_
      obtain ⟨hx, hn⟩ := List.nodup_cons.1 hn
      refine ⟨hn, fun y hy h => ?_⟩
      rcases List.mem_cons.1 h with h | h
      · exact hx (List.mem_map.2 ⟨y, hy, h⟩)
      · exact hs y (List.mem_cons_of_mem _ hy) h
    rw [storeItems, if_neg (by simp [hl]), if_neg (by simp [hst])]
    simp only [hfree, Bool.false_eq_true, if_false, hg]
    exact ih _ _ ((write_sameWork _ _ _).grid.trans hg) ho' fun pre y post h => hw (x :: pre) y post (congrArg (x :: ·) h)

end State

end Sys2Proof.Machine

end

section
/-! PROOFS. The unit of a grid load or store in the window pipe (R199, R201 to R205). -/

namespace Sys2Proof.Machine

open Sys2Proof.Safety

section GlsUnit

variable {s s1 t : State} {e e1 e2 : Entry} {k : GlsKind} {z : Nat} {w : Window} {km : KField} {base str : Word} {wi : Option Window}

/-! ### From the probe pass to the vector -/

/-- What a probe pass leaves of its entry. -/
theorem State.glsProbe_ok {items : List (Nat × Nat)} (h : s.glsProbe e k z items = (s1, .ok e1)) :
    e1.prog = e.prog ∧ e1.fin = e.fin ∧ e1.op = e.op ∧ e1.pc = e.pc ∧ e1.fl = e.fl := by
  unfold State.glsProbe at h
  split at h
  · cases h
  · dsimp only at h
    split at h
    · cases h
      exact ⟨rfl, rfl, rfl, rfl, rfl⟩
    · split at h
      · cases h
        exact ⟨rfl, rfl, rfl, rfl, rfl⟩
      · cases h

/-- The machine and the entry before the vector: the probe pass is over, or was over before (R203). -/
def GlsReady (s s1 : State) (e e1 : Entry) (k : GlsKind) (z : Nat) (items : List (Nat × Nat)) : Prop :=
  (e.probed = true ∧ s1 = s ∧ e1 = e) ∨ (e.probed = false ∧ items ≠ [] ∧ s.glsProbe e k z items = (s1, .ok e1) ∧ s1.core = s.core)

theorem GlsReady.core {items : List (Nat × Nat)} (h : GlsReady s s1 e e1 k z items) : s1.core = s.core := by
  rcases h with ⟨-, rfl, -⟩ | ⟨-, -, -, h⟩
  · rfl
  · exact h

theorem GlsReady.entry {items : List (Nat × Nat)} (h : GlsReady s s1 e e1 k z items) :
    e1.prog = e.prog ∧ e1.fin = e.fin ∧ e1.op = e.op ∧ e1.pc = e.pc ∧ e1.fl = e.fl := by
  rcases h with ⟨-, -, rfl⟩ | ⟨-, -, h, -⟩
  · exact ⟨rfl, rfl, rfl, rfl, rfl⟩
  · exact State.glsProbe_ok h

/-- The elements of the entry's vector with their physical addresses. -/
def glsVector (s : State) (e e1 : Entry) (z : Nat) (km : KField) (base str : Word) (wi : Option Window) : List (Nat × Nat × Nat) :=
  (vecItems s.core.grid z (s.core.masks.governing km) base str wi e.prog (e.prog / 128)).map fun p => (p.1, p.2, mapped e1.maps p.2)

theorem div_of_mem_glsVector {x : Nat × Nat × Nat} (hx : x ∈ glsVector s e e1 z km base str wi) : x.1 / 128 = e.prog / 128 := by
  obtain ⟨p, hp, rfl⟩ := List.mem_map.1 hx
  obtain ⟨-, hv, -⟩ := (mem_vecItems _ _ _ _ _ _ _ _).1 hp
  exact hv

theorem runUnit_gls_eq (ho : e.op = .gls k z w km base str wi) : s.runUnit [] true .pass e = s.runGls e k z w km base str wi := by
  rw [State.runUnit, ho]

theorem runUnit_gls (ho : e.op = .gls k z w km base str wi) (hx : sharedIdx k w wi = none)
    (h : GlsReady s s1 e e1 k z (glsItems s.core.grid z w (s.core.masks.governing km) base str wi e.prog)) :
    s.runUnit [] true .pass e = if k.isLoad then s1.loadVec e1 k z w (wi.isNone && str == 0) (glsVector s e e1 z km base str wi)
      else s1.storeVec e1 k z w (glsVector s e e1 z km base str wi) := by
  have hv : s1.glsVec e1 k z w km base str wi = if k.isLoad then
      s1.loadVec e1 k z w (wi.isNone && str == 0) (glsVector s e e1 z km base str wi)
      else s1.storeVec e1 k z w (glsVector s e e1 z km base str wi) := by
    simp only [State.glsVec, hx, Option.isSome_none, Bool.false_eq_true, if_false, h.core, h.entry.1, glsVector]
  rw [← hv, runUnit_gls_eq ho]
  rcases h with ⟨hp, rfl, rfl⟩ | ⟨hp, hi, hg, -⟩
  · simp only [State.runGls, hp, Bool.true_or, if_true]
  · simp [State.runGls, hp, hx, hi, hg]

/-- A grid load or store without an active element is done at once (R205). -/
theorem windowPipe_gls_empty (h : Alone s e) (hn : NoAbsent s) (ho : e.op = .gls k z w km base str wi) (hx : sharedIdx k w wi = none)
    (hp : e.probed = false) (hi : glsItems s.core.grid z w (s.core.masks.governing km) base str wi e.prog = []) :
    exec (.windowPipeVector .pass) s = .next (retired (if k = .ldff then s.updCore fun c => { c with ffi := 0x8000 } else s) e) := by
  have hl : w.count ≤ w.count - 1 + 1 := by omega
  have hu : s.runUnit [] true .pass e = (if k = .ldff then s.updCore fun c => { c with ffi := 0x8000 } else s,
      .done { e with prog := 128 * (128 * (w.count - 1) / 128 + 1) }) := by
    rw [runUnit_gls_eq ho]
    by_cases hk : k = .ldff
    · subst hk
      simp [State.runGls, hp, hx, hi, State.glsNext, hl, State.ffiWord]
    · simp [State.runGls, hp, hx, hi, State.glsNext, hl, hk]
  rw [windowPipe_done h hn (by rw [ho]; rfl) hu (by split <;> exact h.1)]
  exact congrArg Host.Outcome.next (retired_congr rfl rfl rfl)

/-! ### Loads -/

/-- A load whose elements are loaded leaves the vector. -/
theorem windowPipe_glsEnd (h : Alone s e) (hn : NoAbsent s) (hp : e.op.pipe = 1) (hu : s.runUnit [] true .pass e = t.glsEnd e2 k w)
    (hf : t.core.flight = [e]) (hx : e2.fin = false) :
    ∃ u, exec (.windowPipeVector .pass) s = .next u ∧ u.core.regs = t.core.regs ∧ u.core.masks = t.core.masks ∧ u.mem = t.mem ∧
      u.core.grid = t.core.grid ∧
      (∀ n, e2.stopItem = some n → n / 128 = e2.prog / 128 →
        u.core.flight = [] ∧ u.core.ffi = BitVec.ofNat 64 (n / 128 % 128 * 256 + n % 128)) ∧
      ((∀ n, e2.stopItem = some n → n / 128 ≠ e2.prog / 128) →
        u.core.flight = (if e2.prog / 128 + 1 < w.count then [{ e2 with prog := 128 * (e2.prog / 128 + 1) }] else []) ∧
        u.core.ffi = if k = .ldff ∧ ¬e2.prog / 128 + 1 < w.count then 0x8000 else t.core.ffi) := by
  by_cases hs : ∀ n, e2.stopItem = some n → n / 128 ≠ e2.prog / 128
  · rw [State.glsEnd_next hs, State.glsNext] at hu
    by_cases hm : e2.prog / 128 + 1 < w.count
    · rw [if_pos hm] at hu
      exact ⟨_, windowPipe_more h hn hp hu hf hx, rfl, rfl, rfl, rfl, fun n h1 h2 => absurd h2 (hs n h1),
        fun _ => ⟨(if_pos hm).symm, (if_neg fun h => h.2 hm).symm⟩⟩
    · rw [if_neg hm] at hu
      by_cases hk : k = .ldff
      · rw [if_pos (by simp [hk])] at hu
        exact ⟨_, windowPipe_done h hn hp hu hf, rfl, rfl, rfl, rfl, fun n h1 h2 => absurd h2 (hs n h1),
          fun _ => ⟨(if_neg hm).symm, (if_pos ⟨hk, hm⟩).symm⟩⟩
      · rw [if_neg (by simp [hk])] at hu
        exact ⟨_, windowPipe_done h hn hp hu hf, rfl, rfl, rfl, rfl, fun n h1 h2 => absurd h2 (hs n h1),
          fun _ => ⟨(if_neg hm).symm, (if_neg fun h => hk h.1).symm⟩⟩
  · push Not at hs
    obtain ⟨n, hs, hv⟩ := hs
    rw [State.glsEnd_stops hs hv] at hu
    refine ⟨_, windowPipe_done h hn hp hu hf, rfl, rfl, rfl, rfl, fun m h1 _ => ?_, fun h => absurd hv (h n hs)⟩
    obtain rfl : n = m := Option.some.inj (hs.symm.trans h1)
    exact ⟨rfl, rfl⟩

/-- Every element of a load with stride and pitch 0 has the same address (R201). -/
theorem glsAddr_stride_zero (g : Grid) (z v j : Nat) (base : Word) : glsAddr g z base 0 none v j = wrap64 base.toNat := by
  simp [glsAddr, fieldNat, signedNat]

theorem glsVector_same_address (h : (wi.isNone && str == 0) = true) {x y : Nat × Nat × Nat} (hx : x ∈ glsVector s e e1 z km base str wi)
    (hy : y ∈ glsVector s e e1 z km base str wi) : x.2.2 = y.2.2 := by
  obtain ⟨hwi, hstr⟩ : wi = none ∧ str = 0 := by simpa using h
  subst hwi hstr
  obtain ⟨p, hp, rfl⟩ := List.mem_map.1 hx
  obtain ⟨q, hq, rfl⟩ := List.mem_map.1 hy
  obtain ⟨-, -, -, hpa⟩ := (mem_vecItems _ _ _ _ _ _ _ _).1 hp
  obtain ⟨-, -, -, hqa⟩ := (mem_vecItems _ _ _ _ _ _ _ _).1 hq
  simp only [hpa, hqa, glsAddr_stride_zero]

/-- One vector of a load (R201, R202, R205): its cells, how it ends, and the bytes that stay with the entry where one read serves every
element. -/
theorem windowPipe_gls_load (h : Alone s e) (hn : NoAbsent s) (ho : e.op = .gls k z w km base str wi) (hx : sharedIdx k w wi = none)
    (hr : GlsReady s s1 e e1 k z (glsItems s.core.grid z w (s.core.masks.governing km) base str wi e.prog)) (hk : k.isLoad = true)
    (hp : ((wi = none ∧ str = 0) ∧ e1.firstBytes ≠ []) ∨
      ∀ x ∈ e1.served (glsVector s e e1 z km base str wi), s1.poisonedRange x.2.2 z = false) :
    ∃ u l, exec (.windowPipeVector .pass) s = .next u ∧ u.core.regs = s.core.regs ∧ u.core.masks = s.core.masks ∧ u.mem = s1.mem ∧
      u.core.grid = loadGrid w (fun x => if (wi = none ∧ str = 0) ∧ e1.firstBytes ≠ [] then fromLE e1.firstBytes else s1.readNat x.2.2 z)
        (e1.served (glsVector s e e1 z km base str wi)) s.core.grid ∧
      (∀ n, e1.stopItem = some n → n / 128 = e.prog / 128 →
        u.core.flight = [] ∧ u.core.ffi = BitVec.ofNat 64 (n / 128 % 128 * 256 + n % 128)) ∧
      ((∀ n, e1.stopItem = some n → n / 128 ≠ e.prog / 128) →
        u.core.flight = (if e.prog / 128 + 1 < w.count then [{ e1 with prog := 128 * (e.prog / 128 + 1), pend := l }] else []) ∧
        u.core.ffi = if k = .ldff ∧ ¬e.prog / 128 + 1 < w.count then 0x8000 else s.core.ffi) ∧
      l.drop 1 = e1.pend.drop 1 ∧ (¬(wi = none ∧ str = 0) ∨ ((wi = none ∧ str = 0) ∧ e1.firstBytes ≠ []) → l = e1.pend) ∧
      (wi = none ∧ str = 0 → e1.firstBytes = [] → e1.pend ≠ [] →
        ∀ x, (e1.served (glsVector s e e1 z km base str wi)).head? = some x → l.head?.map (·.2.2) = some (s1.readBytes x.2.2 z)) := by
  obtain ⟨hprog, hfin, hop, hpc, hfl⟩ := hr.entry
  have hwhole : (wi.isNone && str == 0) = true ↔ wi = none ∧ str = 0 := by simp
  obtain ⟨t, l, hvec, hsame, hcore, hdrop, hkeep, hread⟩ := State.loadVec_reads (s := s1) (e := e1) (z := z) (w := w) k
    (whole := wi.isNone && str == 0) (xs := glsVector s e e1 z km base str wi) (by rwa [hwhole])
    fun hw x hxm y hym => glsVector_same_address hw (List.mem_filter.1 hxm).1 (List.mem_filter.1 hym).1
  have hu := runUnit_gls ho hx hr
  rw [if_pos hk, hvec] at hu
  have hstop : Entry.stopItem { e1 with pend := l } = e1.stopItem := by simp only [Entry.stopItem, hdrop]
  rw [hr.core] at hcore
  obtain ⟨u, hexec, hregs, hmasks, hmem, hgrid, hend, hnext⟩ := windowPipe_glsEnd h hn (by rw [ho]; rfl) hu (by rw [hcore, h.1])
    (hfin.trans h.2.1)
  rw [hstop] at hend hnext
  simp only [hprog] at hend hnext
  rw [hcore] at hregs hmasks hgrid hnext
  simp only [hwhole] at hgrid hread
  refine ⟨u, l, hexec, hregs, hmasks, hmem.trans hsame.mem, hgrid, hend, hnext, hdrop, fun hl => hkeep ?_, hread⟩
  refine hl.imp (fun hw => ?_) fun hw => hw.2
  rwa [← Bool.not_eq_true, hwhole]

/-! ### Stores -/

/-- A store whose elements are stored leaves the vector; the addresses of a gstx stay with the entry (R202, R238). -/
theorem storeVec_eq {xs : List (Nat × Nat × Nat)} (hk : k.isLoad = false) (hs : s.storeItems (k != .stx) w z (e.pend.map fun p => p.2.1) xs = (t, none))
    (hx : ∀ x ∈ xs, x.1 / 128 = e.prog / 128) : s.storeVec e k z w xs =
      (t, if e.prog / 128 + 1 < w.count then .more { e with
          prog := 128 * (e.prog / 128 + 1), pend := if k = .stx then e.pend ++ xs.map (fun x => (x.1, x.2.1, [])) else [] }
        else .done { e with
          prog := 128 * (e.prog / 128 + 1), pend := if k = .stx then e.pend ++ xs.map (fun x => (x.1, x.2.1, [])) else [] }) := by
  have hfil : (xs.filter fun x => decide (x.1 < 128 * (e.prog / 128 + 1))) = xs := by
    refine List.filter_eq_self.2 fun x h => ?_
    have := hx x h
    exact decide_eq_true (by omega)
  have hff : k ≠ .ldff := by
    rintro rfl
    cases hk
  unfold State.storeVec
  simp only [hs, hfil, State.glsNext, beq_iff_eq, hff, if_false]
  split <;> rfl

theorem windowPipe_gls_store (h : Alone s e) (hn : NoAbsent s) (ho : e.op = .gls k z w km base str wi) (hx : sharedIdx k w wi = none)
    (hr : GlsReady s s1 e e1 k z (glsItems s.core.grid z w (s.core.masks.governing km) base str wi e.prog)) (hk : k.isLoad = false)
    (hfree : k ≠ .stx ∨ (((glsVector s e e1 z km base str wi).map fun x => x.2.1).Nodup ∧
      ∀ x ∈ glsVector s e e1 z km base str wi, x.2.1 ∉ e1.pend.map fun p => p.2.1))
    (hw : ∀ pre x post, glsVector s e e1 z km base str wi = pre ++ x :: post →
      (s1.storesOf w z s.core.grid pre).lost x.2.2 = false ∧
      (s1.storesOf w z s.core.grid pre).writeStalls (s1.storesOf w z s.core.grid pre).gridWriter x.2.2 z = false) :
    exec (.windowPipeVector .pass) s = .next (
      if e.prog / 128 + 1 < w.count then still (s1.storesOf w z s.core.grid (glsVector s e e1 z km base str wi)) { e1 with
          prog := 128 * (e.prog / 128 + 1),
          pend := if k = .stx then e1.pend ++ (glsVector s e e1 z km base str wi).map (fun x => (x.1, x.2.1, [])) else [] }
      else retired (s1.storesOf w z s.core.grid (glsVector s e e1 z km base str wi)) e) := by
  obtain ⟨hprog, hfin, hop, hpc, hfl⟩ := hr.entry
  have hst := State.storeItems_all (ordered := k != .stx) _ (e1.pend.map fun p => p.2.1) s1 (congrArg Core.grid hr.core)
    (hfree.imp_left fun h => by simpa using h) hw
  have hu := runUnit_gls ho hx hr
  rw [if_neg (by simp [hk]), storeVec_eq hk hst fun x hx => (div_of_mem_glsVector hx).trans (congrArg (· / 128) hprog.symm), hprog] at hu
  have hf : (s1.storesOf w z s.core.grid (glsVector s e e1 z km base str wi)).core.flight = [e] := by
    rw [(State.storesOf_sameWork _ _ _ _ _).flight, hr.core, h.1]
  have hp : e.op.pipe = 1 := by rw [ho]; rfl
  by_cases hm : e.prog / 128 + 1 < w.count
  · rw [if_pos hm] at hu ⊢
    exact windowPipe_more h hn hp hu hf (hfin.trans h.2.1)
  · rw [if_neg hm] at hu ⊢
    exact (windowPipe_done h hn hp hu hf).trans (congrArg Host.Outcome.next (retired_congr hop hpc hfl))

end GlsUnit

end Sys2Proof.Machine

end

section
/-! PROOFS. Accumulation windows (R291 to R298). -/

namespace Sys2Proof.Machine

open Sys2Proof.Safety

/-! ### One unit at the port, the GIQ being empty (R19) -/

section Port

variable {s t : State} {e e1 : Entry}

theorem State.departHead_of_no_giq (h : s.core.giq = []) (b : Bool) : s.departHead b = s := by rw [State.departHead, h]

theorem giqDeparture_completes (h : Alone s e) (hp : e.op.atPort = true) (hd : e.demands = [])
    (hu : s.runUnit [] true .pass e = (t, .done e1)) (hf : t.core.flight = [e]) (hg : t.core.giq = []) (hn : t.core.drn = none) :
    exec .giqDeparture s = .next (retired t e1) := by
  have hk := State.runKind_completes (p := GOp.atPort) h hp ((State.stepEntry_of_demands h.2.2.1 hd).trans hu) hf
  have hn' : (retired t e1).core.drn = none := hn
  show execGiqDeparture s = _
  rw [execGiqDeparture, hk]
  simp only [hn', State.departHead_of_no_giq (s := retired t e1) hg]

theorem giqDeparture_goesOn (h : Alone s e) (hp : e.op.atPort = true) (hd : e.demands = [])
    (hu : s.runUnit [] true .pass e = (t, .more e1)) (hx : e1.fin = false) (hf : t.core.flight = [e]) (hg : t.core.giq = [])
    (hn : t.core.drn = none) : exec .giqDeparture s = .next (still t e1) := by
  have hk := State.runKind_goesOn (p := GOp.atPort) h hp ((State.stepEntry_of_demands h.2.2.1 hd).trans hu) hf hx
  have hn' : (still t e1).core.drn = none := hn
  show execGiqDeparture s = _
  rw [execGiqDeparture, hk]
  simp only [hn', State.departHead_of_no_giq (s := still t e1) hg]

end Port

/-! ### awin, amerge and arel -/

section Windows

variable {s : State} {e : Entry} {a : Nat}

/-- Of a window's entry at the port the window alone is claimed, and no row is fetched. -/
theorem awin_demands (ho : (∃ op base bytes, e.op = .awin op a base bytes) ∨ e.op = .amerge a ∨ e.op = .arel a) : e.demands = [] := by
  have ha : 256 ≤ 300 + a := by omega
  obtain ⟨op, base, bytes, ho⟩ | ho | ho := ho <;>
    simp [Entry.demands, Entry.unitWrites, Entry.unitReads, Entry.writes, Entry.reads, ho, awinClaim, ha]

section

variable (h : Alone s e) (hg : s.core.giq = [])

include h hg

theorem giqDeparture_awin {op : AOp} {base bytes : Word} (ho : e.op = .awin op a base bytes) :
    exec .giqDeparture s = .next (retired (s.setAwin a (some (AWin.fresh op base bytes))) e) :=
  giqDeparture_completes h (by rw [ho]; rfl) (awin_demands (.inl ⟨_, _, _, ho⟩)) (by rw [State.runUnit, ho]) h.1 hg h.2.2.2.2

theorem giqDeparture_arel (ho : e.op = .arel a) : exec .giqDeparture s = .next (retired (s.setAwin a none) e) :=
  giqDeparture_completes h (by rw [ho]; rfl) (awin_demands (.inr (.inr ho))) (by rw [State.runUnit, ho]) h.1 hg h.2.2.2.2

variable {w : AWin} (ho : e.op = .amerge a) (hw : s.awinOf a = some w)

include ho hw

/-- An amerge first probes every touched element that is left (R298). -/
theorem giqDeparture_amerge_probe {s1 : State} {m : List (Nat × Nat)} (hp : e.pend = []) (hm : e.maps = [])
    (hl : (w.touched.filter fun k => decide (e.prog ≤ k)) ≠ [])
    (hs : s.probeMerge (s.entryWho e 2) w.base (w.touched.filter fun k => decide (e.prog ≤ k)) = (s1, .ok m)) (hc : s1.core = s.core) :
    exec .giqDeparture s =
      .next (still s1 { e with maps := pagesOf (m.map fun x => (x.1, (w.base.toNat + 4 * x.1) % 2 ^ 64, x.2)) }) := by
  obtain ⟨k, more, hk⟩ := List.exists_cons_of_ne_nil hl
  rw [hk] at hs
  refine giqDeparture_goesOn h (by rw [ho]; rfl) (awin_demands (.inr (.inl ho))) ?_ h.2.1 (by rw [hc, h.1]) (by rw [hc, hg]) (by rw [hc, h.2.2.2.2])
  have hu : s.runUnit [] true .pass e = s.runAmerge e a := by rw [State.runUnit, ho]
  rw [hu]
  simp [State.runAmerge, hw, hp, hk, hm, hs]

/-- Then it reads one element (R296). -/
theorem giqDeparture_amerge_read {k pa : Nat} (hp : e.pend = []) (hm : e.maps ≠ [])
    (hl : (w.touched.filter fun k => decide (e.prog ≤ k)).head? = some k)
    (hpa : mapped e.maps ((w.base.toNat + 4 * k) % 2 ^ 64) = pa) (hx : s.poisonedRange pa 4 = false) :
    exec .giqDeparture s = .next (still (s.meterMem s.part pa 4 0) { e with prog := k, pend := [(k, pa, s.readBytes pa 4)] }) := by
  obtain ⟨more, hk⟩ := List.head?_eq_some_iff.1 hl
  refine giqDeparture_goesOn h (by rw [ho]; rfl) (awin_demands (.inr (.inl ho))) ?_ h.2.1 (by rw [State.meterMem_core, h.1])
    (by rw [State.meterMem_core, hg]) (by rw [State.meterMem_core, h.2.2.2.2])
  have hu : s.runUnit [] true .pass e = s.runAmerge e a := by rw [State.runUnit, ho]
  rw [hu]
  simp only [State.runAmerge, hw, hp, hk, List.isEmpty_eq_false_iff.2 hm, Bool.not_false, if_true, hpa, State.mergeRead, hx, Bool.false_eq_true,
    if_false]

/-- And it writes the fold of that element (R296). -/
theorem giqDeparture_amerge_write {k pa : Nat} {old : List Byte} (hp : e.pend = [(k, pa, old)])
    (hx : s.writeStalls s.gridWriter pa 4 = false) :
    exec .giqDeparture s = .next (still ((s.write s.gridWriter pa (leBytes 4 (w.fold k (BitVec.ofNat 32 (fromLE old))).1.toNat)).setAwin a
      (some (w.merged k))) { e with
        prog := k + 1, pend := [], fl := e.fl.add (w.fold k (BitVec.ofNat 32 (fromLE old))).2 (k / 128 % 32) (k % 128) }) := by
  have hsw := s.write_sameWork s.gridWriter pa (leBytes 4 (w.fold k (BitVec.ofNat 32 (fromLE old))).1.toNat)
  refine giqDeparture_goesOn h (by rw [ho]; rfl) (awin_demands (.inr (.inl ho))) ?_ h.2.1 (hsw.flight.trans h.1) (hsw.giq.trans hg)
    (hsw.drn.trans h.2.2.2.2)
  have hu : s.runUnit [] true .pass e = s.runAmerge e a := by rw [State.runUnit, ho]
  rw [hu]
  simp only [State.runAmerge, hw, hp, State.mergeWrite, hx, Bool.false_eq_true, if_false]

/-- It is done where no touched element is left. -/
theorem giqDeparture_amerge_done (hp : e.pend = []) (hl : (w.touched.filter fun k => decide (e.prog ≤ k)) = []) :
    exec .giqDeparture s = .next (retired s e) := by
  refine giqDeparture_completes h (by rw [ho]; rfl) (awin_demands (.inr (.inl ho))) ?_ h.1 hg h.2.2.2.2
  have hu : s.runUnit [] true .pass e = s.runAmerge e a := by rw [State.runUnit, ho]
  rw [hu]
  simp only [State.runAmerge, hw, hp, hl]

end

/-! ### ascat -/

/-- An ascat does one vector, or none where nothing is left of it (R295). -/
theorem windowPipe_ascat (h : Alone s e) (hn : NoAbsent s) {w : AWin} (hw : s.awinOf a = some w) {wi wv : Window} {km : KField}
    (ho : e.op = .ascat a wi wv km) : exec (.windowPipeVector .pass) s = .next (
      let p := ascatVec w (s.core.masks.governing km) s.core.grid wi wv e.prog e.fl
      if wi.count ≤ e.prog then retired s e
      else if e.prog + 1 < wi.count then still (s.setAwin a (some p.1)) { e with prog := e.prog + 1, fl := p.2 }
      else retired (s.setAwin a (some p.1)) { e with prog := e.prog + 1, fl := p.2 }) := by
  have hp : e.op.pipe = 1 := by rw [ho]; rfl
  have hu : s.runUnit [] true .pass e = s.runAscat e a wi wv km := by rw [State.runUnit, ho]
  dsimp only
  by_cases hc : wi.count ≤ e.prog
  · rw [if_pos hc]
    exact windowPipe_done h hn hp (hu.trans (by simp [State.runAscat, hw, Option.filter, Nat.not_lt.2 hc])) h.1
  · rw [if_neg hc]
    by_cases hm : e.prog + 1 < wi.count
    · rw [if_pos hm]
      exact windowPipe_more h hn hp (hu.trans (by simp [State.runAscat, hw, Option.filter, Nat.not_le.1 hc, hm])) h.1 h.2.1
    · rw [if_neg hm]
      exact windowPipe_done h hn hp (hu.trans (by simp [State.runAscat, hw, Option.filter, Nat.not_le.1 hc, hm])) h.1

end Windows

theorem mem_touch (k x : Nat) (l : List Nat) : x ∈ touch k l ↔ x = k ∨ x ∈ l := by
  induction l with
  | nil => simp [touch]
  | cons m r ih =>
    unfold touch
    split
    · simp
    · split
      case isTrue h => simp [h]
      case isFalse => simp only [List.mem_cons, ih]; tauto

namespace AWin

variable (w : AWin) (m : Mask) (g : Grid) (wi wv : Window) (v : Nat)

/-- One lane of an ascat (R295). -/
def lane (p : AWin × FlagRec) (j : Nat) : AWin × FlagRec :=
  if active m j then
    let idx := signedNat 32 (wi.read g v j).toNat
    if 0 ≤ idx && decide (idx < (p.1.bytes / 4 : Nat)) then
      let k := idx.toNat
      let x := p.1.op.apply (p.1.copy j k) (wv.read g v j)
      ({ p.1 with copies := Sp.put p.1.op.identity p.1.copies (j * 4096 + k) x.1, touched := touch k p.1.touched }, p.2.add x.2 v j)
    else (p.1, p.2.add { sat := true } v j)
  else p

theorem ascatVec_eq (r : FlagRec) : ascatVec w m g wi wv v r = (List.range 128).foldl (lane m g wi wv v) (w, r) := rfl

/-- Does lane `j` of the vector fold its value into element `k`. -/
def hits (j k : Nat) : Prop := m.getLsbD j = true ∧ (wi.read g v j).toInt = k

/-- The window behind the first `n` lanes of a vector. -/
structure Behind (n : Nat) (u : AWin) : Prop where
  op : u.op = w.op
  bytes : u.bytes = w.bytes
  copy_hit : ∀ j k, k < w.bytes / 4 → j < n → hits m g wi v j k → u.copy j k = (w.op.apply (w.copy j k) (wv.read g v j)).1
  copy_miss : ∀ j k, k < w.bytes / 4 → ¬(j < n ∧ hits m g wi v j k) → u.copy j k = w.copy j k
  touched : ∀ k, k < w.bytes / 4 → (k ∈ u.touched ↔ k ∈ w.touched ∨ ∃ j < n, hits m g wi v j k)

theorem behind_zero : Behind w m g wi wv v 0 w where
  op := rfl
  bytes := rfl
  copy_hit _ _ _ h := absurd h (Nat.not_lt_zero _)
  copy_miss _ _ _ _ := rfl
  touched k _ := by simp

variable {w m g wi wv v}

/-- A lane that hits no element of the window changes none. -/
theorem Behind.miss {n : Nat} {u : AWin} (h : Behind w m g wi wv v n u) (hn : ∀ k, k < w.bytes / 4 → ¬hits m g wi v n k) :
    Behind w m g wi wv v (n + 1) u where
  op := h.op
  bytes := h.bytes
  copy_hit j k hk hj hh := by
    rcases Nat.lt_succ_iff_lt_or_eq.1 hj with hj | rfl
    · exact h.copy_hit j k hk hj hh
    · exact absurd hh (hn k hk)
  copy_miss j k hk hj := h.copy_miss j k hk fun hh => hj ⟨Nat.lt_succ_of_lt hh.1, hh.2⟩
  touched k hk := by
    rw [h.touched k hk]
    refine or_congr_right ⟨fun ⟨j, hj, hh⟩ => ⟨j, Nat.lt_succ_of_lt hj, hh⟩, fun ⟨j, hj, hh⟩ => ?_⟩
    rcases Nat.lt_succ_iff_lt_or_eq.1 hj with hj | rfl
    · exact ⟨j, hj, hh⟩
    · exact absurd hh (hn k hk)

theorem copy_put {u : AWin} {j l k i : Nat} {x : Cell} {t : List Nat} (hk : k < 4096) (hi : i < 4096) :
    copy { u with copies := Sp.put u.op.identity u.copies (l * 4096 + i) x, touched := t } j k = if j = l ∧ k = i then x else u.copy j k := by
  unfold copy
  by_cases h : j = l ∧ k = i
  · rw [if_pos h, h.1, h.2, Sp.get_put_same]
  · rw [if_neg h, Sp.get_put_other]
    omega

/-- A lane that hits element `i` folds its value into its own copy of it. -/
theorem Behind.hit {n i : Nat} {u : AWin} (h : Behind w m g wi wv v n u) (hb : w.bytes ≤ 16384) (hi : i < w.bytes / 4)
    (hn : hits m g wi v n i) : Behind w m g wi wv v (n + 1) { u with
      copies := Sp.put u.op.identity u.copies (n * 4096 + i) (u.op.apply (u.copy n i) (wv.read g v n)).1, touched := touch i u.touched } where
  op := h.op
  bytes := h.bytes
  copy_hit j k hk hj hh := by
    rw [copy_put (by omega) (by omega), h.op, h.copy_miss n i hi fun x => Nat.lt_irrefl n x.1]
    by_cases he : j = n ∧ k = i
    · rw [if_pos he, he.1, he.2]
    · have hjn : j ≠ n := by
        rintro rfl
        exact he ⟨rfl, Int.ofNat.inj (hh.2.symm.trans hn.2)⟩
      rw [if_neg he, h.copy_hit j k hk (by omega) hh]
  copy_miss j k hk hj := by
    have he : ¬(j = n ∧ k = i) := fun ⟨h1, h2⟩ => hj ⟨by omega, by rw [h1, h2]; exact hn⟩
    rw [copy_put (by omega) (by omega), if_neg he]
    exact h.copy_miss j k hk fun hh => hj ⟨Nat.lt_succ_of_lt hh.1, hh.2⟩
  touched k hk := by
    rw [mem_touch, h.touched k hk]
    constructor
    · rintro (rfl | ht | ⟨j, hj, hh⟩)
      · exact .inr ⟨n, Nat.lt_succ_self n, hn⟩
      · exact .inl ht
      · exact .inr ⟨j, Nat.lt_succ_of_lt hj, hh⟩
    · rintro (ht | ⟨j, hj, hh⟩)
      · exact .inr (.inl ht)
      · rcases Nat.lt_succ_iff_lt_or_eq.1 hj with hj | rfl
        · exact .inr (.inr ⟨j, hj, hh⟩)
        · exact .inl (Int.ofNat.inj (hh.2.symm.trans hn.2))

theorem Behind.lane {n : Nat} {p : AWin × FlagRec} (h : Behind w m g wi wv v n p.1) (hb : w.bytes ≤ 16384) :
    Behind w m g wi wv v (n + 1) (lane m g wi wv v p n).1 := by
  unfold AWin.lane
  rw [active_eq, signedNat_toNat (by decide), h.bytes]
  by_cases ha : m.getLsbD n = true
  case neg =>
    rw [if_neg ha]
    exact h.miss fun k _ hh => ha hh.1
  rw [if_pos ha]
  by_cases hin : 0 ≤ (wi.read g v n).toInt ∧ (wi.read g v n).toInt < (w.bytes / 4 : Nat)
  · rw [if_pos (by simpa using hin)]
    exact h.hit hb (by omega) ⟨ha, (Int.toNat_of_nonneg hin.1).symm⟩
  · rw [if_neg (by simpa using hin)]
    refine h.miss fun k hk hh => hin ?_
    rw [hh.2]
    omega

theorem behind_lanes (hb : w.bytes ≤ 16384) (r : FlagRec) (n : Nat) :
    Behind w m g wi wv v n ((List.range n).foldl (AWin.lane m g wi wv v) (w, r)).1 := by
  induction n with
  | zero => exact behind_zero w m g wi wv v
  | succ n ih =>
    rw [List.range_succ, List.foldl_concat]
    exact ih.lane hb

/-- What an ascat leaves of its window, copy by copy (R295). -/
theorem behind_ascatVec (hb : w.bytes ≤ 16384) (r : FlagRec) : Behind w m g wi wv v 128 (ascatVec w m g wi wv v r).1 := by
  rw [ascatVec_eq]
  exact behind_lanes hb r 128

/-- The copies of a merged element hold the identity (R296). -/
theorem copy_merged {k : Nat} (hk : k < 4096) (l : Nat) : (w.merged k).copy l k = w.op.identity := by
  have h := Sp.get_filter_keys w.op.identity (fun i => i % 4096 != k) w.copies (l * 4096 + k)
  have hkk : (l * 4096 + k) % 4096 = k := by omega
  rw [hkk, bne_self_eq_false] at h
  exact h

theorem not_mem_touched_merged (k : Nat) : k ∉ (w.merged k).touched := by simp [merged]

end AWin

end Sys2Proof.Machine

end

section
/-! PROOFS. Runs of bytes in the scratchpad aperture: the pages that they touch, where these lie, and what is written there (R195, R211,
R215, R264). -/

namespace Sys2Proof.Machine

open Sys2Proof.Safety

/-! ### Sparse lists and page heads -/

section Sparse

variable {α : Type} {m : Sp α} {k : Nat} {v : α} {p : Nat × α}

theorem Sp.mem_ins_self (m : Sp α) (k : Nat) (v : α) : (k, v) ∈ Sp.ins m k v := by
  induction m with
  | nil => simp [Sp.ins]
  | cons q r ih =>
    unfold Sp.ins
    split
    · exact List.mem_cons_self
    · exact List.mem_cons_of_mem _ ih

theorem Sp.mem_ins_of_mem (h : p ∈ m) : p ∈ Sp.ins m k v := by
  induction m with
  | nil => cases h
  | cons q r ih =>
    unfold Sp.ins
    split
    · exact List.mem_cons_of_mem _ h
    · rcases List.mem_cons.1 h with rfl | h
      · exact List.mem_cons_self
      · exact List.mem_cons_of_mem _ (ih h)

theorem Sp.mem_del_of_ne (h : p ∈ m) (hk : p.1 ≠ k) : p ∈ Sp.del m k := by
  induction m with
  | nil => cases h
  | cons q r ih =>
    unfold Sp.del
    rcases List.mem_cons.1 h with rfl | h
    · rw [if_neg hk]
      exact List.mem_cons_self
    · split
      · exact ih h
      · exact List.mem_cons_of_mem _ (ih h)

end Sparse

/-- Each head is an address of its page, and each address has the head of its page (R180, R264). -/
theorem pageHeads_spec (l : List Nat) :
    (∀ e ∈ pageHeads l, e.2 ∈ l ∧ e.1 = e.2 / 2 ^ 17) ∧ ∀ a ∈ l, ∃ e ∈ pageHeads l, e.1 = a / 2 ^ 17 := by
  induction l using List.reverseRecOn with
  | nil => exact ⟨nofun, nofun⟩
  | append_singleton l a ih =>
    obtain ⟨hsub, hcov⟩ := ih
    unfold pageHeads at *
    rw [List.foldl_concat]
    generalize l.foldl _ [] = m at *
    have hin {x : Sp Nat} (hx : ∀ e ∈ x, e = (a / 2 ^ 17, a) ∨ e ∈ m) : ∀ e ∈ x, e.2 ∈ l ++ [a] ∧ e.1 = e.2 / 2 ^ 17 := by
      intro e he
      rcases hx e he with rfl | he
      · exact ⟨by simp, rfl⟩
      · exact ⟨List.mem_append_left _ (hsub e he).1, (hsub e he).2⟩
    have hout {x : Sp Nat} (ha : ∃ e ∈ x, e.1 = a / 2 ^ 17) (hx : ∀ e ∈ m, ∃ e' ∈ x, e'.1 = e.1) :
        ∀ b ∈ l ++ [a], ∃ e ∈ x, e.1 = b / 2 ^ 17 := by
      intro b hb
      rcases List.mem_append.1 hb with hb | hb
      · obtain ⟨e, he, heb⟩ := hcov b hb
        obtain ⟨e', he', hee⟩ := hx e he
        exact ⟨e', he', hee.trans heb⟩
      · rwa [List.mem_singleton.1 hb]
    dsimp only
    split
    case h_1 e0 hf =>
      have he0 : e0.1 = a / 2 ^ 17 := by simpa using List.find?_some hf
      split
      · refine ⟨hin fun e he => (Sp.mem_ins he).imp_right Sp.mem_del, hout ⟨_, Sp.mem_ins_self _ _ _, rfl⟩ fun e he => ?_⟩
        by_cases hk : e.1 = a / 2 ^ 17
        · exact ⟨_, Sp.mem_ins_self _ _ _, hk.symm⟩
        · exact ⟨e, Sp.mem_ins_of_mem (Sp.mem_del_of_ne he hk), rfl⟩
      · exact ⟨hin fun e he => .inr he, hout ⟨e0, List.mem_of_find?_eq_some hf, he0⟩ fun e he => ⟨e, he, rfl⟩⟩
    case h_2 =>
      exact ⟨hin fun e he => Sp.mem_ins he, hout ⟨_, Sp.mem_ins_self _ _ _, rfl⟩ fun e he => ⟨e, Sp.mem_ins_of_mem he, rfl⟩⟩

namespace State

variable {s : State} {w : Who} {k : Acc}

theorem mapPages_ok (f : Nat → Nat) (l : List (Nat × Nat)) (h : ∀ e ∈ l, s.translate w k (BitVec.ofNat 64 e.2) = (s, .ok (f e.2))) :
    s.mapPages w k l = (s, .ok (l.map fun e => (e.1, f e.2 - e.2 % 2 ^ 17))) := by
  induction l with
  | nil => rfl
  | cons e l ih =>
    obtain ⟨p, a⟩ := e
    rw [mapPages, h (p, a) List.mem_cons_self]
    dsimp only
    rw [ih fun e he => h e (List.mem_cons_of_mem _ he)]
    rfl

end State

/-! ### The aperture (R194, R195, R215) -/

/-- The agent has a reservation of `sz` bytes at physical address `q` behind the aperture of its cluster. -/
def Aperture (s : State) (w : Who) (q sz : Nat) : Prop :=
  w.pl < 2 ∧ sz ≤ spadBytes ∧ spadBase ≤ q ∧ q + sz ≤ spadBase + 24 * spadBytes ∧
    ∃ r, s.reservation w.task (State.coreCluster w.core) = some (r, sz) ∧ q = spadBase + State.coreCluster w.core * spadBytes + r

namespace Aperture

variable {s : State} {w : Who} {k : Acc} {q sz : Nat}

/-- An address of the reservation, as the aperture shows it. -/
theorem translate (h : Aperture s w q sz) (hk : k ≠ .fetch) {x : Nat} (hx : x < sz) :
    s.translate w k (BitVec.ofNat 64 (apertureBase + x)) = (s, .ok (q + x)) := by
  obtain ⟨hpl, hsz, -, -, r, hr, rfl⟩ := h
  have ha : (BitVec.ofNat 64 (apertureBase + x)).toNat = apertureBase + x := by
    refine (BitVec.toNat_ofNat _ _).trans (Nat.mod_eq_of_lt ?_)
    simp only [apertureBase, spadBytes] at *
    omega
  have hin : (decide (apertureBase ≤ apertureBase + x) && decide (apertureBase + x < apertureBase + spadBytes)) = true := by
    simp only [Bool.and_eq_true, decide_eq_true_eq]
    omega
  have hf : (k == .fetch) = false := beq_eq_false_iff_ne.2 hk
  simp only [State.translate, ha, Nat.ne_of_lt hpl, if_false, hin, if_true, hf, Bool.false_eq_true, hr, Nat.add_sub_cancel_left, hx]

/-- The addresses of a run in the aperture do not wrap. -/
theorem span_eq {x n : Nat} (hx : x + n ≤ spadBytes) :
    State.span (BitVec.ofNat 64 (apertureBase + x)).toNat n = (List.range n).map fun i => apertureBase + (x + i) := by
  unfold State.span
  refine List.map_congr_left fun i hi => ?_
  have := List.mem_range.1 hi
  rw [BitVec.toNat_ofNat]
  simp only [apertureBase, spadBytes] at *
  omega

/-- A run in the reservation is mapped byte by byte (R195). -/
theorem mapPages (h : Aperture s w q sz) (hk : k ≠ .fetch) {x n : Nat} (hx : x + n ≤ sz) :
    ∃ m, s.mapPages w k (pageHeads ((List.range n).map fun i => apertureBase + (x + i))) = (s, .ok m) ∧
      ∀ i < n, mapped m (apertureBase + (x + i)) = q + (x + i) := by
  obtain ⟨hsub, hcov⟩ := pageHeads_spec ((List.range n).map fun i => apertureBase + (x + i))
  have hpl (a : Nat) (ha : a ∈ (List.range n).map fun i => apertureBase + (x + i)) : ∃ i < n, a = apertureBase + (x + i) := by
    obtain ⟨i, hi, rfl⟩ := List.mem_map.1 ha
    exact ⟨i, List.mem_range.1 hi, rfl⟩
  refine ⟨_, State.mapPages_ok (fun a => q + (a - apertureBase)) _ fun e he => ?_, fun i hi => ?_⟩
  · obtain ⟨i, hi, he⟩ := hpl _ (hsub e he).1
    rw [he, h.translate hk (by omega), Nat.add_sub_cancel_left]
  · obtain ⟨e, he, hei⟩ := hcov _ (List.mem_map_of_mem (List.mem_range.2 hi))
    unfold mapped
    split
    case h_1 e' hf =>
      have hp : e'.1 = (apertureBase + (x + i)) / 2 ^ 17 := by simpa using List.find?_some hf
      obtain ⟨e1, he1, rfl⟩ := List.mem_map.1 (List.mem_of_find?_eq_some hf)
      obtain ⟨j, hj, hej⟩ := hpl _ (hsub e1 he1).1
      have hpage : e1.1 = e1.2 / 2 ^ 17 := (hsub e1 he1).2
      simp only [hej] at hpage ⊢
      rw [hpage] at hp
      simp only [apertureBase] at *
      omega
    case h_2 hf =>
      have := List.find?_eq_none.1 hf _ (List.mem_map_of_mem he)
      simp [hei] at this

theorem mapRun (h : Aperture s w q sz) (hk : k ≠ .fetch) {x n : Nat} (hx : x + n ≤ sz) :
    ∃ m, s.mapRun w k (BitVec.ofNat 64 (apertureBase + x)) n = (s, .ok m) ∧ ∀ i < n, mapped m (apertureBase + (x + i)) = q + (x + i) := by
  obtain ⟨m, hm, hmap⟩ := h.mapPages hk hx
  refine ⟨m, ?_, hmap⟩
  rw [State.mapRun, span_eq (by have := h.2.1; omega), hm]

end Aperture

/-! ### The scratchpad (R193, R211) -/

theorem region_spad (s : State) {a : Nat} (h : spadBase ≤ a) (h' : a < spadBase + 24 * spadBytes) : s.region a = .spad := by
  have h1 : ¬a < hbmBytes := by
    simp only [hbmBytes, spadBase] at *
    omega
  have h2 : ¬(tierBase ≤ a ∧ a < tierBase + 4 * tierPort) := by
    simp only [tierBase, tierPort, spadBase] at *
    omega
  have h3 : (decide (tierBase ≤ a) && decide (a < tierBase + 4 * tierPort)) = false := by simpa using h2
  simp [State.region, h1, h3, h, h']

/-- The machines differ at most in memory, poison, reservations, older bytes and seal requests. -/
def State.Wrote (s t : State) : Prop :=
  t = { s with core := t.core, others := t.others, mem := t.mem, poison := t.poison } ∧ s.core.SameWork t.core

namespace State.Wrote

variable {s t u : State}

theorem refl (s : State) : s.Wrote s := ⟨rfl, .refl _⟩

theorem trans (h : s.Wrote t) (h' : t.Wrote u) : s.Wrote u :=
  ⟨Eq.trans h'.1 (congrArg (fun y : State => { y with core := u.core, others := u.others, mem := u.mem, poison := u.poison }) h.1),
    h.2.trans h'.2⟩

theorem deadDies (h : s.Wrote t) : t.deadDies = s.deadDies := by rw [h.1]

theorem landFrom (w : Wr) (pa : Nat) (bs : List Byte) : s.Wrote (s.landFrom w pa bs) := by
  have hl : s.Wrote (s.landBytes pa bs) := by
    refine ⟨?_, landBytes_sameWork pa bs⟩
    unfold State.landBytes breakResv
    dsimp only
    split <;> rfl
  unfold State.landFrom
  split
  · exact hl
  · split
    · refine hl.trans ⟨?_, modCore_sameWork _ _ fun _ => rfl⟩
      unfold modCore setCore
      split <;> rfl
    · exact hl

end State.Wrote

theorem pokeBytes_append (m : Sp Byte) (a : Nat) (l r : List Byte) : pokeBytes m a (l ++ r) = pokeBytes (pokeBytes m a l) (a + l.length) r := by
  induction l generalizing m a with
  | nil => rfl
  | cons b l ih =>
    rw [List.cons_append, pokeBytes, ih, pokeBytes, List.length_cons]
    congr 1
    omega

namespace State

variable {s : State}

/-- A scratchpad of no fenced die takes a write at once. -/
theorem write_spad (w : Wr) (bs : List Byte) {a : Nat} (hd : s.deadDies = []) (h : spadBase ≤ a) (h' : a < spadBase + 24 * spadBytes) :
    s.write w a bs = s.landFrom w a bs := by
  have hr := region_spad s h h'
  have hl : s.lost a = false := by simp [lost, hr, hd]
  simp [write, hl, hr]

theorem writeStalls_spad (w : Wr) (n : Nat) {a : Nat} (h : spadBase ≤ a) (h' : a < spadBase + 24 * spadBytes) : s.writeStalls w a n = false := by
  simp [writeStalls, region_spad s h h']

/-- Bytes at mapped addresses that lie one behind the other in the scratchpad are all written, page by page. -/
theorem writeVirt_spad (w : Wr) (m : List (Nat × Nat)) (fuel : Nat) : ∀ (s : State) (va q : Nat) (bs : List Byte), s.deadDies = [] →
    va + bs.length ≤ 2 ^ 64 → bs = [] ∨ va % 2 ^ 17 + bs.length ≤ fuel * 2 ^ 17 → spadBase ≤ q → q + bs.length ≤ spadBase + 24 * spadBytes →
    (∀ i < bs.length, mapped m (va + i) = q + i) →
    ∃ t, s.writeVirt w m va bs fuel = some t ∧ s.Wrote t ∧ t.mem = pokeBytes s.mem q bs := by
  induction fuel with
  | zero =>
    intro s va q bs hd hva hf hq hq' hm
    have hb : bs = [] := hf.elim id fun h => List.length_eq_zero_iff.1 (by omega)
    subst hb
    exact ⟨s, rfl, .refl s, rfl⟩
  | succ fuel ih =>
    intro s va q bs hd hva hf hq hq' hm
    by_cases hb : bs = []
    · subst hb
      exact ⟨s, rfl, .refl s, rfl⟩
    have hpos : 0 < bs.length := List.length_pos_iff.2 hb
    have hlen := hf.resolve_left hb
    obtain ⟨n, hn⟩ : ∃ n, n = min bs.length (2 ^ 17 - va % 2 ^ 17) := ⟨_, rfl⟩
    have hpa : mapped m va = q := by simpa using hm 0 hpos
    have hin : q < spadBase + 24 * spadBytes := by omega
    have hw := write_spad w (bs.take n) hd hq hin
    have hwr : s.Wrote (s.landFrom w q (bs.take n)) := .landFrom w q (bs.take n)
    have hrest : bs.drop n = [] ∨ (va + n) % 2 ^ 17 + (bs.drop n).length ≤ fuel * 2 ^ 17 := by
      by_cases hall : n = bs.length
      · exact .inl (List.drop_eq_nil_of_le (by omega))
      · right
        rw [List.length_drop]
        omega
    have hdl : (bs.drop n).length = bs.length - n := List.length_drop
    have hva' : (va + n) % 2 ^ 64 = va + n ∨ bs.drop n = [] := by
      by_cases hall : n = bs.length
      · exact .inr (List.drop_eq_nil_of_le (by omega))
      · exact .inl (by omega)
    have hstep : s.writeVirt w m va bs (fuel + 1) = (s.landFrom w q (bs.take n)).writeVirt w m ((va + n) % 2 ^ 64) (bs.drop n) fuel := by
      rw [writeVirt, if_neg (by simpa using hb), ← hn, hpa, if_neg (by rw [writeStalls_spad w n hq hin]; decide), hw]
    rcases hva' with hva' | hnil
    · obtain ⟨t, ht, hwt, htm⟩ := ih (s.landFrom w q (bs.take n)) (va + n) (q + n) (bs.drop n) (hwr.deadDies.trans hd) (by omega) hrest (by omega)
        (by omega) fun i hi => by rw [Nat.add_assoc, Nat.add_assoc]; exact hm (n + i) (by omega)
      refine ⟨t, by rw [hstep, hva', ht], hwr.trans hwt, ?_⟩
      have hl : (bs.take n).length = n := by rw [List.length_take]; omega
      rw [htm, landFrom_mem]
      conv => rhs; rw [← List.take_append_drop n bs, pokeBytes_append, hl]
    · refine ⟨s.landFrom w q (bs.take n), ?_, hwr, ?_⟩
      · rw [hstep, hnil]
        cases fuel <;> rfl
      · rw [landFrom_mem]
        conv => rhs; rw [← List.take_append_drop n bs, hnil, List.append_nil]

end State

end Sys2Proof.Machine

end

section
/-! PROOFS. Grid images in the scratchpad aperture: gsave and grest, row by row (R128 to R131). -/

namespace Sys2Proof.Machine

open Sys2Proof.Safety

/-! ### Bytes in lists -/

theorem getElem?_flatten_map {α β : Type} {k : Nat} (f : α → List β) (hf : ∀ a, (f a).length = k) (l : List α) (i b : Nat) (hb : b < k) :
    (l.map f).flatten[k * i + b]? = l[i]?.bind fun a => (f a)[b]? := by
  induction l generalizing i with
  | nil => simp
  | cons a l ih =>
    rw [List.map_cons, List.flatten_cons]
    cases i with
    | zero =>
      rw [List.getElem?_append_left (by rw [hf]; omega)]
      simp
    | succ i =>
      rw [List.getElem?_append_right (by rw [hf, Nat.mul_succ]; omega), hf, show k * (i + 1) + b - k = k * i + b by rw [Nat.mul_succ]; omega, ih]
      simp

theorem length_flatten_map {α β : Type} {k : Nat} (f : α → List β) (hf : ∀ a, (f a).length = k) (l : List α) :
    (l.map f).flatten.length = k * l.length := by
  induction l with
  | nil => rfl
  | cons a l ih => rw [List.map_cons, List.flatten_cons, List.length_append, hf, ih, List.length_cons, Nat.mul_succ, Nat.add_comm]

theorem leBytes_getElem? (n v : Nat) {b : Nat} (hb : b < n) : (leBytes n v)[b]? = some (BitVec.ofNat 8 (v / 256 ^ b)) := by
  induction n generalizing v b with
  | zero => omega
  | succ n ih =>
    rw [leBytes_cons]
    cases b with
    | zero => simp
    | succ b => rw [List.getElem?_cons_succ, ih _ (by omega), Nat.div_div_eq_div_mul, Nat.pow_succ, Nat.mul_comm]

/-- The bits of the bytes of a value are its bits. -/
theorem getLsbD_byte (v j : Nat) : (BitVec.ofNat 8 (v / 256 ^ (j / 8))).getLsbD (j % 8) = v.testBit j := by
  rw [BitVec.getLsbD_ofNat, show 256 = 2 ^ 8 from rfl, ← Nat.pow_mul, Nat.testBit_div_two_pow, Nat.mod_add_div]
  simp [Nat.mod_lt]

theorem byte_of_cell (x : Cell) (b : Nat) : BitVec.ofNat 8 (x.toNat / 256 ^ b) = x.extractLsb' (8 * b) 8 := by
  apply BitVec.eq_of_toNat_eq
  rw [BitVec.extractLsb'_toNat, BitVec.toNat_ofNat, Nat.shiftRight_eq_div_pow, Nat.pow_mul]

theorem testBit_fromLE (l : List Byte) (j : Nat) : (fromLE l).testBit j = (l.getD (j / 8) 0).getLsbD (j % 8) := by
  induction l generalizing j with
  | nil => simp [fromLE]
  | cons b l ih =>
    have hb : b.toNat < 2 ^ 8 := b.isLt
    rw [fromLE, show b.toNat + 256 * fromLE l = 2 ^ 8 * fromLE l + b.toNat by omega, Nat.testBit_two_pow_mul_add _ hb]
    by_cases hj : j < 8
    · rw [if_pos hj, Nat.div_eq_of_lt hj, Nat.mod_eq_of_lt hj]
      rfl
    · rw [if_neg hj, ih, show j / 8 = (j - 8) / 8 + 1 by omega, show (j - 8) % 8 = j % 8 by omega]
      rfl

theorem get_pokeBytes_of_getElem? {bs : List Byte} {k : Nat} {x : Byte} (h : bs[k]? = some x) (m : Sp Byte) (a : Nat) :
    Sp.get 0 (pokeBytes m a bs) (a + k) = x := by
  obtain ⟨hk, hx⟩ := List.getElem?_eq_some_iff.1 h
  rw [get_pokeBytes_in bs m a k hk, hx]

/-! ### What an image holds (R128, R129) -/

theorem rowImage_length (g : Grid) (half r : Nat) : (rowImage g half r).length = 512 := by
  rw [rowImage, length_flatten_map _ (fun _ => leBytes_length 4 _), List.length_range]

theorem rowImage_getElem? (g : Grid) (half r : Nat) {c b : Nat} (hc : c < 128) (hb : b < 4) :
    (rowImage g half r)[4 * c + b]? = some ((g.cell half r c).extractLsb' (8 * b) 8) := by
  rw [rowImage, getElem?_flatten_map _ (fun _ => leBytes_length 4 _) _ _ _ hb, List.getElem?_range hc, Option.bind_some,
    leBytes_getElem? 4 _ hb, byte_of_cell]

theorem imageHeader_length (g : Grid) (half first n : Nat) : (imageHeader g half first n).length = 64 := by
  simp [imageHeader, leBytes_length]

/-- The validity bits of the rows (R129). -/
theorem imageHeader_bit (g : Grid) (half first n : Nat) {j : Nat} (hj : j < 128) : ∃ x, (imageHeader g half first n)[j / 8]? = some x ∧
    x.getLsbD (j % 8) = (decide (j < n) && (g.row half (first + j)).valid) := by
  have hlt : j / 8 < 16 := by omega
  refine ⟨_, ?_, (getLsbD_byte _ j).trans (testBit_packBits_range (fun i => (g.row half (first + i)).valid) n j)⟩
  rw [imageHeader, List.append_assoc, List.getElem?_append_left (by rw [leBytes_length]; exact hlt), leBytes_getElem? 16 _ hlt]

theorem imageHeader_tail (g : Grid) (half first n k : Nat) : (imageHeader g half first n)[16 + k]? =
    ([BitVec.ofNat 8 half, BitVec.ofNat 8 first, BitVec.ofNat 8 (n - 1)] ++ List.replicate 45 (0 : Byte))[k]? := by
  rw [imageHeader, List.append_assoc, List.getElem?_append_right (by rw [leBytes_length]; omega), leBytes_length, Nat.add_sub_cancel_left]

theorem imageHeader_zero (g : Grid) (half first n : Nat) {j : Nat} (hj : 19 ≤ j) (hj' : j < 64) :
    (imageHeader g half first n)[j]? = some 0 := by
  obtain ⟨k, rfl⟩ : ∃ k, j = 16 + (3 + k) := ⟨j - 19, by omega⟩
  rw [imageHeader_tail, List.getElem?_append_right (by simp), List.getElem?_replicate]
  simp only [List.length_cons, List.length_nil, Nat.zero_add, Nat.reduceAdd, Nat.add_sub_cancel_left]
  rw [if_pos (by omega)]

/-- The four bytes of a cell in a row image. -/
theorem readBytes_drop_take (s : State) (a : Nat) {c : Nat} (hc : c < 128) :
    ((s.readBytes a 512).drop (4 * c)).take 4 = s.readBytes (a + 4 * c) 4 := by
  apply List.ext_getElem
  · simp [State.readBytes]
    omega
  · intro i h1 h2
    simp [State.readBytes, Nat.add_assoc]

/-! ### Saving (R129) -/

namespace State

variable {s : State} {w : Who} {q sz : Nat}

theorem lost_of_no_deadDies (hd : s.deadDies = []) (a : Nat) : s.lost a = false := by
  unfold lost
  split <;> simp [hd]

theorem saveRun_spad (h : Aperture s w q sz) (hd : s.deadDies = []) {x : Nat} {bs : List Byte} (hx : x + bs.length ≤ sz) (hb : bs.length ≤ 512) :
    ∃ t, s.saveRun w (BitVec.ofNat 64 (apertureBase + x)) bs = (t, none) ∧ s.Wrote t ∧ t.mem = pokeBytes s.mem (q + x) bs := by
  obtain ⟨m, hm, hmap⟩ := h.mapRun (k := .store) nofun hx
  obtain ⟨-, hsz, hq, hq', -⟩ := h
  have hva : (BitVec.ofNat 64 (apertureBase + x)).toNat = apertureBase + x := by
    refine (BitVec.toNat_ofNat _ _).trans (Nat.mod_eq_of_lt ?_)
    simp only [apertureBase, spadBytes] at *
    omega
  obtain ⟨t, ht, hw, htm⟩ := writeVirt_spad s.gridWriter m 4 s (apertureBase + x) (q + x) bs hd
    (by simp only [apertureBase, spadBytes] at *; omega) (.inr (by omega)) (by omega) (by omega)
    fun i hi => by rw [Nat.add_assoc, Nat.add_assoc]; exact hmap i hi
  refine ⟨t, ?_, hw, htm⟩
  simp [saveRun, hm, lost_of_no_deadDies hd, hva, ht]

/-! ### Restoring (R130) -/

theorem poisonAmong_of_unpoisoned (m : List (Nat × Nat)) (l : List Nat) (h : ∀ a ∈ l, s.poisoned (mapped m a) = false) :
    s.poisonAmong m l = none := by
  unfold poisonAmong
  induction l with
  | nil => rfl
  | cons a l ih =>
    rw [List.foldl_cons]
    simp only [h a List.mem_cons_self, Bool.false_eq_true, if_false]
    exact ih fun b hb => h b (List.mem_cons_of_mem _ hb)

theorem SameMemory.meterReads (p : Nat) (l : List Nat) : s.SameMemory (s.meterReads p l) := rfl

/-- A run in the reservation without poison is read whole. -/
theorem readRun_spad (h : Aperture s w q sz) {x n : Nat} (hx : x + n ≤ sz) (hp : ∀ i < n, s.poisoned (q + (x + i)) = false) :
    ∃ t, s.readRun w (BitVec.ofNat 64 (apertureBase + x)) n = (t, .ok (s.readBytes (q + x) n)) ∧ s.SameMemory t ∧ t.core = s.core := by
  obtain ⟨m, hm, hmap⟩ := h.mapPages (k := .load) nofun hx
  obtain ⟨-, hsz, hq, hq', -⟩ := h
  have hin : ∀ a ∈ (List.range n).map fun i => apertureBase + (x + i), ∃ i < n, mapped m a = q + (x + i) := by
    intro a ha
    obtain ⟨i, hi, rfl⟩ := List.mem_map.1 ha
    exact ⟨i, List.mem_range.1 hi, hmap i (List.mem_range.1 hi)⟩
  have hpop : ((List.range n).map fun i => apertureBase + (x + i)).find? (fun a => s.unpopulated (mapped m a)) = none := by
    refine List.find?_eq_none.2 fun a ha => ?_
    obtain ⟨i, hi, hma⟩ := hin a ha
    simp [hma, unpopulated, region_spad s (show spadBase ≤ q + (x + i) by omega) (by omega)]
  have hpoison := poisonAmong_of_unpoisoned (s := s) m _ fun a ha => by
    obtain ⟨i, hi, hma⟩ := hin a ha
    rw [hma]
    exact hp i hi
  have hbytes : ((List.range n).map fun i => apertureBase + (x + i)).map (fun a => s.byteAt (mapped m a)) = s.readBytes (q + x) n := by
    rw [List.map_map]
    refine List.map_congr_left fun i hi => ?_
    rw [Function.comp_apply, hmap i (List.mem_range.1 hi), Nat.add_assoc]
  refine ⟨s.meterReads w.part (((List.range n).map fun i => apertureBase + (x + i)).map (mapped m)), ?_, .meterReads _ _, rfl⟩
  simp only [readRun, peekRun, readVirt, Aperture.span_eq (show x + n ≤ spadBytes by omega), hm, hpop, checkRead, Option.bind_none, hpoison,
    Option.map_none, hbytes, meterVirt]

end State

end Sys2Proof.Machine

end

section
/-! PROOFS. The unit of a gsave or grest in the window pipe, its image lying in the scratchpad aperture (R128 to R131). -/

namespace Sys2Proof.Machine

open Sys2Proof.Safety

/-! ### The agent of the entry -/

section Agent

variable {s t : State} {e : Entry} {w w' : Who} {q r sz : Nat}

theorem aperture_entryWho (hpl : e.pl < 2) (hc : s.cur < 96) (hr : s.reservation s.core.gridTaskId (s.cur / 4) = some (r, sz))
    (hsz : r + sz ≤ spadBytes) : Aperture s (s.entryWho e 2) (spadBase + s.cur / 4 * spadBytes + r) sz := by
  refine ⟨hpl, by omega, by omega, ?_, r, hr, rfl⟩
  simp only [spadBytes] at *
  omega

theorem Aperture.congr (h : Aperture s w q sz) (hpl : w'.pl = w.pl) (ht : w'.task = w.task) (hc : w'.core = w.core) (hs : t.tasks = s.tasks) :
    Aperture t w' q sz := by
  unfold Aperture State.reservation State.findTask at *
  rwa [hpl, ht, hc, hs]

theorem State.Wrote.tasks (h : s.Wrote t) : t.tasks = s.tasks := by rw [h.1]
theorem State.Wrote.cur (h : s.Wrote t) : t.cur = s.cur := by rw [h.1]
theorem Core.SameWork.gridTaskId {c d : Core} (h : c.SameWork d) : d.gridTaskId = c.gridTaskId := by
  rw [h]
  rfl

theorem State.SameMemory.tasks (h : s.SameMemory t) : t.tasks = s.tasks := by rw [h]
theorem State.SameMemory.cur (h : s.SameMemory t) : t.cur = s.cur := by rw [h]

end Agent

/-- The entry of an image as it stands behind the header: its row, and whose work it is, are the same. -/
def Entry.Headed (e e1 : Entry) : Prop := e1.op = e.op ∧ e1.prog = e.prog ∧ e1.fin = e.fin ∧ e1.pl = e.pl ∧ e1.pend ≠ []

namespace State

variable {s t : State} {e e1 : Entry} {q sz o half first n : Nat}

theorem fetchRow_of_noAbsent (hn : NoAbsent s) (h r : Nat) : s.fetchRow h r = (s, none) := by simp [fetchRow, hn h r]

theorem ofNat_aperture_add (o k : Nat) : BitVec.ofNat 64 (apertureBase + o) + BitVec.ofNat 64 k = BitVec.ofNat 64 (apertureBase + (o + k)) := by
  rw [← BitVec.ofNat_add, Nat.add_assoc]

theorem aperture_aligned (ha : o % 64 = 0) : (BitVec.ofNat 64 (apertureBase + o)).toNat % 64 = 0 := by
  rw [BitVec.toNat_ofNat]
  simp only [apertureBase]
  omega

/-! ### gsave -/

/-- A gsave that starts at its first row writes the header (R129). -/
theorem imageHead_save (h : Aperture s (s.entryWho e 2) q sz) (hd : s.deadDies = []) (ho : o + 64 ≤ sz) :
    ∃ t e1, s.imageHead e false half first n (BitVec.ofNat 64 (apertureBase + o)) = (t, .ok e1) ∧ s.Wrote t ∧ e.Headed e1 ∧
      t.mem = if e.pend = [] ∧ e.prog = 0 then pokeBytes s.mem (q + o) (imageHeader s.core.grid half first n) else s.mem := by
  by_cases hp : e.pend = []
  case neg => exact ⟨s, e, by simp [imageHead, hp], .refl s, ⟨rfl, rfl, rfl, rfl, hp⟩, by simp [hp]⟩
  by_cases hi : e.prog = 0
  case neg => exact ⟨s, { e with pend := [(0, 0, [])] }, by simp [imageHead, hp, hi], .refl s, ⟨rfl, rfl, rfl, rfl, nofun⟩, by simp [hi]⟩
  have hl := imageHeader_length s.core.grid half first n
  obtain ⟨t, ht, hw, hm⟩ := saveRun_spad h hd (x := o) (bs := imageHeader s.core.grid half first n) (by omega) (by omega)
  exact ⟨t, { e with pend := [(0, 0, [])] }, by simp [imageHead, hp, hi, ht], hw, ⟨rfl, rfl, rfl, rfl, nofun⟩, by simp [hp, hi, hm]⟩

theorem saveRow_spad (h : Aperture s (s.entryWho e 2) q sz) (hn : NoAbsent s) (hd : s.deadDies = []) (ho : o + 64 + 512 * e.prog + 512 ≤ sz) :
    ∃ t, s.saveRow e half first n (BitVec.ofNat 64 (apertureBase + o)) = t.imageNext e n ∧ s.Wrote t ∧
      t.mem = pokeBytes s.mem (q + o + 64 + 512 * e.prog) (rowImage s.core.grid half (first + e.prog)) := by
  have hl := rowImage_length s.core.grid half (first + e.prog)
  obtain ⟨t, ht, hw, hm⟩ := saveRun_spad h hd (x := o + (64 + 512 * e.prog)) (bs := rowImage s.core.grid half (first + e.prog)) (by omega) (by omega)
  rw [show q + (o + (64 + 512 * e.prog)) = q + o + 64 + 512 * e.prog by omega] at hm
  refine ⟨t, ?_, hw, hm⟩
  simp only [saveRow, fetchRow_of_noAbsent hn, ofNat_aperture_add, ht]

/-- One row of a gsave, behind its header where it is the first (R129). -/
theorem runImage_save (h : Aperture s (s.entryWho e 2) q sz) (hn : NoAbsent s) (hd : s.deadDies = []) (ha : o % 64 = 0) (hi : e.prog < n)
    (ho : o + 64 + 512 * n ≤ sz) :
    ∃ t e1, s.runImage e false half first n (BitVec.ofNat 64 (apertureBase + o)) = t.imageNext e1 n ∧ s.Wrote t ∧ e.Headed e1 ∧
      t.mem = pokeBytes (if e.pend = [] ∧ e.prog = 0 then pokeBytes s.mem (q + o) (imageHeader s.core.grid half first n) else s.mem)
        (q + o + 64 + 512 * e.prog) (rowImage s.core.grid half (first + e.prog)) := by
  obtain ⟨u, e1, hu, hwu, hh, hmu⟩ := imageHead_save (half := half) (first := first) (n := n) h hd (o := o) (by omega)
  obtain ⟨hop, hprog, hfin, hpl, hpend⟩ := id hh
  have hgrid : u.core.grid = s.core.grid := hwu.2.grid
  have h1 : Aperture u (u.entryWho e1 2) q sz := h.congr hpl hwu.2.gridTaskId hwu.cur hwu.tasks
  obtain ⟨t, ht, hwt, hmt⟩ := saveRow_spad (half := half) (first := first) (n := n) (o := o) h1 (fun a b => by rw [hgrid]; exact hn a b)
    (hwu.deadDies.trans hd) (by rw [hprog]; omega)
  refine ⟨t, e1, ?_, hwu.trans hwt, hh, by rw [hmt, hmu, hprog, hgrid]⟩
  rw [runImage, if_neg (not_not.2 (aperture_aligned ha)), if_neg (Nat.not_le.2 hi), hu]
  exact ht

/-! ### grest -/

/-- A grest keeps the bitmap of the header (R130). -/
theorem imageHead_rest (h : Aperture s (s.entryWho e 2) q sz) (ho : o + 64 ≤ sz) (hp : ∀ i < 16, s.poisoned (q + (o + i)) = false) :
    ∃ t e1, s.imageHead e true half first n (BitVec.ofNat 64 (apertureBase + o)) = (t, .ok e1) ∧ s.SameMemory t ∧ t.core = s.core ∧
      e.Headed e1 ∧ ∀ j < 128, e1.vp.acc.getLsbD j =
        if e.pend = [] then (s.byteAt (q + o + j / 8)).getLsbD (j % 8) else e.vp.acc.getLsbD j := by
  by_cases hpe : e.pend = []
  case neg => exact ⟨s, e, by simp [imageHead, hpe], .refl s, rfl, ⟨rfl, rfl, rfl, rfl, hpe⟩, fun j _ => by simp [hpe]⟩
  obtain ⟨t, ht, hs, hc⟩ := readRun_spad h (x := o) (n := 16) (by omega) hp
  refine ⟨t, { e with pend := [(0, 0, [])], vp := { e.vp with acc := BitVec.ofNat 128 (fromLE (s.readBytes (q + o) 16)) } },
    by simp [imageHead, hpe, ht], hs, hc, ⟨rfl, rfl, rfl, rfl, nofun⟩, fun j hj => ?_⟩
  have hlt : j / 8 < 16 := by omega
  rw [if_pos hpe, BitVec.getLsbD_ofNat, decide_eq_true hj, Bool.true_and, testBit_fromLE]
  simp [readBytes, List.getD_eq_getElem?_getD, hlt]

/-- A grest stores the bytes of a row, read without poison, in the grid (R130). -/
theorem restRow_eq {addr : Word} {m : List (Nat × Nat)} {as : List Nat} {bs : List Byte}
    (hm : s.mapRun (s.entryWho e 2) .load (addr + BitVec.ofNat 64 (64 + 512 * e.prog)) 512 = (s, .ok m))
    (hs : span (addr + BitVec.ofNat 64 (64 + 512 * e.prog)).toNat 512 = as) (hc : as.findIdx? (fun a => s.poisoned (mapped m a)) = none)
    (hb : as.map (fun a => s.byteAt (mapped m a)) = bs) :
    ∃ t, s.restRow e half first n addr = t.imageNext e n ∧ s.SameMemory t ∧
      t.core = { s.core with grid := restoreRow s.core.grid half (first + e.prog) (e.vp.acc.getLsbD e.prog) bs } := by
  obtain ⟨u, hu⟩ : ∃ u, u = (s.meterReads s.part (as.map (mapped m))).updCore fun c =>
    { c with grid := restoreRow c.grid half (first + e.prog) (bitNat e.vp.acc.toNat e.prog) bs } := ⟨_, rfl⟩
  refine ⟨u, ?_, ?_, ?_⟩
  · unfold restRow
    dsimp only
    rw [hm]
    dsimp only
    rw [hs, hc]
    dsimp only
    rw [hb, hu]
  · rw [hu]
    exact (SameMemory.meterReads _ _).trans (.updCore _)
  · rw [hu, bitNat_eq_testBit]
    rfl

theorem restRow_spad (h : Aperture s (s.entryWho e 2) q sz) (ho : o + 64 + 512 * e.prog + 512 ≤ sz)
    (hp : ∀ i < 512, s.poisoned (q + (o + (64 + 512 * e.prog) + i)) = false) :
    ∃ t, s.restRow e half first n (BitVec.ofNat 64 (apertureBase + o)) = t.imageNext e n ∧ s.SameMemory t ∧ t.core = { s.core with
      grid := restoreRow s.core.grid half (first + e.prog) (e.vp.acc.getLsbD e.prog) (s.readBytes (q + o + 64 + 512 * e.prog) 512) } := by
  obtain ⟨m, hm, hmap⟩ := h.mapRun (k := .load) nofun (x := o + (64 + 512 * e.prog)) (n := 512) (by omega)
  obtain ⟨-, hsz, hq, hq', -⟩ := h
  have hspan := Aperture.span_eq (x := o + (64 + 512 * e.prog)) (n := 512) (by omega)
  have hclean : ((List.range 512).map fun i => apertureBase + (o + (64 + 512 * e.prog) + i)).findIdx? (fun a => s.poisoned (mapped m a)) = none := by
    refine List.findIdx?_eq_none_iff.2 fun a ha => ?_
    obtain ⟨i, hi, rfl⟩ := List.mem_map.1 ha
    have hi := List.mem_range.1 hi
    rw [hmap i hi]
    exact hp i hi
  have hbytes : ((List.range 512).map fun i => apertureBase + (o + (64 + 512 * e.prog) + i)).map (fun a => s.byteAt (mapped m a)) =
      s.readBytes (q + o + 64 + 512 * e.prog) 512 := by
    rw [List.map_map]
    refine List.map_congr_left fun i hi => ?_
    exact (congrArg s.byteAt (hmap i (List.mem_range.1 hi))).trans (congrArg s.byteAt (by omega))
  rw [← ofNat_aperture_add] at hm hspan
  exact restRow_eq hm hspan hclean hbytes

/-- One row of a grest, behind the header where the entry does not hold the bitmap yet (R130). -/
theorem runImage_rest (h : Aperture s (s.entryWho e 2) q sz) (ha : o % 64 = 0) (hi : e.prog < n) (ho : o + 64 + 512 * n ≤ sz)
    (hp : ∀ a, q + o ≤ a → a < q + o + 64 + 512 * n → s.poisoned a = false) :
    ∃ t e1, s.runImage e true half first n (BitVec.ofNat 64 (apertureBase + o)) = t.imageNext e1 n ∧ s.SameMemory t ∧ e.Headed e1 ∧
      (∀ j < 128, e1.vp.acc.getLsbD j = if e.pend = [] then (s.byteAt (q + o + j / 8)).getLsbD (j % 8) else e.vp.acc.getLsbD j) ∧
      t.core = { s.core with
        grid := restoreRow s.core.grid half (first + e.prog) (e1.vp.acc.getLsbD e.prog) (s.readBytes (q + o + 64 + 512 * e.prog) 512) } := by
  obtain ⟨u, e1, hu, hsu, hcu, hh, hacc⟩ := imageHead_rest (half := half) (first := first) (n := n) h (o := o) (by omega)
    fun i hi => hp _ (by omega) (by omega)
  obtain ⟨hop, hprog, hfin, hpl, hpend⟩ := id hh
  have h1 : Aperture u (u.entryWho e1 2) q sz := h.congr hpl (congrArg Core.gridTaskId hcu) hsu.cur hsu.tasks
  obtain ⟨t, ht, hst, hct⟩ := restRow_spad (half := half) (first := first) (n := n) (o := o) h1 (by rw [hprog]; omega)
    (fun i hi => by rw [hsu.poisoned, hprog]; exact hp _ (by omega) (by omega))
  refine ⟨t, e1, ?_, hsu.trans hst, hh, hacc, by rw [hct, hcu, hsu.readBytes, hprog]⟩
  rw [runImage, if_neg (not_not.2 (aperture_aligned ha)), if_neg (Nat.not_le.2 hi), hu]
  exact (if_pos rfl).trans ht

end State

end Sys2Proof.Machine

end

section
/-! PROOFS. The window pipe does masks, fills, copies, grid memory, images and accumulation windows (O29). -/

namespace Sys2Proof.Machine

open Sys2Proof.Safety

/-! ### Images, row by row -/

/-- A restored row is valid as its bit says, and dirty (R130). -/
theorem row_restoreRow (g : Grid) (half r : Nat) (valid : Bool) (bs : List Byte) :
    ((restoreRow g half r valid bs).row half r).valid = valid ∧ ((restoreRow g half r valid bs).row half r).dirty = true := by
  rw [restoreRow, Grid.row_setRow, if_pos ⟨rfl, rfl⟩]
  cases valid <;> exact ⟨rfl, rfl⟩

/-- Its cells are those of the image, or zero. -/
theorem cell_restoreRow (g : Grid) (half r : Nat) (valid : Bool) (bs : List Byte) {c : Nat} (hc : c < 128) :
    (restoreRow g half r valid bs).cell half r c = if valid then BitVec.ofNat 32 (fromLE ((bs.drop (4 * c)).take 4)) else 0 := by
  cases valid
  · rw [restoreRow, Grid.cell_setRow, if_pos ⟨rfl, rfl⟩, if_neg, if_neg] <;> exact Bool.false_ne_true
  · have hcell := Grid.cell_setRow_ofFn g half r c half r true false fun i => BitVec.ofNat 32 (fromLE ((bs.drop (4 * i.val)).take 4))
    rw [if_pos ⟨rfl, rfl⟩] at hcell
    simp only [Nat.mod_eq_of_lt hc] at hcell
    exact hcell

/-- The entry goes on behind a row of its image, or it is gone with the last. -/
def ImageGoesOn (e : Entry) (n : Nat) (t : State) (e1 : Entry) : Prop :=
  t.core.flight = (if e.prog + 1 < n then [e1] else []) ∧ e1.op = e.op ∧ e1.prog = e.prog + 1 ∧ e1.pend ≠ []

section Images

variable {s t : State} {e e1 : Entry} {half first n o r sz : Nat} (h : Alone s e) (hn : NoAbsent s)

include h hn

theorem windowPipe_imageNext (hp : e.op.pipe = 1) (hu : s.runUnit [] true .pass e = t.imageNext e1 n) (hf : t.core.flight = [e])
    (hh : e.Headed e1) : ∃ u, exec (.windowPipeVector .pass) s = .next u ∧ ImageGoesOn e n u { e1 with prog := e1.prog + 1 } ∧
      u.core.grid = t.core.grid ∧ u.core.regs = t.core.regs ∧ u.mem = t.mem := by
  obtain ⟨hop, hprog, hfin, hpl, hpend⟩ := hh
  unfold State.imageNext at hu
  dsimp only at hu
  by_cases hm : e1.prog + 1 < n
  · rw [if_pos hm] at hu
    refine ⟨_, windowPipe_more h hn hp hu hf (hfin.trans h.2.1), ⟨?_, hop, congrArg (· + 1) hprog, hpend⟩, rfl, rfl, rfl⟩
    rw [if_pos (by rwa [← hprog])]
    rfl
  · rw [if_neg hm] at hu
    refine ⟨_, windowPipe_done h hn hp hu hf, ⟨?_, hop, congrArg (· + 1) hprog, hpend⟩, rfl, rfl, rfl⟩
    rw [if_neg (by rwa [← hprog])]
    rfl

variable (hi : e.prog < n) (hpl : e.pl < 2) (hc : s.cur < 96) (hr : s.reservation s.core.gridTaskId (s.cur / 4) = some (r, sz))
  (ha : o % 64 = 0) (ho : o + 64 + 512 * n ≤ sz) (hsz : r + sz ≤ spadBytes)

include hi hpl hc hr ha ho hsz

/-- One row of a gsave whose image lies in the aperture (R129). -/
theorem windowPipe_gsave (hop : e.op = .gimage false half first n (BitVec.ofNat 64 (apertureBase + o))) (hd : s.deadDies = []) {pa row : Nat}
    (hpa : pa = spadBase + s.cur / 4 * spadBytes + r + o) (hrow : row = pa + 64 + 512 * e.prog) :
    ∃ t e1, exec (.windowPipeVector .pass) s = .next t ∧ ImageGoesOn e n t e1 ∧ t.core.grid = s.core.grid ∧ t.core.regs = s.core.regs ∧
      (∀ c < 128, ∀ b < 4, Sp.get 0 t.mem (row + 4 * c + b) = (s.core.grid.cell half (first + e.prog) c).extractLsb' (8 * b) 8) ∧
      (e.pend = [] ∧ e.prog = 0 →
        (∀ j < 128, (Sp.get 0 t.mem (pa + j / 8)).getLsbD (j % 8) = (decide (j < n) && (s.core.grid.row half (first + j)).valid)) ∧
        Sp.get 0 t.mem (pa + 16) = BitVec.ofNat 8 half ∧ Sp.get 0 t.mem (pa + 17) = BitVec.ofNat 8 first ∧
        Sp.get 0 t.mem (pa + 18) = BitVec.ofNat 8 (n - 1) ∧ ∀ j, 19 ≤ j → j < 64 → Sp.get 0 t.mem (pa + j) = 0) ∧
      (∀ a, a < row ∨ row + 512 ≤ a → (e.pend = [] ∧ e.prog = 0 → a < pa ∨ pa + 64 ≤ a) → Sp.get 0 t.mem a = Sp.get 0 s.mem a) := by
  obtain ⟨t, e1, ht, hw, hh, hm⟩ := State.runImage_save (half := half) (first := first) (aperture_entryWho hpl hc hr hsz) hn hd ha hi ho
  obtain ⟨u, hu, hgo, hgrid, hregs, hmem⟩ := windowPipe_imageNext h hn (by rw [hop]; rfl) (by rw [State.runUnit, hop]; exact ht)
    (hw.2.flight.trans h.1) hh
  rw [← hpa, ← hrow] at hm
  have hl := rowImage_length s.core.grid half (first + e.prog)
  have hhl := imageHeader_length s.core.grid half first n
  have hout (a : Nat) (hx : a < row ∨ row + 512 ≤ a) : Sp.get 0 u.mem a =
      Sp.get 0 (if e.pend = [] ∧ e.prog = 0 then pokeBytes s.mem pa (imageHeader s.core.grid half first n) else s.mem) a := by
    rw [hmem, hm, get_pokeBytes_out _ _ _ _ (by omega)]
  refine ⟨u, _, hu, hgo, hgrid.trans hw.2.grid, hregs.trans hw.2.regs, fun c hc b hb => ?_, fun hfirst => ?_, fun a hx hy => ?_⟩
  · rw [hmem, hm, Nat.add_assoc, get_pokeBytes_of_getElem? (rowImage_getElem? _ _ _ hc hb)]
  · have hhead {k : Nat} {x : Byte} (hk : k < 64) (hx : (imageHeader s.core.grid half first n)[k]? = some x) : Sp.get 0 u.mem (pa + k) = x := by
      rw [hout _ (by omega), if_pos hfirst, get_pokeBytes_of_getElem? hx]
    refine ⟨fun j hj => ?_, hhead (by decide) (imageHeader_tail _ _ _ _ 0), hhead (by decide) (imageHeader_tail _ _ _ _ 1),
      hhead (by decide) (imageHeader_tail _ _ _ _ 2), fun j h1 h2 => hhead h2 (imageHeader_zero _ _ _ _ h1 h2)⟩
    obtain ⟨x, hx, hbit⟩ := imageHeader_bit s.core.grid half first n hj
    rw [hhead (by omega) hx, hbit]
  · rw [hout a hx]
    split
    case isTrue hfirst =>
      have := hy hfirst
      exact get_pokeBytes_out _ _ _ _ (by omega)
    case isFalse => rfl

/-- One row of a grest whose image lies in the aperture (R130). -/
theorem windowPipe_grest (hop : e.op = .gimage true half first n (BitVec.ofNat 64 (apertureBase + o))) (hh2 : half < 2) (hfn : first + n ≤ 128)
    {pa row : Nat} (hpa : pa = spadBase + s.cur / 4 * spadBytes + r + o) (hrow : row = pa + 64 + 512 * e.prog)
    (hp : ∀ a, pa ≤ a → a < pa + 64 + 512 * n → s.poisoned a = false) {there : Nat → Bool}
    (hthere : ∀ j, there j = if e.pend = [] then (s.byteAt (pa + j / 8)).getLsbD (j % 8) else e.vp.acc.getLsbD j) :
    ∃ t e1, exec (.windowPipeVector .pass) s = .next t ∧ ImageGoesOn e n t e1 ∧ t.core.regs = s.core.regs ∧ t.mem = s.mem ∧
      (∀ j < 128, e1.vp.acc.getLsbD j = there j) ∧
      ((t.core.grid.row half (first + e.prog)).valid = there e.prog ∧ (t.core.grid.row half (first + e.prog)).dirty = true ∧
        ∀ c < 128, t.core.grid.cell half (first + e.prog) c = if there e.prog then BitVec.ofNat 32 (s.readNat (row + 4 * c) 4) else 0) ∧
      (∀ k < 2, ∀ q < 128, k ≠ half ∨ q ≠ first + e.prog → t.core.grid.row k q = s.core.grid.row k q) := by
  subst hpa hrow
  obtain ⟨t, e1, ht, hs, hh, hacc, hcore⟩ := State.runImage_rest (half := half) (first := first) (aperture_entryWho hpl hc hr hsz) ha hi ho hp
  obtain ⟨u, hu, hgo, hgrid, hregs, hmem⟩ := windowPipe_imageNext h hn (by rw [hop]; rfl) (by rw [State.runUnit, hop]; exact ht)
    (by rw [hcore]; exact h.1) hh
  have hbit : e1.vp.acc.getLsbD e.prog = there e.prog := (hacc _ (by omega)).trans (hthere _).symm
  rw [hcore, hbit] at hgrid
  refine ⟨u, _, hu, hgo, by rw [hregs, hcore], hmem.trans hs.mem, fun j hj => (hacc j hj).trans (hthere j).symm, ?_, fun k hk q hq hne => ?_⟩
  · rw [hgrid]
    refine ⟨(row_restoreRow _ _ _ _ _).1, (row_restoreRow _ _ _ _ _).2, fun c hc => ?_⟩
    rw [cell_restoreRow _ _ _ _ _ hc, readBytes_drop_take _ _ hc, State.readNat]
  · rw [hgrid]
    exact (Grid.row_setRow _ _ _ _ _ _).trans (if_neg (by omega))

end Images

/-! ### The obligation -/

/-- Settles O29: each clause is the unit of its instruction, as the sections above describe it. -/
theorem windowPipeDoesMasksAndTiles : Obligations.WindowPipeDoesMasksAndTiles := by
  refine ⟨fun s e h hn => ⟨?_, ?_, ?_, ?_, ?_, ?_, ?_, ?_⟩, ?_, fun tr f g h r c hok hh hr hc => cell_copyGrid g hok hh hr hc,
    fun g z v j base str w => ⟨ofNat_glsAddr_none g z v j base str, ofNat_glsAddr_some g z v j base str w⟩,
    fun g z w m base str wi start n a => mem_glsItems g z m base str wi start w,
    fun g z m base str wi start v n a => ⟨vecItems_pairwise g z m base str wi start v, mem_vecItems g z m base str wi start v⟩,
    fun s s1 e k z items m pf => State.glsProbe_passes,
    fun s s1 w z n a pa k m rest => ⟨State.probeItems_misaligned, State.probeItems_found, State.probeItems_access⟩, ?_, ?_, ?_, ?_⟩
  · exact fun op d a b x y ho hr => windowPipe_kop_mask h hn ho hr
  · exact fun d a ho => (windowPipe_kop_reg h hn ho rfl).trans (by rw [kopWord_getl])
  · exact fun d a ho => (windowPipe_kop_reg h hn ho rfl).trans (by rw [kopWord_geth])
  · exact fun d a ho => (windowPipe_kop_reg h hn ho rfl).trans (by rw [kopWord_pop])
  · exact fun d a i ho hi h0 h1 => (windowPipe_kop_reg h hn ho rfl).trans (by rw [kopWord_first hi h0 h1])
  · exact fun d v ho => windowPipe_wrd h hn ho
  · exact fun w km v ho => windowPipe_ofill h hn ho rfl rfl
  · exact fun tr f ho => windowPipe_copy h hn ho
  · intro w m x g v h r c hh hr hc
    refine (cell_fillVec w m x g hh hr hc).trans ?_
    unfold Window.elemAt Window.base
    cases w.mode <;> dsimp only <;> split <;> rfl
  · intro s s1 e e1 k z w km base str wi h hn ho hx
    refine ⟨fun hp hi => windowPipe_gls_empty h hn ho hx hp hi, fun hr => ⟨fun hk hs hp => ?_, fun hk hfree hw =>
      windowPipe_gls_store h hn ho hx hr hk hfree hw⟩⟩
    obtain ⟨u, l, hu, hregs, hmasks, hmem, hgrid, hend, hnext, hdrop, hkeep, hread⟩ := windowPipe_gls_load h hn ho hx hr hk hp
    refine ⟨u, hu, hregs, hmasks, hmem, hgrid, hend, fun hne => ⟨⟨l, (hnext hne).1, hdrop, hkeep, fun ho hb => hread ho ?_⟩, (hnext hne).2⟩⟩
    exact not_not.1 fun hne => hb ⟨ho, hne⟩
  · intro s e rest half first n o r sz h hn ho hi hpl hh hfn hc hd hr ha hs hsz
    refine ⟨?_, ?_⟩
    · rintro rfl
      exact windowPipe_gsave h hn hi hpl hc hr ha hs hsz ho hd rfl rfl
    · rintro rfl hp
      exact windowPipe_grest h hn hi hpl hc hr ha hs hsz ho hh hfn rfl rfl hp fun _ => rfl
  · intro s e a h hg
    refine ⟨fun op base bytes ho => giqDeparture_awin h hg ho, fun ho => giqDeparture_arel h hg ho, fun w hw =>
      ⟨fun wi wv km hn ho => windowPipe_ascat h hn hw ho, fun ho => ⟨?_, ?_, ?_, ?_⟩⟩⟩
    · exact fun s1 m hp hm hl hs hc => giqDeparture_amerge_probe h hg ho hw hp hm hl hs hc
    · exact fun k hp hm hl hx => giqDeparture_amerge_read h hg ho hw hp hm hl rfl hx
    · exact fun k pa old hp hx => giqDeparture_amerge_write h hg ho hw hp hx
    · exact fun hp hl => giqDeparture_amerge_done h hg ho hw hp hl
  · intro w m g wi wv v k r hk hb
    have hlanes := AWin.behind_ascatVec (m := m) (g := g) (wi := wi) (wv := wv) (v := v) hb r
    refine ⟨fun j hj => ?_, hlanes.touched k hk, AWin.copy_merged (by omega), AWin.not_mem_touched_merged k⟩
    by_cases hh : AWin.hits m g wi v j k
    · exact (hlanes.copy_hit j k hk hj hh).trans (if_pos hh).symm
    · exact (hlanes.copy_miss j k hk fun x => hh x.2).trans (if_neg hh).symm

end Sys2Proof.Machine

end
